-- ==== Sys2Proof/Word.lean ====
section
/-! DEFINITION. Word.lean: the words of the HL840, as the spec lays them out (R11, R12): bit 0 is the
least significant bit, multi-byte fields are little-endian. -/

namespace Sys2Proof

/-- One byte of any address space of the module. -/
abbrev Byte := BitVec 8
/-- A 16-bit word. -/
abbrev W16 := BitVec 16
/-- A 32-bit word; also an FP32 encoding (R56). -/
abbrev W32 := BitVec 32
/-- A 64-bit word; also a house time in nanoseconds (R22). -/
abbrev W64 := BitVec 64
/-- A byte string, lowest address first. -/
abbrev Bytes := List Byte
/-- A 128 B operation record (R95): bit 8b is the low bit of byte b. -/
abbrev Rec := BitVec 1024
/-- A 64 B descriptor: a mover (R133), KPM (R238) or TXU (R261) descriptor, an SQ entry (R211). -/
abbrev Desc := BitVec 512
/-- A 32 B message of lane 3 (R311), or a 32 B token record (R376). -/
abbrev Msg32 := BitVec 256
/-- A 256 B Elren flit (R299) or meter record (R385). -/
abbrev Flit := BitVec 2048

end Sys2Proof
end

