-- ==== Sys2Proof/Syntax.lean ====
section
/-! DEFINITION. Syntax.lean: the commands of the block, one constructor of `Instr` for each row of
spec/opcode_table.json, and the operand types they use. The table gives its rows no bits, so the operands
are those the rule of each row names; what only the outside can know (data read from host memory, the
outcome of a physical check, a sensor's reading) is an operand. -/

namespace Sys2Proof

/-- A PCI Express function (R425): the PF, or VF p of partition p. -/
inductive Fn where
  | pf
  | vf (p : Nat)
deriving DecidableEq, Repr

/-- The outcome of a host read (R430): the bytes, a refused or failed read, or a completion timeout. -/
inductive HostRd where
  | data (b : Bytes)
  | refused
  | timeout
deriving DecidableEq, Repr

/-- What a read of an ECC-protected word found (R116, R129): no error, one corrected, an uncorrectable one. -/
inductive MemErr where
  | clean
  | corr
  | uncorr
deriving DecidableEq, Repr

/-- What is wrong with a tier codeword (R158 to R160): the die of each symbol in error; whether an error beyond the code's reach
decodes to another codeword; and how many corrections the dies' own code makes beneath it. -/
structure CwErr where
  dies : List Nat
  missed : Bool
  inner : Nat
deriving DecidableEq, Repr

/-- A physical upset of stored data: of a store word or a core buffer's word, by word number, or of a tier codeword, by its tier
physical address / 64. -/
inductive Upset where
  | store (word : Nat) (e : MemErr)
  | core (k word : Nat) (e : MemErr)
  | tier (cw : Nat) (e : CwErr)
deriving DecidableEq, Repr

/-- How a record comes in from ELREN (R263, R309): the port that takes its message, the module that sent it, and its message number. -/
structure Arrival where
  port : Nat
  origin : W16
  num : Nat
deriving DecidableEq, Repr

/-- A tier unit: near stack s, or the module or shelf rank of bridge b (R142). -/
inductive TierUnit where
  | near (s : Nat)
  | modRank (b : Nat)
  | shelf (b : Nat)
deriving DecidableEq, Repr

/-- Where a failed write of the GFE to a queue fell (R228). -/
inductive WrFault where
  | none
  | tokenRing
  | cqEntry
deriving DecidableEq, Repr

/-- A register page by its block type and unit number (Table 20.3); of the two near pages of a tile the unit is the stack. -/
structure Page where
  typ : Nat
  unit : Nat
deriving DecidableEq, Repr

/-- The fields of a firmware image (Table 16.5) and the body the header covers. -/
structure FwImage where
  magic : W32
  target : W16
  hdrVer : Byte
  keySlot : Nat
  svn : Nat
  imageLen : Nat
  digest : Bytes
  pubkey : Bytes
  sig : Bytes
  body : Bytes
deriving DecidableEq, Repr

/-- What forward error correction and the CRC made of an arriving flit (R299, R300). -/
inductive FecRes where
  | good (corrected : Nat)
  | uncorrectable
deriving DecidableEq, Repr

/-- A request from another module on lane 0 (R187, R315), as its header and body give it: partition and
generation, requesting module, the request's number there, and what it asks. -/
inductive RemOp where
  | read (va : Nat) (len : Nat)
  /-- `bad`: the bytes sent as poisoned (R130) -/
  | write (va : Nat) (data : Bytes) (bad : List Nat)
  | atom (va : Nat) (fn : BitVec 11) (opnd : W64) (cmp : W64)
deriving DecidableEq, Repr

/-- The header of a remote request: DPART, ENC checked, GEN, SRC and the request number. -/
structure RemHdr where
  dpart : Nat
  gen : Byte
  src : W16
  tag : Nat
  authOk : Bool
deriving DecidableEq, Repr

/-- A response on lane 1 (R187, R315): data, an acknowledgement, or a refusal with its sub-status of Table 14.6
(0x0004 with `fault` for an unmapped or protected address at the home, Table 16.3). -/
inductive RemResp where
  /-- `bad`: the bytes answered as poisoned (R129) -/
  | data (b : Bytes) (bad : List Nat)
  | ack
  | refusal (sub : W16)
  | remoteFault
deriving DecidableEq, Repr

/-- A fold block (R321) with the header fields of Table 15.1. -/
structure FoldBlk where
  step : Byte
  attempt : Nat
  block : Nat
  residue : Nat
  scale : Nat
  width : Nat
  poison : W64
  elems : List Int
deriving DecidableEq, Repr

/-- A message between two modules' fold engines (Table 15.3): which module sent it, its partition and
generation, tensor and block. -/
structure FoldMsg where
  src : W16
  part : Nat
  gen : Byte
  tensor : W32
  blk : FoldBlk
deriving DecidableEq, Repr

/-- The spaces of a function that a host writes: its configuration space and its BARs (Table 19.2). -/
inductive Bar where
  | config
  | bar0
  | bar2
  | bar4
deriving DecidableEq, Repr

/-- A write of the host: the function, the space and the offset in it, 8 B wide or 4 B, and the value. -/
structure RegAcc where
  fn : Fn
  bar : Bar
  off : Nat
  wide : Bool
  val : W64
deriving DecidableEq, Repr

/-- Whom Sage samples (R402): the engines of a partition, or the shared blocks. -/
inductive SageDom where
  | part (p : Nat)
  | shared
deriving DecidableEq, Repr

/-- The commands: one constructor for each row of spec/opcode_table.json. -/
inductive Instr where
  -- house time and the step edge (02, 20)
  | timeRoleWrite (v : BitVec 2)
  | timeSet (v : W64)
  | cadenceFrame (frame : BitVec 104)
  | cadenceOutFrame
  | timeBeaconSend
  | timeBeaconReceive (port : Nat) (msg : Msg32)
  | timeReply (port : Nat) (msg : Msg32)
  | acquiringTimeout
  | holdoverEntry
  | unsyncedEntry
  | bind (p : Nat)
  | unbind (p : Nat)
  | unbindEffect (p : Nat)
  | attemptStart (p : Nat)
  | statusBeaconSend (p : Nat) (ready : Bool)
  | statusBeaconReceive (msg : Msg32)
  | coordinatorDecide (p : Nat) (members : List (W16 × Nat))
  | decisionReceive (msg : Msg32)
  | commitEdge (p : Nat)
  | repeatEdge (p : Nat)
  | abandonEdge (p : Nat)
  | coordinatorLost (p : Nat)
  -- operation records and engines (04, 05)
  | nop (core eng : Nat)
  | mm (core arr : Nat)
  | tileLoad (core arr : Nat)
  | streamedVector (core arr : Nat) (parityErr : Bool)
  | shadowCheck (core : Nat)
  | vecElt (core : Nat)
  | vecFn (core : Nat)
  | vecRed (core : Nat)
  | vecTopk (core : Nat)
  | vecRand (core : Nat)
  | vecConv (core : Nat)
  | vecResadd (core : Nat)
  | vecSample (core : Nat)
  | scRun (core pipe : Nat)
  | portMover (core : Nat)
  | portKpm (core : Nat)
  | portTxu (core : Nat)
  | portEmit (core : Nat)
  | recordPlace (core : Nat) (opidx : W32) (rec : Rec) (ahead : Nat)
  | recordRetire (core eng : Nat) (idx : Nat)
  -- scalar instructions (05, 08)
  | alu (core pipe : Nat) (fn : BitVec 11) (gd ga gb : BitVec 5)
  | addi (core pipe : Nat) (gd ga : BitVec 5) (imm : W16)
  | andi (core pipe : Nat) (gd ga : BitVec 5) (imm : W16)
  | ori (core pipe : Nat) (gd ga : BitVec 5) (imm : W16)
  | xori (core pipe : Nat) (gd ga : BitVec 5) (imm : W16)
  | shli16 (core pipe : Nat) (gd ga : BitVec 5) (imm : W16)
  | ld (core pipe : Nat) (gd ga : BitVec 5) (imm : W16) (err : MemErr)
  | ldw (core pipe : Nat) (gd ga : BitVec 5) (imm : W16) (err : MemErr)
  | st (core pipe : Nat) (gd ga : BitVec 5) (imm : W16)
  | stw (core pipe : Nat) (gd ga : BitVec 5) (imm : W16)
  | cld (core pipe : Nat) (gd ga : BitVec 5) (imm : W16) (err : MemErr)
  | cldw (core pipe : Nat) (gd ga : BitVec 5) (imm : W16) (err : MemErr)
  | cst (core pipe : Nat) (gd ga : BitVec 5) (imm : W16)
  | cstw (core pipe : Nat) (gd ga : BitVec 5) (imm : W16)
  | atom (core pipe : Nat) (fn : BitVec 11) (gd ga gb : BitVec 5)
  | beq (core pipe : Nat) (gd ga : BitVec 5) (imm : W16)
  | bne (core pipe : Nat) (gd ga : BitVec 5) (imm : W16)
  | blt (core pipe : Nat) (gd ga : BitVec 5) (imm : W16)
  | bge (core pipe : Nat) (gd ga : BitVec 5) (imm : W16)
  | jal (core pipe : Nat) (gd : BitVec 5) (imm : W16)
  | jr (core pipe : Nat) (gd ga : BitVec 5)
  | waitc (core pipe : Nat) (ga : BitVec 5) (imm : W16)
  | sigc (core pipe : Nat) (ga gb : BitVec 5)
  | post (core pipe : Nat) (gd ga gb : BitVec 5)
  | rdsys (core pipe : Nat) (gd : BitVec 5) (imm : W16)
  | fence (core pipe : Nat) (imm : W16)
  | halt (core pipe : Nat)
  | rcFlush (core : Nat) (v : W64)
  -- the central store and the mover (06)
  | storeScrub (tile : Nat) (err : MemErr)
  | storeAddrClr (tile : Nat) (v : W64)
  | copy (tile id : Nat)
  | gather (tile id : Nat)
  | scatter (tile id : Nat)
  | transpose (tile id : Nat)
  | fill (tile id : Nat)
  | scrub (tile id : Nat)
  | migrate (tile id : Nat)
  | descriptorComplete (tile id : Nat)
  | pqTail (tile : Nat) (v : W64)
  | tierReply (tile id : Nat)
  -- tiers (07)
  | nearBurst (u : TierUnit) (off len : Nat) (wr : Bool) (stream : Nat) (err : CwErr)
  | crumb (bridge rank off len : Nat) (wr : Bool) (stream : Nat) (err : CwErr)
  | tierScrub (u : TierUnit) (err : CwErr)
  | pprDone (u : TierUnit)
  | retirement (u : TierUnit)
  | retire (u : TierUnit) (page : Nat)
  | flashAppend
  | tierAddrClr (u : TierUnit) (v : W64)
  | bridgeLinkDown (bridge : Nat)
  | tierInit
  -- plans, submission, completion (09, 10, 20)
  | load (fn : Fn) (q : Nat)
  | unload (fn : Fn) (q : Nat)
  | unloadComplete (p : Nat) (handle : Nat)
  | patch (fn : Fn) (q : Nat)
  | contractWrite (v : W64)
  | sqTail (fn : Fn) (q : Nat) (v : W64)
  | cqHead (fn : Fn) (q : Nat) (v : W64)
  | trHead (fn : Fn) (q : Nat) (v : W64)
  | entryFetch (fn : Fn) (q : Nat) (rd : HostRd)
  | launchPlace (fn : Fn) (q : Nat)
  | signal (fn : Fn) (q : Nat)
  | hostCopy (fn : Fn) (q : Nat) (rd : HostRd)
  | hostCopyComplete (fn : Fn) (q : Nat) (fault : Bool)
  | completionEntry (fn : Fn) (q : Nat) (fault : WrFault)
  | deadlockWalk (p : Nat)
  | sqEnable (fn : Fn) (q : Nat)
  | sqDisable (fn : Fn) (q : Nat)
  | sqDrained (fn : Fn) (q : Nat)
  | sqResume (fn : Fn) (q : Nat)
  | sqFlush (fn : Fn) (q : Nat)
  | cqEnable (fn : Fn) (q : Nat)
  | cqDisable (fn : Fn) (q : Nat)
  | rearm (fn : Fn) (q : Nat) (faultAt : Option Nat)
  | contextSwitch (p : Nat)
  | noticeCq (v : W64)
  -- the KV page manager (11)
  | kpmOpen (tile id : Nat)
  | close (tile id : Nat)
  | alloc (tile id : Nat)
  | share (tile id : Nat)
  | free (tile id : Nat)
  | privatize (tile id : Nat)
  | reserve (tile id : Nat)
  | accept (tile id : Nat)
  | span (tile id : Nat)
  | pin (tile id : Nat)
  | move (tile id : Nat)
  | pattern (tile id : Nat)
  | cowCopyDone (tile id : Nat)
  | kpmOpComplete (tile id : Nat)
  | poolAdd (tile : Nat) (v : W64)
  -- token exchange (12)
  | slots (cluster id : Nat)
  | dispatch (cluster id : Nat)
  | passDone (cluster id : Nat)
  | dispatchRecord (cluster : Nat) (origin : Arrival) (hdr tag : BitVec 128) (row : Bytes)
  | endRecord (cluster : Nat) (origin : Arrival) (originTxu : Nat) (hdr : BitVec 128)
  | resultRecord (cluster : Nat) (hdr tag : BitVec 128) (row : Bytes)
  -- numerics in service (13, 20)
  | layerMark (p : Nat) (layer : Nat)
  | widenReq (msg : Msg32)
  | widenOrder (msg : Msg32)
  | drainedSend (p : Nat)
  | drained (msg : Msg32) (members : List (W16 × Nat))
  | widenResume (msg : Msg32)
  | nerEnable (p : Nat)
  | nerDisable (p : Nat)
  | nerRearm (p : Nat)
  -- Elren (14)
  | flitReceive (port : Nat) (flit : Flit) (fec : FecRes) (crcOk tagOk : Bool)
  | linkTraining (port : Nat) (locked : W16)
  | train (port : Nat) (peer : W16) (peerPort : Nat) (isSwitch : Bool) (keyOk : Bool)
  | linkUp (port : Nat)
  | trainingTimeout (port : Nat)
  | linkDown (port : Nat) (cause : Nat)
  | remoteRequest (port : Nat) (hdr : RemHdr) (op : RemOp)
  | remoteResponse (port : Nat) (tag : Nat) (gen : Byte) (resp : RemResp)
  | elrenEnable (port : Nat) (v : Bool)
  | elrenFence (port : Nat) (v : Bool)
  | forceHalf (port : Nat) (v : Bool)
  | lsuFail (b : Bool)
  | lsuCtrl (v : BitVec 2)
  -- fold engines (15)
  | foldEntryStart (engine p : Nat)
  | up (engine : Nat) (msg : FoldMsg)
  | down (engine : Nat) (msg : FoldMsg)
  | bcast (engine : Nat) (msg : FoldMsg)
  | grant (engine : Nat) (p : Nat) (tensor : W32) (windowEnd : Nat)
  | foldEntryComplete (engine p : Nat)
  -- partitions and translation (16)
  | create (p : Nat)
  | teardown (p : Nat)
  | teardownDrained (p : Nat)
  | teardownRelease (p : Nat)
  | reenable (p : Nat)
  | map (p : Nat)
  | unmap (p : Nat)
  | protect (p : Nat)
  | mapComplete (p : Nat)
  | translationWalk (tile p ctx : Nat) (va : Nat) (wr : Bool)
  | xlatInval (tile : Nat) (v : W64)
  -- boot chain, identity, keys (16, 19)
  | perstNDeassert (sel : BitVec 2)
  | perstNAssert
  | bootReady
  | push (img : Option FwImage)
  | pushWrite (img : Option FwImage) (flashOk : Bool)
  | stageFlash (img : Option FwImage) (flashOk : Bool)
  | mbxDone
  | rollbackCommit (v : W64)
  | reportRequest (p : Nat)
  | reportDone (p : Nat)
  | getVersion
  | getCapabilities
  | negotiateAlgorithms
  | getDigests
  | getCertificate (slot : Nat) (off len : Nat)
  | challenge (nonce : Bytes)
  | getMeasurements (idx : Nat)
  | keyExchange (data : Bytes)
  | finish (sid : Nat) (verified : Bool)
  | keyUpdate (sid : Nat)
  | endSession (sid : Nat)
  | keySet (sid : Nat) (target : Option Nat) (key : BitVec 256)
  | dbgKeySet (sid : Nat) (key : Bytes)
  | ideKm (sid : Nat) (stream : Nat) (key : BitVec 256)
  | lockInterface (p : Nat)
  | startInterface (p : Nat)
  | stopInterface (p : Nat)
  -- the metrology unit (17)
  | tokenRecordTap
  | edgeNotice
  | doorbellTap
  | launchTap
  | timeTap
  | fmuSecond
  | meterWindowEdge
  | recordWrite (fault : Bool)
  | vfCopyWrite (p : Nat) (head : Option HostRd) (fault : Bool)
  | setWindow
  | register
  | unregister
  | ringSet
  | ringAck
  | vfRingSet
  | setHold
  | note
  | seal
  -- progress, reset and recovery (18)
  | sageSample (d : SageDom)
  | preset (v : W64)
  | dreset (v : W64)
  | partitionComputeReset (p : Nat)
  | partitionResetComplete (p : Nat)
  | deviceComputeReset
  | deviceResetComplete
  | resetRecordCopy (fault : Bool)
  | wdogKick (v : W64)
  | watchdog
  | stewardRestartDone (digestOk : Bool)
  | fatal (cause : Nat)
  | dumpDone (ok : Bool) (len4k : Nat)
  | dumpGo (v : W64)
  | vfFlr (p : Nat)
  | pfFlr (linkDown : Bool)
  -- host interface and register pages (19, 20)
  | atsInvalidate (fn : Fn) (refuse : Bool)
  | busMasterEnable (fn : Fn) (en d0 : Bool)
  | msixUnmask (fn : Fn) (vec : Nat)
  | irqAck (v : W64)
  | faultClr (v : W64)
  | creset (pg : Page)
  | clrErr (pg : Page)
  | freeze (pg : Page) (on : Bool)
  | intStat (pg : Page) (v : W32)
  | intSet (pg : Page) (v : W32)
  | registerWrite (acc : RegAcc)
  | revoke (v : W64)
  | traceCtrl (v : W64)
  | traceGo (v : W64)
  -- power (20, 21)
  | clkClr (v : W64)
  | idleReq (v : W64)
  | idleEntry
  | idleExit
  | powerCap (sideband : Bool) (v : W64)
  | powerControl (avg1ms avg100us : Nat)
  | vinRange (mv : Nat)
  | vinShutdown (mv : Nat)
  | thermalStage (tj : List Nat)
  | thermtrip (tj : Nat)
  | pwrEnAssert (loopClosed : Bool)
  | pwrEnDeassert
  | pldmSensorRead (id : Nat)
  -- debug port (21)
  | idcode
  | bypass (ir : Byte)
  | dbgTrstN
  | dbgStatus (cmd : BitVec 192)
  | grantChunk (cmd : BitVec 192)
  | grantCommit (cmd : BitVec 192)
  | dbgHalt (cmd : BitVec 192)
  | dbgResume (cmd : BitVec 192)
  | dbgStep (cmd : BitVec 192)
  | bpSet (cmd : BitVec 192)
  | bpClr (cmd : BitVec 192)
  | memRd (cmd : BitVec 192)
  | memWr (cmd : BitVec 192)
  | regRd (cmd : BitVec 192)
  | regWr (cmd : BitVec 192)
  | grantExpiry (p : Nat)
  | linkChange (rate width : Nat) (isUp : Bool)
  | completionTimeout (fn : Fn) (q : Nat)
  | dumpCopyDone (fault : Bool)
  | refresh2x (u : TierUnit) (hot : Bool)
deriving DecidableEq, Repr

end Sys2Proof
end

