-- ==== Sys2Proof/Config.lean ====
section
/-! DEFINITION. Config.lean: the values the spec leaves open, as constants with no body: nothing can evaluate one, so a
statement that holds, holds whatever they are (log entry 5). -/

namespace Sys2Proof

/-- A fresh value of `n` bits: the `k`-th one taken. Read where the spec states no result. -/
opaque Config.freeBits : Nat → Nat → Nat

/-- Whether stored data is upset at a tick of the local reference, and which (log entry 72). -/
opaque Config.upset : (tick : Nat) → Option Upset

/-- Ticks between two per-bank refreshes of a near stack, less one (Table 7.4). -/
opaque Config.refreshEvery : Nat

/-- The fixed signature that a poisoned codeword's check symbols carry (R159): which no correctable error produces. -/
opaque Config.poisonSignature : List Nat

/-- The `idx`-th 16-bit rounding draw of an array in a step (R88): of the plan's seed, the step and the module array ID. -/
opaque Config.roundDraw : (seed : Nat) → (step : Nat) → (array : Nat) → (idx : Nat) → Nat

/-- A 32-bit draw of the sampling generator (R109): of the key, the partition and the 96-bit counter's parts. -/
opaque Config.sampleDraw : (key : Nat) → (part : Nat) → (hi : Nat) → (mid : Nat) → (lo : Nat) → Nat

/-- Which of the results within the stated accuracy a function of Table 5.8 delivers, by function and operand. -/
opaque Config.fnChoice : Nat → Nat → Nat

/-- The mask of a 32 B data unit under a tier key and tweak (R355): a byte by its place in the unit (log entry 9). -/
opaque Config.xtsMask : (key : BitVec 256) → (unit : Nat) → (i : Nat) → Byte

/-- The fixed function by which a sender chooses among the ports up of a route mask (R309), of DST, DPART, lane and their number. -/
opaque Config.routePick : (dst : Nat) → (dpart : Nat) → (lane : Nat) → (count : Nat) → Nat

/-- The destination partition that a request to another module names (R299): the spec does not say how a requester learns it. -/
opaque Config.destPart : (job : Nat) → (dst : Nat) → Nat

/-- The bank group of a bridge rank's row: the spec gives the near stacks' address hash only (R147). -/
opaque Config.rankGroup : (unit : Nat) → (row : Nat) → Nat

/-- The records that a stretch of record-stream bytes holds, in order: the core each is placed on, its plan operation index, its 128 B,
and whether its tensor's declared K exceeds 65,536. The spec gives neither the framing of records within the streams nor the layout of a
tensor's declaration (log entry 22). -/
opaque Config.framing : Bytes → List (Nat × W32 × Rec × Bool)

/-- The KV format that a plan declares (R65), by its DIGEST: the image layout has no field for it (log entry 29). -/
opaque Config.kvFormat : (digest : Bytes) → Nat

/-- The fused hash of a signing key slot's public key (R363). -/
opaque Config.fusedKeyHash : (slot : Nat) → Bytes

/-- Whether an Ed448 signature over a message verifies under a public key (R363, R471): the spec does not define Ed448. -/
opaque Config.edVerify : (key msg sig : Bytes) → Bool

/-- Measurement 0x01: the boot ROM, fixed per module revision (R367). -/
opaque Config.romMeasure : Bytes

/-- The bytes of a measured record or request that the spec does not lay out (R367), by what is measured and the values it states:
3 and 4 the measurements of those indices; 0x10 a creation record; 0x11 a mapping request; 0x12 a key change; 0x30 an UNLOAD; 0x31 a
PATCH (log entry 30). -/
opaque Config.measBytes : (what : Nat) → List Nat → Bytes

/-- The 512 B of a partition's report, which the spec does not lay out (R368): of the numbers and the byte strings it holds, in the
rule's order (log entry 50). -/
opaque Config.reportBytes : List Nat → List Bytes → Bytes

/-- ID.SERIAL. -/
opaque Config.serial : W64

/-- ID.REV. -/
opaque Config.revision : Nat

/-- The part is an HL840-4T-LC-S1 (R2, R3): true S1, false S0. -/
opaque Config.sealS1 : Bool

/-- METER.SERIAL, METER.ID's ROM version, METER.PUBKEY and METER.CERT. -/
opaque Config.fmuSerial : W64
opaque Config.fmuRom : W32
opaque Config.fmuPubkey : Bytes
opaque Config.fmuCert : Bytes

/-- The Ed448 signature of the FMU key over a message (R385): 114 B. -/
opaque Config.fmuSign : (msg : Bytes) → Nat

end Sys2Proof
end

