-- ==== Sys2Proof/Machine/Bits.lean ====
section
/-! DEFINITION. Machine/Bits.lean: bit fields, byte order and small list helpers (R11, R12). -/

namespace Sys2Proof.Machine

open Sys2Proof

/-- Bits `hi..lo` of a number (R11). -/
def nbits (w hi lo : Nat) : Nat := (w >>> lo) % 2 ^ (hi + 1 - lo)

/-- Bits `hi..lo` of a word, as a number (R11). -/
def bits {n : Nat} (w : BitVec n) (hi lo : Nat) : Nat := nbits w.toNat hi lo

/-- Bit `i` of a word. -/
def bitOf {n : Nat} (w : BitVec n) (i : Nat) : Bool := w.getLsbD i

/-- The field of `len` bytes at byte `off` of a block, little-endian (R12). -/
def byteFld {n : Nat} (w : BitVec n) (off len : Nat) : Nat := nbits w.toNat (8 * off + 8 * len - 1) (8 * off)

/-- A number of `n` bits read as two's complement. -/
def signedOf (n v : Nat) : Int := if v % 2 ^ n < 2 ^ (n - 1) then (v % 2 ^ n : Nat) else ((v % 2 ^ n : Nat) : Int) - (2 ^ n : Nat)

/-- The two's complement code of an integer in `n` bits. -/
def codeOf (n : Nat) (x : Int) : Nat := (x % ((2 ^ n : Nat) : Int)).toNat

/-- A field to be placed in a block: high bit, low bit, value. -/
structure Fld where
  hi : Nat
  lo : Nat
  val : Nat
deriving DecidableEq, Repr

/-- A word built from disjoint fields; bits that no field names are 0 (R13). -/
def packNat : List Fld → Nat
  | [] => 0
  | f :: r => (f.val % 2 ^ (f.hi + 1 - f.lo)) <<< f.lo ||| packNat r

/-- The same, as a word of `n` bits. -/
def pack (n : Nat) (fs : List Fld) : BitVec n := BitVec.ofNat n (packNat fs)

/-- The field of `len` bytes at byte `off`. -/
def bfld (off len val : Nat) : Fld := ⟨8 * off + 8 * len - 1, 8 * off, val⟩

/-- `n` bytes of a number, lowest first (R12). -/
def leBytes : Nat → Nat → Bytes
  | 0, _ => []
  | n + 1, v => BitVec.ofNat 8 v :: leBytes n (v / 256)

/-- The number a byte string spells, lowest byte first (R12). -/
def ofLe : Bytes → Nat
  | [] => 0
  | b :: r => b.toNat + 256 * ofLe r

/-- A Boolean as a bit. -/
def b2n (b : Bool) : Nat := if b then 1 else 0

/-- The word with bit `i` set. -/
def setBit {n : Nat} (w : BitVec n) (i : Nat) : BitVec n := w ||| BitVec.ofNat n (2 ^ i)

/-- The word with bit `i` cleared. -/
def clrBit {n : Nat} (w : BitVec n) (i : Nat) : BitVec n := w &&& ~~~(BitVec.ofNat n (2 ^ i))

/-- The numbers of the bits of `w` below `n` that are set, lowest first. -/
def setBits (w n : Nat) : List Nat := (List.range n).filter fun i => w.testBit i

/-- A Nat clamped to at most `m`. -/
def clampTo (m v : Nat) : Nat := if v ≤ m then v else m

/-- Round `a` up to a multiple of `m`. -/
def roundUp (a m : Nat) : Nat := (a + m - 1) / m * m

/-- Whether `a` is a multiple of `m`. -/
def aligned (a m : Nat) : Bool := a % m == 0

/-- Split a list into pieces of `n`; `fuel` bounds the number of pieces. -/
def chunks {α : Type} (n : Nat) : Nat → List α → List (List α)
  | 0, _ => []
  | _ + 1, [] => []
  | k + 1, l => l.take n :: chunks n k (l.drop n)

/-- Replace the first element that satisfies `p`. -/
def replaceFirst {α : Type} (p : α → Bool) (f : α → α) : List α → List α
  | [] => []
  | x :: r => if p x then f x :: r else x :: replaceFirst p f r

/-- Remove the first element that satisfies `p`. -/
def removeFirst {α : Type} (p : α → Bool) : List α → List α
  | [] => []
  | x :: r => if p x then r else x :: removeFirst p r

end Sys2Proof.Machine
end

