-- ==== Sys2Proof/Machine/Float.lean ====
section
/-! DEFINITION. Machine/Float.lean: number formats: encodings, exact arithmetic rounded once, conversions, BSI packing
and the functions of Table 5.8 (R55 to R74, R105, R106). -/

namespace Sys2Proof.Machine

open Sys2Proof

/-- What an encoding of a binary format stands for: a NaN, an infinity, or (−1)^neg × m × 2^e. -/
inductive FVal where
  | nan
  | inf (neg : Bool)
  | fin (neg : Bool) (m : Nat) (e : Int)
deriving DecidableEq, Repr

/-- Counts of numeric events (Table 3.8); `oc` counts the output-conversion overflows among the OVERFLOWs (R69). -/
structure Ev where
  inv : Nat
  dz : Nat
  ovf : Nat
  fl : Nat
  oc : Nat
deriving DecidableEq, Repr

def Ev.zero : Ev := ⟨0, 0, 0, 0, 0⟩
def Ev.plus (a b : Ev) : Ev := ⟨a.inv + b.inv, a.dz + b.dz, a.ovf + b.ovf, a.fl + b.fl, a.oc + b.oc⟩
def evInv : Ev := ⟨1, 0, 0, 0, 0⟩
def evDz : Ev := ⟨0, 1, 0, 0, 0⟩
/-- A finite overflow of a vector operation. -/
def evOvf : Ev := ⟨0, 0, 1, 0, 0⟩
def evFl : Ev := ⟨0, 0, 0, 1, 0⟩
/-- A finite overflow that is an output-conversion overflow. -/
def evOc : Ev := ⟨0, 0, 1, 0, 1⟩

/-! ### Formats (Tables 3.1 to 3.3) -/

/-- A binary format: exponent bits, trailing significand bits, bias, whether it has infinities, and whether its
subnormals are read and written as zero (Table 3.9, row 2). -/
structure FmtP where
  eb : Nat
  mb : Nat
  bias : Nat
  hasInf : Bool
  flush : Bool
deriving DecidableEq, Repr

/-- The binary format of a code of Table 3.1; none for BSI and reserved codes. -/
def fmtOf (code : Nat) : Option FmtP :=
  match code with
  | 0 => some ⟨8, 23, 127, true, true⟩
  | 1 => some ⟨8, 7, 127, true, true⟩
  | 2 => some ⟨5, 10, 15, true, false⟩
  | 3 => some ⟨4, 3, 7, false, false⟩
  | 4 => some ⟨5, 2, 15, true, false⟩
  | _ => none

/-- FP32. -/
def fp32 : FmtP := ⟨8, 23, 127, true, true⟩
/-- BF16. -/
def bf16 : FmtP := ⟨8, 7, 127, true, true⟩

/-- Element bits of a BSI format; 0 for a code that is no BSI format (Table 3.1). -/
def bsiBits (code : Nat) : Nat :=
  match code with
  | 8 => 2
  | 9 => 3
  | 10 => 4
  | 11 => 6
  | 12 => 8
  | _ => 0

/-- Whether a code names a format (R55). -/
def fmtKnown (code : Nat) : Bool := decide (code ≤ 4) || decide (8 ≤ code ∧ code ≤ 12)

/-- Element bytes of a binary format (R59). -/
def elemBytes (code : Nat) : Nat := if code = 0 then 4 else if code = 1 ∨ code = 2 then 2 else 1

/-- Exponent of the smallest normal. -/
def FmtP.emin (f : FmtP) : Int := 1 - (f.bias : Int)

/-- Largest finite value, as significand and exponent: E4M3's top exponent holds normal values but for its NaN. -/
def FmtP.maxM (f : FmtP) : Nat := if f.hasInf then 2 ^ (f.mb + 1) - 1 else 2 ^ (f.mb + 1) - 2
def FmtP.maxE (f : FmtP) : Int :=
  (if f.hasInf then (2 ^ f.eb : Nat) - 2 else (2 ^ f.eb : Nat) - 1 : Int) - f.bias - f.mb

/-- The canonical NaN (Table 3.3). -/
def FmtP.nan (f : FmtP) : Nat :=
  if f.hasInf then (2 ^ f.eb - 1) <<< f.mb ||| 2 ^ (f.mb - 1) else (2 ^ f.eb - 1) <<< f.mb ||| (2 ^ f.mb - 1)

/-- The sign bit in place. -/
def FmtP.sgn (f : FmtP) (neg : Bool) : Nat := if neg then 2 ^ (f.eb + f.mb) else 0

/-- The infinity of a sign; the canonical NaN where the format has none. -/
def FmtP.infBits (f : FmtP) (neg : Bool) : Nat := if f.hasInf then f.sgn neg ||| (2 ^ f.eb - 1) <<< f.mb else f.nan

/-- The largest finite value of a sign. -/
def FmtP.maxBits (f : FmtP) (neg : Bool) : Nat :=
  f.sgn neg ||| (if f.hasInf then (2 ^ f.eb - 2) <<< f.mb ||| (2 ^ f.mb - 1) else (2 ^ f.eb - 1) <<< f.mb ||| (2 ^ f.mb - 2))

/-- What an encoding stands for (R56 to R58); FP32 and BF16 subnormals are read as zero of their sign (R67, R74). -/
def FmtP.decode (f : FmtP) (w : Nat) : FVal :=
  let neg := w.testBit (f.eb + f.mb)
  let e := (w >>> f.mb) % 2 ^ f.eb
  let m := w % 2 ^ f.mb
  if f.hasInf ∧ e = 2 ^ f.eb - 1 then (if m = 0 then .inf neg else .nan)
  else if f.hasInf = false ∧ e = 2 ^ f.eb - 1 ∧ m = 2 ^ f.mb - 1 then .nan
  else if e = 0 then (if f.flush then .fin neg 0 0 else .fin neg m (f.emin - f.mb))
  else .fin neg (2 ^ f.mb + m) ((e : Int) - f.bias - f.mb)

/-- The value of a code's element; a code that is no binary format reads as NaN. -/
def decodeFmt (code w : Nat) : FVal :=
  match fmtOf code with
  | some f => f.decode w
  | none => .nan

/-! ### Rounding -/

/-- `m × 2^(-k)` as an integer, toward zero or to nearest with ties to even; exact where `k ≤ 0`. -/
def shiftRound (tz : Bool) (m : Nat) (k : Int) : Nat :=
  if k ≤ 0 then m <<< k.natAbs
  else
    let n := k.natAbs
    let q := m >>> n
    let r := m % 2 ^ n
    let half := 2 ^ (n - 1)
    if tz then q else if half < r ∨ (r = half ∧ q % 2 = 1) then q + 1 else q

/-- Exponent of the leading bit of a non-zero `m × 2^e`. -/
def topExp (m : Nat) (e : Int) : Int := (Nat.log2 m : Int) + e

/-- `m × 2^e` rounded to `sig` bits, range unbounded (R68): a significand and exponent. -/
def roundSig (tz : Bool) (sig : Nat) (m : Nat) (e : Int) : Nat × Int :=
  let q := topExp m e - (sig - 1 : Nat)
  (shiftRound tz m (q - e), q)

/-- Whether `a × 2^ea < b × 2^eb`. -/
def dyLt (a : Nat) (ea : Int) (b : Nat) (eb : Int) : Bool :=
  let lo := min ea eb
  decide (a <<< (ea - lo).natAbs < b <<< (eb - lo).natAbs)

/-- A finite result in a format (R68 to R71): its encoding and events; `ov` is the event of a finite overflow, and an
overflow gives an infinity where `toInf` says so, else the largest finite value. Whether the result is below the smallest normal is
judged after it is rounded with the range unbounded (log entry 77). -/
def FmtP.encodeFin (f : FmtP) (tz toInf : Bool) (ov : Ev) (neg : Bool) (m : Nat) (e : Int) : Nat × Ev :=
  if m = 0 then (f.sgn neg, Ev.zero)
  else
    let r := roundSig tz (f.mb + 1) m e
    if dyLt f.maxM f.maxE r.1 r.2 then (if toInf then f.infBits neg else f.maxBits neg, ov)
    else if topExp r.1 r.2 < f.emin then
      if f.flush then (f.sgn neg, evFl)
      else (f.sgn neg ||| shiftRound tz m (f.emin - f.mb - e), Ev.zero)
    else
      let ex := topExp r.1 r.2
      let mm := shiftRound true r.1 (ex - f.mb - r.2)
      (f.sgn neg ||| ((ex + f.bias).toNat <<< f.mb) ||| (mm % 2 ^ f.mb), Ev.zero)

/-- A value rounded to FP32 by an operation of the vector unit: an overflow gives an infinity (R106, Table 3.9, row 7). -/
def round32 (neg : Bool) (m : Nat) (e : Int) : FVal × Ev :=
  let r := fp32.encodeFin false true evOvf neg m e
  (fp32.decode r.1, r.2)

/-- The FP32 encoding of a value that is FP32 already. -/
def enc32 (v : FVal) : Nat :=
  match v with
  | .nan => fp32.nan
  | .inf n => fp32.infBits n
  | .fin n m e => (fp32.encodeFin false false evOc n m e).1

/-! ### Arithmetic, rounded once -/

/-- The signed integer of a finite value at exponent `lo`. -/
def atExp (neg : Bool) (m : Nat) (e lo : Int) : Int :=
  let v : Int := (m <<< (e - lo).natAbs : Nat)
  if neg then -v else v

/-- An exact result: special, or a finite value still to be rounded. Event of a NaN that the operands did not hold. -/
def exactAdd (a b : FVal) : FVal × Ev :=
  match a, b with
  | .nan, _ => (.nan, Ev.zero)
  | _, .nan => (.nan, Ev.zero)
  | .inf x, .inf y => if x = y then (.inf x, Ev.zero) else (.nan, evInv)
  | .inf x, .fin _ _ _ => (.inf x, Ev.zero)
  | .fin _ _ _, .inf y => (.inf y, Ev.zero)
  | .fin n1 m1 e1, .fin n2 m2 e2 =>
    let lo := min e1 e2
    let v := atExp n1 m1 e1 lo + atExp n2 m2 e2 lo
    if v = 0 then (.fin (n1 && n2) 0 0, Ev.zero) else (.fin (decide (v < 0)) v.natAbs lo, Ev.zero)

def FVal.neg : FVal → FVal
  | .nan => .nan
  | .inf n => .inf (!n)
  | .fin n m e => .fin (!n) m e

def FVal.abs : FVal → FVal
  | .nan => .nan
  | .inf _ => .inf false
  | .fin _ m e => .fin false m e

def FVal.isNeg : FVal → Bool
  | .nan => false
  | .inf n => n
  | .fin n _ _ => n

def FVal.isZero : FVal → Bool
  | .fin _ m _ => m == 0
  | _ => false

def FVal.isNan : FVal → Bool
  | .nan => true
  | _ => false

def exactMul (a b : FVal) : FVal × Ev :=
  match a, b with
  | .nan, _ => (.nan, Ev.zero)
  | _, .nan => (.nan, Ev.zero)
  | .inf x, .inf y => (.inf (x ^^ y), Ev.zero)
  | .inf x, .fin n m _ => if m = 0 then (.nan, evInv) else (.inf (x ^^ n), Ev.zero)
  | .fin n m _, .inf y => if m = 0 then (.nan, evInv) else (.inf (n ^^ y), Ev.zero)
  | .fin n1 m1 e1, .fin n2 m2 e2 => (.fin (n1 ^^ n2) (m1 * m2) (e1 + e2), Ev.zero)

/-- A finite exact value rounded to a format of the vector unit; specials pass. -/
def roundVec (f : FmtP) (tz : Bool) (r : FVal × Ev) : FVal × Ev :=
  match r.1 with
  | .fin n m e => let q := f.encodeFin tz true evOvf n m e; (f.decode q.1, r.2.plus q.2)
  | v => (v, r.2)

def fadd (a b : FVal) : FVal × Ev := roundVec fp32 false (exactAdd a b)
def fmul (a b : FVal) : FVal × Ev := roundVec fp32 false (exactMul a b)

/-- a × b + c, exact before the one rounding. A NaN among the operands is the result, with no event (R58, Table 3.8). -/
def exactFma (a b c : FVal) : FVal × Ev :=
  if c.isNan then (.nan, Ev.zero)
  else
    let p := exactMul a b
    let r := exactAdd p.1 c
    (r.1, p.2.plus r.2)

/-- The order of two values that are no NaN: −0 below +0 (R74). -/
def fltTotal (a b : FVal) : Bool :=
  match a, b with
  | .nan, _ => false
  | _, .nan => false
  | .inf x, .inf y => x && !y
  | .inf x, .fin _ _ _ => x
  | .fin _ _ _, .inf y => !y
  | .fin n1 m1 e1, .fin n2 m2 e2 =>
    let lo := min e1 e2
    let v1 := atExp n1 m1 e1 lo
    let v2 := atExp n2 m2 e2 lo
    decide (v1 < v2) || (decide (v1 = v2) && n1 && !n2)

/-- IEEE less-than: the zeros are equal, a NaN compares false. -/
def flt (a b : FVal) : Bool := fltTotal a b && !(a.isZero && b.isZero)

/-- minimumNumber and maximumNumber (R74). -/
def fmin (a b : FVal) : FVal :=
  match a, b with
  | .nan, y => y
  | x, .nan => x
  | x, y => if fltTotal y x then y else x
def fmax (a b : FVal) : FVal :=
  match a, b with
  | .nan, y => y
  | x, .nan => x
  | x, y => if fltTotal x y then y else x

/-- a / b correctly rounded to FP32, for the quotient of R112. A quotient by zero is no DIV_ZERO event: Table 3.8 names only the
reciprocal, rsqrt and log. -/
def fdiv (a b : FVal) : FVal × Ev :=
  match a, b with
  | .nan, _ => (.nan, Ev.zero)
  | _, .nan => (.nan, Ev.zero)
  | .inf _, .inf _ => (.nan, evInv)
  | .inf x, .fin n _ _ => (.inf (x ^^ n), Ev.zero)
  | .fin n _ _, .inf y => (.fin (n ^^ y) 0 0, Ev.zero)
  | .fin n1 m1 e1, .fin n2 m2 e2 =>
    if m2 = 0 then (if m1 = 0 then (.nan, evInv) else (.inf (n1 ^^ n2), Ev.zero))
    else
      -- 80 quotient bits and a sticky bit below them decide the one rounding
      let num := m1 <<< 80
      let q := num / m2
      let st := if num % m2 = 0 then 0 else 1
      roundVec fp32 false (.fin (n1 ^^ n2) (2 * q + st) (e1 - e2 - 81), Ev.zero)

/-! ### The conversion field (Table 3.7) -/

/-- CONV's DST, SCALE_GIVEN, NOSAT and RND. -/
def convDst (c : Nat) : Nat := nbits c 7 4
def convScaleGiven (c : Nat) : Bool := c.testBit 3
def convNosat (c : Nat) : Bool := c.testBit 2
def convTz (c : Nat) : Bool := nbits c 1 0 == 1

/-- A conversion field that names a known format and rounding, SCALE_GIVEN only with BSI (Table 3.7). -/
def convOk (c : Nat) : Bool :=
  fmtKnown (convDst c) && decide (nbits c 1 0 ≤ 1) && (bsiBits (convDst c) != 0 || !convScaleGiven c)

/-- A value converted to a binary format (R66 to R71). -/
def convTo (c : Nat) (v : FVal) : Nat × Ev :=
  match fmtOf (convDst c) with
  | none => (0, Ev.zero)
  | some f =>
    match v with
    | .nan => (f.nan, Ev.zero)
    | .inf n => if f.hasInf then (f.infBits n, Ev.zero) else (f.nan, evInv)
    | .fin n m e => f.encodeFin (convTz c) (convNosat c) evOc n m e

/-! ### Block-scaled integers (R60, R61, R72) -/

/-- One element decoded: q × 2^(U − 127); a NaN group's elements are NaN. -/
def bsiDecode (q : Int) (u : Nat) : FVal :=
  if u = 0xFF then .nan else .fin (decide (q < 0)) q.natAbs ((u : Int) - 127)

/-- Element `i` of a group's bytes read as one little-endian field (R61). -/
def bsiElem (b : Nat) (grp : Nat) (i : Nat) : Int := signedOf b (grp >>> (b * i))

/-- A packed group: scale, elements, events. -/
structure BsiGroup where
  u : Nat
  q : List Int
  ev : Ev
deriving DecidableEq, Repr

/-- One element at scale exponent `u − 127`, saturated: the value, whether it saturated, whether a non-zero became 0. -/
def bsiQuant (b : Nat) (tz : Bool) (u : Nat) (v : FVal) : Int × Bool × Bool :=
  match v with
  | .fin n m e =>
    let r : Nat := shiftRound tz m (((u : Int) - 127) - e)
    let x : Int := if n then -(r : Int) else r
    let lo : Int := -(2 ^ (b - 1) : Nat)
    let hi : Int := (2 ^ (b - 1) : Nat) - 1
    if x < lo then (lo, true, false) else if hi < x then (hi, true, false) else (x, false, m != 0 && x == 0)
  | _ => (0, false, false)

/-- The larger of two magnitudes, as significand and exponent. -/
def maxMag (a b : Nat × Int) : Nat × Int := if dyLt a.1 a.2 b.1 b.2 then b else a

/-- Packing 32 values to one group; `given` is the scale operand where SCALE_GIVEN is 1 (R72). -/
def bsiPack (b : Nat) (tz : Bool) (given : Option Nat) (xs : List FVal) : BsiGroup :=
  let infs := (xs.filter fun v => match v with | .inf _ => true | _ => false).length
  let special := xs.any fun v => match v with | .fin _ _ _ => false | _ => true
  if special then ⟨0xFF, xs.map fun _ => 0, ⟨0, 0, infs, 0, 0⟩⟩
  else
    let mx := xs.foldl (fun a v => match v with | .fin _ m e => maxMag a (m, e) | _ => a) (0, 0)
    let u : Nat :=
      match given with
      | some u => u
      | none =>
        if mx.1 = 0 then 127
        else
          let e0 : Int := topExp mx.1 mx.2 - ((b : Int) - 2)
          let e1 : Int := if 2 ^ (b - 1) - 1 < shiftRound tz mx.1 (e0 - mx.2) then e0 + 1 else e0
          if e1 + 127 < 0 then 0 else if 254 < e1 + 127 then 254 else (e1 + 127).toNat
    if u = 0xFF then ⟨0xFF, xs.map fun _ => 0, Ev.zero⟩
    else
      let qs := xs.map (bsiQuant b tz u)
      ⟨u, qs.map (·.1), ⟨0, 0, b2n (qs.any (·.2.1)), b2n (u == 0 && qs.any (·.2.2)), 0⟩⟩

/-- The bytes of a group's elements (R61). -/
def bsiBytes (b : Nat) (q : List Int) : Bytes :=
  leBytes (4 * b) (packNat ((q.zipIdx).map fun x => ⟨b * x.2 + b - 1, b * x.2, codeOf b x.1⟩))

/-! ### The functions of Table 5.8 -/

/-- Fraction bits of the fixed-point evaluation: more than any FP32 operand needs to place the result between two
neighbouring FP32 values. -/
def fxBits : Nat := 320

/-- Σ x^k / k! in fixed point for 0 ≤ x < 1; `n` terms remain, `k` the next. -/
def expSeries (x : Nat) : Nat → Nat → Nat → Nat
  | 0, _, _ => 0
  | n + 1, k, t => t + expSeries x n (k + 1) (t * x / 2 ^ fxBits / (k + 1))

/-- e^x in fixed point, 0 ≤ x < 1. -/
def expFx (x : Nat) : Nat := expSeries x 80 0 (2 ^ fxBits)

/-- Σ t^(2k+1) / (2k+1) in fixed point: atanh of t. -/
def atanhSeries (t2 : Nat) : Nat → Nat → Nat → Nat
  | 0, _, _ => 0
  | n + 1, k, p => p / (2 * k + 1) + atanhSeries t2 n (k + 1) (p * t2 / 2 ^ fxBits)

/-- atanh of `t`, 0 ≤ t ≤ 1/3, in fixed point. -/
def atanhFx (t : Nat) : Nat := atanhSeries (t * t / 2 ^ fxBits) 110 0 t

/-- ln 2 in fixed point: 2 atanh(1/3). -/
def ln2Fx : Nat := 2 * atanhFx (2 ^ fxBits / 3)

/-- A finite magnitude in fixed point, toward zero. -/
def toFx (m : Nat) (e : Int) : Nat := shiftRound true m (-(e + fxBits))

/-- e^|x| or e^−|x| as (significand, exponent): |x| = k ln 2 + r. -/
def expOf (neg : Bool) (m : Nat) (e : Int) : Nat × Int :=
  let x := toFx m e
  let k := x / ln2Fx
  let y := expFx (x % ln2Fx)
  if neg then (2 ^ (2 * fxBits) / y, -(k : Int) - fxBits) else (y, (k : Int) - fxBits)

/-- One of the FP32 values within the accuracy of a function: `t` is the magnitude rounded toward zero and `exact`
whether it is the result itself; the results allowed are those within `ulps` of the result, in the normal range
(log entry 8). -/
def fnPick (fn x : Nat) (ulps : Nat) (exact : Bool) (t : Nat) : Nat :=
  let lo := if exact then ulps else ulps - 1
  let c := Config.fnChoice fn x % (lo + ulps + 1)
  max 0x00800000 (min (t + c - lo) 0x7F7FFFFF)

/-- A function's finite result in the FP32 range, from its exact magnitude to `fxBits` bits. -/
def fnResult (fn x ulps : Nat) (neg exact : Bool) (m : Nat) (e : Int) : FVal × Ev :=
  if dyLt fp32.maxM fp32.maxE m e then (.inf neg, evOvf)
  else if topExp m e < fp32.emin then (.fin neg 0 0, evFl)
  else
    let t := (fp32.encodeFin true false evOvf false m e).1
    let r := fnPick fn x ulps exact t
    (fp32.decode (fp32.sgn neg ||| r), Ev.zero)

/-- VEC_FN (R106, Table 5.8) on an FP32 value: 0 exp, 1 log, 2 reciprocal, 3 rsqrt, 4 tanh. -/
def vecFn (sub : Nat) (v : FVal) : FVal × Ev :=
  let key := enc32 v
  match v with
  | .nan => (.nan, Ev.zero)
  | .inf n =>
    match sub with
    | 0 => (if n then .fin false 0 0 else .inf false, Ev.zero)
    | 1 => if n then (.nan, evInv) else (.inf false, Ev.zero)
    | 2 => (.fin n 0 0, Ev.zero)
    | 3 => if n then (.nan, evInv) else (.fin false 0 0, Ev.zero)
    | _ => (.fin n 1 0, Ev.zero)
  | .fin n m e =>
    match sub with
    | 0 =>
      if m = 0 then (.fin false 1 0, Ev.zero)
      else if 8 ≤ topExp m e then (if n then (.fin false 0 0, evFl) else (.inf false, evOvf))
      else let r := expOf n m e; fnResult 0 key 2 false false r.1 r.2
    | 1 =>
      if m = 0 then (.inf true, evDz)
      else if n then (.nan, evInv)
      else
        let k := topExp m e
        -- the significand in [1, 2), and ln of it by atanh((f − 1) / (f + 1))
        let f := shiftRound true m (-(e - k + fxBits))
        let lnf := 2 * atanhFx ((f - 2 ^ fxBits) * 2 ^ fxBits / (f + 2 ^ fxBits))
        let r : Int := k * (ln2Fx : Int) + lnf
        if m <<< 0 = 2 ^ (Nat.log2 m) ∧ k = 0 then (.fin false 0 0, Ev.zero)
        else fnResult 1 key 2 (decide (r < 0)) false r.natAbs (-(fxBits : Int))
    | 2 =>
      if m = 0 then (.inf n, evDz)
      else if dyLt 1 126 m e then (.fin n 0 0, evFl)
      else
        let num := 2 ^ (2 * fxBits)
        fnResult 2 key 1 n (num % m == 0) (num / m) (-(2 * fxBits : Nat) - e)
    | 3 =>
      if m = 0 then (.inf n, evDz)
      else if n then (.nan, evInv)
      else
        -- 1 / sqrt(m 2^e): with an even exponent, the integer root of 2^(4 fxBits) / m
        let m' := if e % 2 = 0 then m else 2 * m
        let e' := if e % 2 = 0 then e else e - 1
        let num := 2 ^ (4 * fxBits)
        let r := Nat.sqrt (num / m')
        fnResult 3 key 1 false (num % m' == 0 && r * r == num / m') r (-(2 * fxBits : Nat) - e' / 2)
    | _ =>
      if m = 0 then (.fin n 0 0, Ev.zero)
      else if 6 ≤ topExp m e then fnResult 4 key 2 n false (2 ^ fxBits - 1) (-(fxBits : Int))
      else
        -- tanh |x| = (e^2x − 1) / (e^2x + 1)
        let y := expOf false m (e + 1)
        let z := shiftRound true y.1 (-(y.2 + fxBits))
        fnResult 4 key 2 n false ((z - 2 ^ fxBits) * 2 ^ fxBits / (z + 2 ^ fxBits)) (-(fxBits : Int))

end Sys2Proof.Machine
end

