-- ==== Sys2Proof/Machine/Codes.lean ====
section
/-! DEFINITION. Machine/Codes.lean: the Reed-Solomon code of the tiers, RS(36, 32) over GF(2^16) (R158). -/

namespace Sys2Proof.Machine

open Sys2Proof

/-- A field element times α, under x^16 + x^12 + x^3 + x + 1. -/
def gfX (a : Nat) : Nat := if a < 2 ^ 15 then 2 * a else (2 * a) ^^^ 0x1100B

/-- The product of two field elements. -/
def gfMul (a b : Nat) : Nat :=
  ((List.range 16).foldl (fun (acc : Nat × Nat) i => (if b.testBit i then acc.1 ^^^ acc.2 else acc.1, gfX acc.2)) (0, a)).1

/-- A polynomial, lowest coefficient first, times (x + r). -/
def gfTimesRoot (p : List Nat) (r : Nat) : List Nat :=
  List.zipWith (· ^^^ ·) (0 :: p) (p.map (gfMul r) ++ [0])

/-- The generator: its roots are α^0 to α^3; coefficients of x^0 to x^4. -/
def rsGen : List Nat := [1, 2, 4, 8].foldl gfTimesRoot [1]

/-- One symbol shifted into the remainder, whose coefficients of x^0 to x^3 it gives. -/
def rsShift (rem : List Nat) (d : Nat) : List Nat :=
  let top := rem.getLastD 0 ^^^ d
  List.zipWith (fun r g => r ^^^ gfMul top g) (0 :: rem.dropLast) rsGen

/-- The 4 check symbols of 32 data symbols: the remainder of the data, the first symbol of highest degree, times x^4; the symbol of
x^3 first (log entry 73). -/
def rsCheck (data : List Nat) : List Nat := (data.foldl rsShift [0, 0, 0, 0]).reverse

/-- The 36 symbols of a block of 64 B: its little-endian halfwords in order, then the check symbols. -/
def rsWord (b : Bytes) : List Nat :=
  let data := (List.range 32).map fun i => ofLe ((b.drop (2 * i)).take 2)
  data ++ rsCheck data

/-- The value of a codeword's polynomial at `x`: zero at every root of the generator. -/
def rsEval (w : List Nat) (x : Nat) : Nat := w.foldl (fun acc d => gfMul acc x ^^^ d) 0

end Sys2Proof.Machine
end

