-- ==== Sys2Proof/Machine/Mem.lean ====
section
/-! DEFINITION. Machine/Mem.lean: byte memory in one canonical form, and tables by number.
An unlisted byte reads as 0: the spec states no contents of memory at power-on (DESIGN CHOICE, log entry 4). -/

namespace Sys2Proof.Machine

open Sys2Proof

/-- A byte memory: addresses strictly rising, no entry equal to what an unlisted address reads as. -/
abbrev Memory := List Host.Cell

/-- What a byte that nothing has written reads as (log entry 4). -/
def Memory.unlisted : Byte := 0

/-- The canonical form from address `lo` on. -/
def Memory.wfFrom : Nat → Memory → Bool
  | _, [] => true
  | lo, (k, v) :: r => decide (lo ≤ k) && (v != Memory.unlisted) && Memory.wfFrom (k + 1) r

/-- The canonical form. -/
def Memory.wf (m : Memory) : Bool := Memory.wfFrom 0 m

/-- One byte. -/
def Memory.read1 : Memory → Nat → Byte
  | [], _ => Memory.unlisted
  | (k, v) :: r, a => if k = a then v else Memory.read1 r a

/-- One byte written, the form kept. -/
def Memory.write1 : Memory → Nat → Byte → Memory
  | [], a, b => if b = Memory.unlisted then [] else [(a, b)]
  | (k, v) :: r, a, b =>
    if a < k then (if b = Memory.unlisted then (k, v) :: r else (a, b) :: (k, v) :: r)
    else if a = k then (if b = Memory.unlisted then r else (k, b) :: r)
    else (k, v) :: Memory.write1 r a b

/-- `n` bytes from `a`. -/
def Memory.read (m : Memory) : Nat → Nat → Bytes
  | _, 0 => []
  | a, n + 1 => m.read1 a :: Memory.read m (a + 1) n

/-- Bytes written from `a` up. -/
def Memory.write (m : Memory) (a : Nat) : Bytes → Memory
  | [] => m
  | b :: r => Memory.write (m.write1 a b) (a + 1) r

/-- `n` bytes from `a` as a little-endian number. -/
def Memory.num (m : Memory) (a n : Nat) : Nat := ofLe (m.read a n)

/-- What key `k` of a table holds, `d` where the table does not list it. -/
def Tbl.get {α : Type} (d : α) : List (Nat × α) → Nat → α
  | [], _ => d
  | (k', v) :: r, k => if k' = k then v else Tbl.get d r k

/-- The table with key `k` holding `v`; keys stay strictly rising. -/
def Tbl.set {α : Type} : List (Nat × α) → Nat → α → List (Nat × α)
  | [], k, v => [(k, v)]
  | (k', v') :: r, k, v =>
    if k < k' then (k, v) :: (k', v') :: r
    else if k = k' then (k, v) :: r
    else (k', v') :: Tbl.set r k v

/-- The table with no entry for the keys that `p` names. -/
def Tbl.drop {α : Type} (t : List (Nat × α)) (p : Nat → Bool) : List (Nat × α) := t.filter fun e => !p e.1

/-- The keys a table lists. -/
def Tbl.keys {α : Type} (t : List (Nat × α)) : List Nat := t.map (·.1)

/-- Keys strictly rising from `lo` on. -/
def Tbl.wfFrom {α : Type} : Nat → List (Nat × α) → Bool
  | _, [] => true
  | lo, (k, _) :: r => decide (lo ≤ k) && Tbl.wfFrom (k + 1) r

end Sys2Proof.Machine
end

