-- ==== Sys2Proof/Machine/State.lean ====
section
/-! DEFINITION. Machine/State.lean: the state of the module, as plain data, and its value after reset.
A table of like things is a list of key and value pairs with rising keys (`Tbl`); what an unlisted key reads as is the
default that its accessor in Machine/Pages.lean or Machine/Ops.lean names. -/

namespace Sys2Proof.Machine

open Sys2Proof

/-- A table by natural-number key, keys strictly rising. -/
abbrev Tbl (α : Type) := List (Nat × α)

/-- A status and sub-status (Table 10.5). -/
structure Err where
  st : W16
  sub : W16
deriving DecidableEq, Repr

/-! ### Register pages (R438 to R441) -/

/-- What the common header of a page holds (Table 20.1). -/
structure PageHdr where
  intStat : W32
  intEn : W32
  errFirst : W32
  errCount : W32
  frozen : Bool
  creset : Bool
  resetting : Bool
  hung : Bool
  progress : W64
deriving DecidableEq, Repr

/-- A header at reset: Table 20.1. -/
def PageHdr.zero : PageHdr := ⟨0, 0, 0, 0, false, false, false, false, 0⟩

/-- A held low word of a 64-bit register (R441): function, page key, offset, value. -/
structure HoldW where
  fn : Fn
  pkey : Nat
  off : Nat
  lo : W32
deriving DecidableEq, Repr

/-- The read latch of a page for a function (R441): the register last read at its low word, and its high word then. -/
structure ReadLatch where
  fn : Fn
  pkey : Nat
  off : Nat
  hi : W32
deriving DecidableEq, Repr

/-! ### House time and step contexts (02, 20) -/

/-- Lock states (Table 2.3). -/
inductive Lock where
  | unlocked
  | acquiring
  | locked
  | holdover
  | unsynced
deriving DecidableEq, Repr

/-- TIME (R22 to R29, Table 20.9). -/
structure TimeSt where
  now : W64
  /-- ticks of the local reference since power-on: the model's own measure of elapsed time -/
  mono : Nat
  lock : Lock
  depth : Nat
  srcHoldover : Bool
  lastOffset : Int
  lastDelay : Int
  /-- consecutive valid CADENCE frames (R26) -/
  validRun : Nat
  /-- consecutive exchanges with |offset| within 25 ns (Table 2.3) -/
  goodRun : Nat
  /-- tick of the last valid frame or beacon -/
  lastValid : Nat
  /-- tick at which HOLDOVER was entered -/
  holdSince : Nat
  /-- the counter was set once in this ACQUIRING (R29) -/
  acqSet : Bool
  /-- offset still to be slewed out, ns (R28) -/
  slew : Int
  /-- TIME_DEPTH was raised in this period without a valid source (R24) -/
  depthRaised : Bool
  /-- stamps of the follower's last exchange: t1, t2, t3 (R27) -/
  x1 : W64
  x2 : W64
  x3 : W64
  xValid : Bool
  /-- t4 to return on each port: the arrival stamp of the last reply there -/
  t4 : Tbl W64
  /-- what CADENCE_OUT carries since the last frame boundary: false house time, true debug trigger -/
  outTrig : Bool
  /-- tick of the last trigger pulse plus one; 0 for none (R466) -/
  lastPulse : Nat
deriving DecidableEq, Repr

/-- The kinds of a decision (R38). -/
inductive DecKind where
  | opn
  | commit
  | rpt
  | abandon
deriving DecidableEq, Repr

/-- A decision (R38): for an `opn`, `edge` is the announced slot's start. -/
structure Decision where
  kind : DecKind
  step : Nat
  attempt : Nat
  reason : Nat
  edge : W64
  nextSlot : Nat
  allowUs : Nat
deriving DecidableEq, Repr

/-- The rewind a participant is in (R281): the order's number, layer, axis and position. -/
structure Rewind where
  seq : Nat
  layer : Nat
  axis : Nat
  pos : Nat
  /-- DRAINED was sent -/
  drained : Bool
  /-- the launch's bucket does not hold the layer (R477): nothing was stopped -/
  absent : Bool
deriving DecidableEq, Repr

/-- A granule of a staged region that an undecided step has written (R474): the step, the granule's address and its
shadow's, both partition virtual. -/
structure StagedG where
  step : Nat
  va : Nat
  shadow : Nat
deriving DecidableEq, Repr

/-- A layer's mark (R280): the layer; for each core, its 64 dependency counters; for each cluster, the stream offset its sequencer
had reached; and what the attempt had staged by then, as granules, bytes and poisoned offsets. Every write of the attempt after
the mark is of this layer or a later one, since all earlier records have retired by then. -/
structure Mark where
  step : Nat
  layer : Nat
  dcs : List (Nat × Tbl Nat)
  offs : List (Nat × Nat)
  staged : List (StagedG × Bytes × List Nat)
deriving DecidableEq, Repr

/-- Results that a unit holds until the edge and that the attempt's own records read (R269, R332): of a fold engine or a TXU, by
fold tensor or TXU stage. -/
structure HeldOut where
  fold : Bool
  key : Nat
  step : Nat
  va : Nat
  data : Bytes
deriving DecidableEq, Repr

/-- A participant's step context (R30 to R50, Table 20.10). -/
structure CtxSt where
  bound : Bool
  unbinding : Bool
  coordLost : Bool
  lastEdge : W64
  /-- step number the next placed launch takes (R33, R214) -/
  nextStep : Nat
  /-- oldest undecided step -/
  cur : Nat
  attempt : Nat
  lastCommit : Option Nat
  /-- an attempt has begun and is undecided -/
  running : Bool
  /-- start of the attempt's announced slot and its allowance in µs, once an OPEN or repeat announced it -/
  slotStart : Option W64
  /-- start of the slot that the step's OPEN announced (Table 10.4 START) -/
  firstStart : Option W64
  /-- the slot number, its low 32 bits, and the A0 that the step's OPEN announced (R32, R38) -/
  openSlot : Option (Nat × Nat)
  /-- the slot number that a repeat named (R38) -/
  slotNum : Option Nat
  allowUs : Nat
  /-- the decision received and not yet applied -/
  pend : Option Decision
  /-- decisions acted on: step, attempt and kind (R38) -/
  acted : List (Nat × Nat × DecKind)
  /-- after a compute reset, the house time from which slots may start the rejoining attempt (R411) -/
  rejoinAt : W64
  /-- undecided steps whose attempt failed here, each with its first error (R218) -/
  fails : List (Nat × Err)
  /-- beacons are stopped by a compute reset or teardown (R409, R358) -/
  frozen : Bool
  /-- the participant's launch is not consistent with the OPEN (R32) -/
  slotClash : Bool
  /-- a WIDEN_REQ is outstanding here, or an order is (R281) -/
  widening : Bool
  rewind : Option Rewind
  marks : List Mark
  /-- positions reached in this attempt, by layer × 4 + axis (R285) -/
  variants : Tbl Nat
  /-- the axis of each layer's last order in this attempt -/
  lastAxis : Tbl Nat
  /-- layers and axes asked for with WIDEN_REQ since the last order or RESUME (R281) -/
  asked : List (Nat × Nat)
  /-- triggers of steps that run ahead, to be asked for once their step is the oldest: step, layer and axis (log entry 38) -/
  askLater : List (Nat × Nat × Nat)
  staged : List StagedG
  heldOut : List HeldOut
  /-- step of the last committed update of each tensor (R344) -/
  updates : Tbl Nat
  /-- the last order that a RESUME has ended in this attempt (R281) -/
  seqDone : Nat
  /-- triggers already logged: step, kind, layer and position (R293) -/
  logged : List (Nat × Nat × Nat × Nat)
  widened : Bool
  /-- steps in which a trigger stood at its widest (R279) -/
  widestOvf : List Nat
  /-- entries written to the numeric event ring, by step, in its present attempt (R293) -/
  numEvents : Tbl Nat
  /-- beacons of the attempt have reported cause EXPERT (R267) -/
  saidExpert : Bool
  /-- launches of the active tenant context placed in its time slice (R229) -/
  slicePlaced : Nat
deriving DecidableEq, Repr

/-- A context at reset: Table 20.10. -/
def CtxSt.zero : CtxSt :=
  { bound := false, unbinding := false, coordLost := false, lastEdge := 0, nextStep := 0, cur := 0, attempt := 0,
    lastCommit := none, running := false, slotStart := none, firstStart := none, openSlot := none, slotNum := none, allowUs := 0, pend := none, acted := [], rejoinAt := 0, fails := [],
    frozen := false, slotClash := false, widening := false, rewind := none, marks := [],
    variants := [], lastAxis := [], asked := [], askLater := [], staged := [], heldOut := [], updates := [], seqDone := 0, logged := [], widened := false, widestOvf := [], numEvents := [],
    saidExpert := false, slicePlaced := 0 }

/-- A participant's latest status beacon as the coordinator holds it (R35). -/
structure Beacon where
  module : W16
  part : Nat
  gen : Byte
  /-- the generation of the participant's first beacon of the attempt -/
  firstGen : Byte
  ready : Bool
  cause : Nat
  sent : W64
deriving DecidableEq, Repr

/-- The coordinator's side of a context (R33 to R38, R283, R284). -/
structure CoordSt where
  step : Nat
  attempt : Nat
  /-- a slot is open for the attempt -/
  open_ : Bool
  slotStart : W64
  slotUs : Nat
  allowUs : Nat
  baseUs : Nat
  beacons : List Beacon
  /-- the latest decision sent, repeated in every time beacon -/
  last : Option Decision
  /-- the edge of the step before, or the binding (R33) -/
  prevEdge : W64
  /-- the outstanding order: seq, layer, axis, position -/
  order : Option (Nat × Nat × Nat × Nat)
  seq : Nat
  drained : List (W16 × Nat)
  lastResume : Option W64
  /-- positions ordered in this attempt, by layer × 4 + axis -/
  positions : Tbl Nat
  /-- the RESUME repeated in every time beacon -/
  resume : Option Msg32
  /-- at the last decision, late: a WORKING participant reported cause EXPERT (Table 2.5) -/
  lateExpert : Bool
  /-- module whose WIDEN_REQ the outstanding or last order answers -/
  reqFrom : W16
deriving DecidableEq, Repr

/-- A coordinator before any step. -/
def CoordSt.zero : CoordSt :=
  { step := 0, attempt := 0, open_ := false, slotStart := 0, slotUs := 0, allowUs := 0, baseUs := 0, beacons := [],
    last := none, prevEdge := 0, order := none, seq := 0, drained := [], lastResume := none, positions := [], resume := none,
    lateExpert := false, reqFrom := 0 }

/-! ### Queues, launches, plans (09, 10, 20) -/

/-- SQ states (Table 20.13). -/
inductive SqState where
  | disabled
  | normal
  | failed
  | broken
deriving DecidableEq, Repr

/-- A submission queue (R208, Table 20.13): `tail` last written, `head` the next index the GFE fetches. -/
structure SqSt where
  state : SqState
  draining : Bool
  tail : Nat
  head : Nat
  wraps : Nat
deriving DecidableEq, Repr

def SqSt.zero : SqSt := ⟨.disabled, false, 0, 0, 0⟩

/-- A completion queue and its token ring (R208, R228, Table 20.14). -/
structure CqSt where
  enabled : Bool
  broken : Bool
  cqFault : Bool
  trFault : Bool
  overflow : Bool
  head : Nat
  tail : Nat
  phase : Bool
  trHead : Nat
  trTail : Nat
  /-- slots written and not yet freed, so that a full ring and an empty one differ (R452) -/
  used : Nat
  trUsed : Nat
  /-- LAUNCH_ID of the last entry written (Table 18.11) -/
  lastId : W32
deriving DecidableEq, Repr

def CqSt.zero : CqSt := ⟨false, false, false, false, false, 0, 0, true, 0, 0, 0, 0, 0xFFFFFFFF⟩

/-- Where an entry stands (Table 18.12, and decided entries that wait to be completed). -/
inductive EntSt where
  | fetched
  | placed
  | running
  | done
deriving DecidableEq, Repr

/-- An entry fetched and not completed (R209 to R226). -/
structure Entry where
  uid : Nat
  fn : Fn
  sq : Nat
  cq : Nat
  part : Nat
  ctx : Nat
  raw : Desc
  idx : Nat
  launchId : W32
  st : EntSt
  step : Option Nat
  bucket : Nat
  planH : Nat
  start : W64
  endT : W64
  status : Err
  fault : Err
  tokens : Nat
  numEv : Nat
  repeats : Nat
  outcome : Nat
  abSub : W16
  /-- its signals are not made (R221: DEADLOCK) -/
  noSig : Bool
  /-- its copy has been issued (R213) -/
  busy : Bool
  /-- a host write of its copy faulted when it was issued (R210) -/
  wrFault : Bool
  /-- its launch constants, as placement copied them (R216) -/
  consts : Bytes
deriving DecidableEq, Repr

/-- A notice for the PF notice CQ (R414, R448), as the 64 B entry less its phase. -/
abbrev Notice := Desc

/-- A record as a plan's streams frame it (log entry 22): the core it is placed on, its plan operation index, its 128 B, and whether
it accumulates a tensor whose declared K exceeds 65,536 (R76). -/
structure PlanRec where
  core : Nat
  opidx : W32
  bits : Rec
  deep : Bool
deriving DecidableEq, Repr

/-- A widened-variant chain (Table 9.2). -/
structure Variant where
  layer : Nat
  axis : Nat
  count : Nat
  base : Nat
  v1 : Nat
  v2 : Nat
  /-- the replacement records of each wider variant, by bucket (R277) -/
  blocks : List (List (List PlanRec))
deriving DecidableEq, Repr

/-- A layer table entry (Table 13.1). -/
structure LayerEnt where
  layer : Nat
  firstOp : Nat
  tensorFirst : Nat
  stageFirst : Nat
  shadowLog2 : Nat
  relTol : W32
  absTol : W32
deriving DecidableEq, Repr

/-- A fold entry (Table 15.4), as its 64 B. -/
abbrev FoldEnt := Desc

/-- A shape bucket (Table 9.5) with the layer table and the fold directory's entries its streams open with. -/
structure Bucket where
  maxStreams : Nat
  maxPos : Nat
  maxContext : Nat
  recOff : Nat
  recLen : Nat
  layers : List LayerEnt
  folds : List (List FoldEnt)
  recs : List PlanRec
deriving DecidableEq, Repr

/-- A patch point (Table 9.4). -/
structure PatchPt where
  id : Nat
  kind : Nat
  bucket : Nat
  recOff : Nat
deriving DecidableEq, Repr

/-- A staged region (Table 9.9). -/
structure StageReg where
  base : Nat
  len : Nat
  shadow : Nat
deriving DecidableEq, Repr

/-- A resident plan (R196, Table 9.1). -/
structure Plan where
  handle : Nat
  part : Nat
  ctx : Nat
  image : Nat
  level : Nat
  slotUs : Nat
  allowUs : Nat
  runAhead : Nat
  maxDraft : Nat
  flags : Byte
  emitMax : Nat
  seed : W64
  clusters : Nat
  storeUnits : Nat
  variants : List Variant
  /-- fold scales: tensor, SCALE24, SCALE40 (Table 9.3) -/
  scales : List (Nat × Nat × Nat)
  patches : List PatchPt
  buckets : List Bucket
  stages : List StageReg
  digest : Bytes
  unloading : Bool
  /-- accepted PATCH entries that wait for the next step edge (R201): patch ID and value -/
  pendPatch : List (Nat × W64)
  /-- none for the plan as it stands; else the begun steps that keep this version of it, from before a patch took effect (R201) -/
  steps : List Nat
deriving DecidableEq, Repr

/-- The GFE (R209 to R230, Table 20.8). -/
structure GfeSt where
  level : Nat
  planLoaded : Bool
  placedAny : Bool
  /-- notices held, oldest first (R448) -/
  notices : List Notice
  nextUid : Nat
  /-- active tenant context, by partition (R229) -/
  activeCtx : Tbl Nat
  /-- the last SQ placed from, by partition, for the round robin of R214 -/
  lastSq : Tbl Nat
deriving DecidableEq, Repr

/-- A tenant context that is switched out (R229): the fields of its step context. -/
structure SavedCtx where
  part : Nat
  ctx : Nat
  st : CtxSt
  coord : CoordSt
  job : W64
  epoch : W64
  margin : W64
deriving DecidableEq, Repr

/-- A token record held or released by the emit gate (R113, Table 17.1). -/
structure HeldTok where
  part : Nat
  uid : Nat
  step : Nat
  opidx : Nat
  bits : Msg32
deriving DecidableEq, Repr

/-- What crosses the emit gate tap (R376, R377). -/
inductive TapMsg where
  | token (rec : Msg32)
  | edge (notice : Msg32)
deriving DecidableEq, Repr

/-- The emit gate (R113, R114, Table 20.11): `held` staged records, `rel` released and not yet written. -/
structure EmitSt where
  held : List HeldTok
  rel : List HeldTok
  tap : List TapMsg
  hold : Bool
deriving DecidableEq, Repr

/-- A numeric event ring (R292 to R294, Table 20.17). -/
structure NerSt where
  enabled : Bool
  broken : Bool
  next : Nat
  /-- entries written and not yet passed by the host's head -/
  used : Nat
  lost : Nat
  lostPend : Nat
  phase : Bool
deriving DecidableEq, Repr

def NerSt.zero : NerSt := ⟨false, false, 0, 0, 0, 0, true⟩

/-! ### Cores (04, 05) -/

/-- A record in an engine queue (R95), with the launch's step, attempt and layer. -/
structure QRec where
  bits : Rec
  opidx : W32
  step : Nat
  attempt : Nat
  layer : Nat
  uid : Nat
deriving DecidableEq, Repr

/-- A record that has started: `done` once its writes are complete, with the error it ended with. -/
structure ExRec where
  q : QRec
  done : Bool
  err : Option Err
  /-- port records: the operation posted (unit and number) -/
  port : Option (Nat × Nat)
  /-- its attempt was discarded: it runs to completion and signals nothing (R118) -/
  stale : Bool
deriving DecidableEq, Repr

/-- What a scalar pipe waits for. -/
inductive PipeWait where
  | none
  | remote
deriving DecidableEq, Repr

/-- A scalar pipe (R115): registers g1 to g31 in `g`, the program counter, and the debug state (R471). -/
structure ScPipe where
  running : Bool
  pc : Nat
  g : Tbl W64
  /-- remote writes and atomics not yet acknowledged (R179, R187) -/
  remote : Nat
  wait : PipeWait
  /-- destination of an outstanding remote read or atomic -/
  dest : Nat
  halted : Bool
  /-- breakpoint slots 0 to 3 -/
  bps : Tbl (Option Nat)
  /-- the next instruction runs though a breakpoint names it: set by RESUME and STEP -/
  pass : Bool
  /-- programs started: an answer to a request of an earlier one concerns it no more -/
  prog : Nat
deriving DecidableEq, Repr

def ScPipe.zero : ScPipe := ⟨false, 0, [], 0, .none, 0, false, [], false, 0⟩

/-- A stationary tile as decoded by the loader (R77, R78): element codes by column, and scale codes by column. -/
structure Tile where
  fmt : Nat
  rows : Nat
  cols : Nat
  elems : List (List Nat)
  scales : List (List Nat)
  /-- the record whose load fetched it -/
  src : Rec
deriving DecidableEq, Repr

/-- Where the stationary tile of a started array operation is (R89, R90): its load is queued, it has landed, it is decoded into the
shadow plane, or it is in the active plane, where a KEEP operation finds it at once. -/
inductive LoadSt where
  | queued
  | landed (t : Tile)
  | shadow
  | active
deriving DecidableEq, Repr

/-- A started array operation (R75): the next vector's index, and where its tile is. -/
structure MmRun where
  q : QRec
  next : Nat
  load : LoadSt
deriving DecidableEq, Repr

/-- An array and its feeder (04). -/
structure ArrSt where
  active : Option Tile
  shadow : Option Tile
  /-- the operations started and not ended, oldest first: their loads are the loader's queue -/
  ops : List MmRun
  /-- edge accumulators, FP32 (R85) -/
  acc : Tbl W32
  /-- the rounding generator's draw index in the attempt, and that of operations of a discarded attempt still running (R88) -/
  draw : Nat
  oldDraw : Nat
  /-- tiles drained in the attempt (R288) -/
  tiles : Nat
  /-- a parity error has been replayed in the active tile's load, and the tile is being fetched again (R92) -/
  replayed : Bool
  refetch : Bool
deriving DecidableEq, Repr

def ArrSt.zero : ArrSt := ⟨none, none, [], [], 0, 0, 0, false, false⟩

/-- A sampled tile in the shadow queue (R289). -/
structure ShadowEnt where
  arr : Nat
  layer : Nat
  opidx : W32
  step : Nat
  attempt : Nat
  bits : Rec
  /-- the record that loaded the tile held -/
  src : Rec
  x : Bytes
  y : List W32
  relTol : W32
  absTol : W32
deriving DecidableEq, Repr

/-- A core (05): dependency counters, engine queues, records started, scalar pipes, arrays, read cache lines
(line address and bytes, oldest first), and the shadow queue. -/
structure CoreSt where
  dc : Tbl Nat
  /-- counters that a signal of a scope wider than the core has reached in this attempt (R97, R177) -/
  dcWide : List Nat
  queues : Tbl (List QRec)
  exec : Tbl (List ExRec)
  pipes : Tbl ScPipe
  arrs : Tbl ArrSt
  rc : List (Nat × Bytes)
  shadowQ : List ShadowEnt
  fault : W64
  faultSet : Bool
  cbErr : W64
  lastOvf : Tbl (Option W64)
deriving DecidableEq, Repr

def CoreSt.zero : CoreSt := ⟨[], [], [], [], [], [], [], [], 0, false, 0, []⟩

/-- A cluster sequencer (R95, R216, Table 15.15 of 05): the launches it holds, and its place in the record stream. -/
structure SeqSt where
  launches : List Nat
  /-- the place of the next record in the launch's stream of this cluster, 128 B a record -/
  nextOff : Nat
  bucket : Nat
  markLayer : Nat
  markOp : Nat
  firstErr : Option (Err × Nat)
  halted : Bool
  bps : Tbl (Option Nat)
  /-- records are being placed: an overflow trigger and a rewind stop it (R281) -/
  placing : Bool
  runAheadDepth : Nat
  /-- the next record is placed though a breakpoint names it: set by RESUME and STEP -/
  pass : Bool
  /-- one record is to be placed, then the sequencer halts (R471, STEP) -/
  step1 : Bool
  /-- the attempt of the oldest undecided step has begun here: its counters were set to zero (R100) -/
  begun : Bool
deriving DecidableEq, Repr

def SeqSt.zero : SeqSt := ⟨[], 0, 0, 0, 0, none, false, [], false, 0, false, false, false⟩

/-! ### Store, mover, tiers (06, 07) -/

/-- A store slice's scrub, error and spare-row state (R129 to R132, Table 6.6). -/
structure SliceSt where
  scrubOff : Nat
  passes : Nat
  ceAddr : W64
  ueAddr : W64
  /-- passes in which scrub corrected the row, by bank × 65536 + row -/
  rowHits : Tbl Nat
  /-- rows already counted in this pass -/
  rowSeen : List Nat
  /-- spare rows used, by bank -/
  spares : Tbl Nat
  exhausted : Bool
deriving DecidableEq, Repr

def SliceSt.zero : SliceSt := ⟨0, 0, 0, 0, [], [], [], false⟩

/-- Who posted a mover descriptor or an operation (R133, R136). -/
inductive Src where
  | port (core : Nat) (ctr : Option Nat)
  | kpm (tile : Nat) (op : Nat)
  | steward
  | mover (tile : Nat) (id : Nat)
  /-- a DISPATCH of a TXU -/
  | txu (cluster : Nat) (id : Nat)
deriving DecidableEq, Repr

/-- Where a descriptor or operation stands. -/
inductive OpSt where
  | accepted
  /-- tier reads issued, replies outstanding (R139) -/
  | reading
  /-- its effect is complete, its completion not yet signalled -/
  | done
deriving DecidableEq, Repr

/-- A mover descriptor accepted and not completed (R133 to R140). -/
structure MDesc where
  id : Nat
  src : Src
  part : Nat
  ctx : Nat
  gen : Byte
  step : Nat
  attempt : Nat
  /-- the layer of the record that posted it -/
  layer : Nat
  raw : Desc
  st : OpSt
  err : Option Err
  /-- its completion signal was dropped by an edge or a generation advance (R138) -/
  noSignal : Bool
  /-- what it is doing: 0 reads its list, 1 its source, 2 writes its destination, 3 reads a SCRUB back -/
  phase : Nat
  /-- pieces of that phase issued -/
  pos : Nat
  /-- what its reads have brought: bytes and the poisoned among them, by 4096 × piece + offset -/
  buf : Tbl (Bytes × List Nat)
  /-- its list: the entry of each row; none for an entry that read poisoned -/
  list : List (Option Nat)
  /-- the segment at which its first error arose -/
  errSeg : Nat
  /-- it came from the steward's queue in memory -/
  queued : Bool
deriving DecidableEq, Repr

/-- A descriptor just accepted. -/
def MDesc.new (id : Nat) (src : Src) (part ctx : Nat) (gen : Byte) (step attempt layer : Nat) (raw : Desc) : MDesc :=
  { id := id, src := src, part := part, ctx := ctx, gen := gen, step := step, attempt := attempt, layer := layer, raw := raw, st := .accepted,
    err := none, noSignal := false, phase := 0, pos := 0, buf := [], list := [], errSeg := 0, queued := false }

/-- A request of a mover that a tier unit has accepted and not answered (R148, R149, R154, R157): the mover and its descriptor; the
stream, 0 for the steward's, else 1 + partition × 8 + tile; the offset in the unit and the bytes asked for; what a write sends, as
the unit stores it, with the bytes of it that are poisoned; the partition address where the bridge port encrypts. -/
structure TReq where
  tile : Nat
  desc : Nat
  stream : Nat
  part : Nat
  slot : Nat
  off : Nat
  len : Nat
  wr : Option Bytes
  bad : List Nat
  crumb : Bool
  encVa : Option Nat
deriving DecidableEq, Repr

/-- A tier's answer on its way to a mover (R139, R152, R166): of a read its bytes and the poisoned among them; of a write none.
`down`: the port answered it for a link that is down. -/
structure TRep where
  desc : Nat
  slot : Nat
  data : Option Bytes
  bad : List Nat
  down : Bool
  /-- the 64 B requests it answers (Table 10.6) -/
  cost : Nat
deriving DecidableEq, Repr

/-- A tile's mover (R133 to R141, Table 6.7). -/
structure MoverSt where
  descs : List MDesc
  replies : List TRep
  nextId : Nat
  pqHead : Nat
  /-- entries of the steward queue from here to its tail wait for room (R135) -/
  pqNext : Nat
  pqDone : W32
  firstErr : W64
  firstStat : W64
  errSet : Bool
deriving DecidableEq, Repr

def MoverSt.zero : MoverSt := ⟨[], [], 0, 0, 0, 0, 0, 0, false⟩

/-- A tier unit (R142 to R170, Tables 7.8, 7.9). Rows are keyed by their number within the unit; bank groups likewise. -/
structure TierSt where
  degraded : Bool
  die : Option Nat
  refresh2x : Bool
  selfRefresh : Bool
  retirePending : Bool
  scrubOff : Nat
  passes : Nat
  ceAddr : W64
  ueAddr : W64
  /-- corrections of this scrub pass: die and codeword (R160) -/
  dieHits : List (Nat × Nat)
  rowHits : Tbl Nat
  rowSeen : List Nat
  /-- spare rows used, by bank group -/
  spares : Tbl Nat
  /-- rows under post-package repair -/
  repairing : List Nat
  lastRepair : W64
  /-- rows whose page waits for retirement -/
  retireReq : List Nat
  retired : List Nat
  /-- pages taken into the steward's reserved region in place of retired ones of it (R163) -/
  steward : List Nat
  /-- requests accepted and not answered, in order of arrival, and the stream last served (R149, R157) -/
  reqs : List TReq
  lastStream : Nat
  /-- open rows by bank, and the direction of each channel's last burst, true a write (R147, Table 7.8) -/
  rows : Tbl Nat
  dirs : Tbl Bool
deriving DecidableEq, Repr

def TierSt.zero : TierSt := ⟨false, none, false, false, false, 0, 0, 0, 0, [], [], [], [], [], 0, [], [], [], [], 0, [], []⟩

/-- What the steward logs: a store or tier word that SCRUB read back wrong, a page that MIGRATE found poisoned, a page retired; each
by physical address. -/
inductive LogEnt where
  | scrubFail (addr : Nat)
  | migratePoison (addr : Nat)
  | retirement (addr : Nat)
deriving DecidableEq, Repr

/-- A bridge link (R152, R317). -/
structure BridgeSt where
  linkUp : Bool
  /-- tick at which the link went down plus one; 0 while it has not -/
  downAt : Nat
  /-- the stream whose crumb access was served last (R157) -/
  lastCrumb : Nat
deriving DecidableEq, Repr

def BridgeSt.zero : BridgeSt := ⟨false, 0, 0⟩

/-! ### KV page manager (11) -/

/-- A page descriptor (Table 11.1) with its free-list bookkeeping. -/
structure KDesc where
  addr : Nat
  firstPos : Nat
  fill : Nat
  refc : Nat
  staged : Nat
  /-- none: no step has pinned the page since it was taken -/
  pinEpoch : Option W32
  fmt : Byte
  logP : Nat
  tier : Nat
  cow : Bool
deriving DecidableEq, Repr

/-- A reservation of an undecided step (R242 to R245). -/
structure Resv where
  step : Nat
  attempt : Nat
  start : Nat
  n : Nat
  spec : Bool
  k : Option Nat
  /-- pages touched: descriptor and positions reserved in it -/
  pages : List (Nat × Nat)
deriving DecidableEq, Repr

/-- A copy in progress: on write (R241), the operation that required it, old and new descriptor, the ring entry; or a MOVE's, with
the new page and its tier. -/
structure Cow where
  op : Nat
  old : Nat
  new : Nat
  entry : Nat
  move : Option (Nat × Nat)
deriving DecidableEq, Repr

/-- A stream (Table 11.2): the record, the ring's filled entries, the global list, reservations. -/
structure KStream where
  id : W32
  part : Nat
  ctx : Nat
  recVa : Nat
  closing : Bool
  fmt : Byte
  geom : Byte
  headsM1 : Nat
  headDim : Nat
  commit : Nat
  staged : Nat
  ringLog2 : Nat
  pattern : Byte
  ringBase : Nat
  basePos : Nat
  wUnits : Nat
  globalBase : Nat
  ring : Tbl Nat
  /-- global positions and the descriptor held for each -/
  globals : List (Nat × Option Nat)
  resvs : List Resv
  cow : Option Cow
  /-- newest pin among the pages it dropped, for CLOSING (R239) -/
  closePins : List W32
deriving DecidableEq, Repr

/-- A page on the reclaim list (R249), with its descriptor; a MOVE's old page has none. -/
structure Reclaim where
  desc : Option Nat
  page : Nat
  tier : Nat
  pin : Option W32
  ctx : Nat
deriving DecidableEq, Repr

/-- A partition's part of a KPM (R237). -/
structure KpmPart where
  descs : Tbl KDesc
  /-- free pages of the four tiers, lowest first -/
  free : Tbl (List Nat)
  reclaim : List Reclaim
  /-- descriptor indices never used yet start here; `freeD` holds returned ones -/
  nextD : Nat
  freeD : List Nat
deriving DecidableEq, Repr

def KpmPart.zero : KpmPart := ⟨[], [], [], 0, []⟩

/-- A KPM operation accepted and not completed (R238, R239). -/
structure KOp where
  id : Nat
  src : Src
  core : Nat
  part : Nat
  ctx : Nat
  gen : Byte
  step : Nat
  attempt : Nat
  layer : Nat
  raw : Desc
  st : OpSt
  err : Option Err
  /-- its attempt was discarded: its completion signals nothing -/
  stale : Bool
  /-- block-table entries it has copied on write (R241) -/
  cowed : List Nat
  /-- an edge removed a copy of it that had not started (R138): what it copied is undone -/
  cut : Bool
deriving DecidableEq, Repr

/-- A tile's KPM (11, Table 11.11). -/
structure KpmSt where
  parts : Tbl KpmPart
  streams : List KStream
  ops : List KOp
  nextId : Nat
  firstErr : W64
  firstInfo : W64
  errSet : Bool
  poolReject : W64
deriving DecidableEq, Repr

def KpmSt.zero : KpmSt := ⟨[], [], [], 0, 0, 0, false, 0⟩

/-! ### Token exchange (12) -/

/-- A TXU operation accepted and not retired (R261). -/
structure TOp where
  id : Nat
  core : Nat
  ctr : Option Nat
  part : Nat
  gen : Byte
  step : Nat
  attempt : Nat
  layer : Nat
  raw : Desc
  st : OpSt
  /-- records sent: of a PASS_DONE, its results; of a DISPATCH whose tokens are sent, its ENDs -/
  sent : Nat
  /-- of a PASS_DONE, the results that their origins have accepted -/
  acked : Nat
deriving DecidableEq, Repr

/-- A pass of an expert slot (R263): the tags of its rows, whether it has closed, whether PASS_DONE retired. -/
structure Pass where
  rows : List (BitVec 128)
  closed : Bool
  done : Bool
deriving DecidableEq, Repr

/-- An expert slot (Table 12.6). -/
structure ESlot where
  raw : BitVec 256
  passes : List Pass
  held : List (BitVec 128)
deriving DecidableEq, Repr

/-- What one origin has sent in a stage: module, cluster, received, and the count its END states. -/
structure Origin where
  module : W16
  cluster : Nat
  got : Nat
  endCount : Option Nat
deriving DecidableEq, Repr

/-- A DISPATCH record that waits for its slot to be configured: header, tag and row. -/
structure TEarly where
  hdr : BitVec 128
  tag : BitVec 128
  row : Bytes
deriving DecidableEq, Repr

/-- A stage of a TXU (R261 to R271): `op` its SLOTS operation, none before it. -/
structure TStage where
  stage : Nat
  step : Nat
  attempt : Nat
  op : Option Nat
  origins : Nat
  slots : List ESlot
  heard : List Origin
  early : List TEarly
deriving DecidableEq, Repr

/-- DISPATCH records that this TXU has sent to another in a stage of a step: what its ENDs state. -/
structure TSent where
  step : Nat
  stage : Nat
  module : W16
  cluster : Nat
  n : Nat
deriving DecidableEq, Repr

/-- A token of a DISPATCH that waits for its results (R268). -/
structure TokWait where
  op : Nat
  tok : Nat
  oslot : Nat
  /-- results present: choice, gate and row -/
  results : List (Nat × W32 × List W32)
  k : Nat
  sent : Nat
  combined : Bool
deriving DecidableEq, Repr

/-- A TXU (12, Table 12.8). -/
structure TxuSt where
  ops : List TOp
  nextId : Nat
  stages : List TStage
  toks : List TokWait
  nextSlot : Nat
  firstErr : W64
  errSet : Bool
  lastStage : Nat
  lastPass : Nat
  sentTo : List TSent
  /-- a sender waits for this TXU's credit (R270) -/
  stalled : Bool
  /-- the slot table entries of the latest stage configured (Table 12.8) -/
  lastSlots : List (BitVec 256)
deriving DecidableEq, Repr

def TxuSt.zero : TxuSt := ⟨[], 0, [], [], 0, 0, false, 0, 0, [], false, []⟩

/-! ### What the module sends -/

/-- A message the module has sent: to another module, the host, the sideband or the debug port; oldest first in `State.out`. -/
inductive Msg where
  | lane3 (port : Nat) (m : Msg32)
  | job (p : Nat) (m : Msg32)
  | cadence (frame : BitVec 104)
  | pulse (t : W64)
  | hostWrite (fn : Fn) (addr : Nat) (data : Bytes) (relaxed noSnoop : Bool)
  | msix (fn : Fn) (vec : Nat)
  | frs (fn : Fn)
  | req (port : Nat) (dst : W16) (hdr : RemHdr) (op : RemOp)
  | resp (port : Nat) (dst : W16) (tag : Nat) (gen : Byte) (r : RemResp)
  /-- a record of the TXU of cluster `src`: of a DISPATCH record `num` is its request number, of a RESULT its operation's number -/
  | txu (dst : W16) (cluster : Nat) (hdr tag : BitVec 128) (row : Bytes) (src num : Nat)
  | fold (engine : Nat) (dst : W16) (kind : Nat) (m : FoldMsg)
  | foldGrant (engine : Nat) (dst : W16) (tensor : W32) (windowEnd : Nat)
  | replayReq (port : Nat) (lseq : W32)
  | replay (port : Nat) (flits : List Flit)
  | train (port : Nat)
  | spdm (code : Nat) (data : Bytes)
  | dbg (resp : BitVec 192)
  | tap (ir : Byte) (dr : W64)
  | pldm (id : Nat) (val : W64)
  | drained (p : Nat) (m : Msg32)
  | dump (addr : W64) (off len : Nat)
  | atsDone (fn : Fn)
deriving DecidableEq, Repr

/-! ### Elren and fold engines (14, 15) -/

/-- Port states (Table 14.8). -/
inductive LinkSt where
  | down
  | training
  | up
deriving DecidableEq, Repr

/-- A request sent and awaiting its response (R315, R316): its requester. -/
structure OutReq where
  tag : Nat
  part : Nat
  gen : Byte
  dst : W16
  who : Src
  /-- scalar pipe that issued it: pipe number, destination register, write? -/
  pipe : Nat
  isRead : Bool
  half : Bool
  /-- of a mover's read, where its data goes in the descriptor's buffer; of a pipe, the program that asked; of a DISPATCH record, its
  token's combine slot × 16 + the choice -/
  put : Nat
  /-- of an atomic: FN, operand and compare value -/
  atom : Option (BitVec 11 × W64 × W64)
deriving DecidableEq, Repr

/-- A flit sent and not acknowledged (R300): the partition that sent it, the message that it ends, and the flit. -/
structure SentFlit where
  own : Nat
  msg : Option Msg
  flit : Flit
deriving DecidableEq, Repr

/-- A flit that waits on its lane (R301, R302): where it goes, the destination's partition, the partition that sends it and its
generation; its kind where Table 15.3 gives one; the last flit of a message carries the message. -/
structure TxFlit where
  dst : Nat
  dpart : Nat
  own : Nat
  gen : Nat
  kind : Option Nat
  msg : Option Msg
deriving DecidableEq, Repr

/-- An Elren port (14, Table 14.8). -/
structure PortSt where
  st : LinkSt
  half : Bool
  upperHalf : Bool
  wlUse : W16
  wlFail : W16
  isSwitch : Bool
  /-- the module ID this port trained with (R308) -/
  ownId : W16
  peerChanged : Bool
  peer : W16
  peerPort : Nat
  lastPeer : Option W16
  trained : Bool
  trainStart : Nat
  downCause : Nat
  downs : W32
  rxSeq : W32
  txSeq : W32
  /-- flits sent and not acknowledged, oldest first (R300) -/
  replay : List SentFlit
  /-- flits that wait to be sent, by lane, oldest first (R302) -/
  txq : Tbl (List TxFlit)
  /-- the lane among 0 to 2 that sent last (R302) -/
  lastLane : Nat
  replayAsked : Bool
  /-- how often the oldest unacknowledged flit was replayed -/
  replays : Nat
  credits : Tbl Nat
  owed : Tbl Nat
  /-- flow counters by partition × 4 + lane (R306); 128 is the link key's -/
  fctr : Tbl W64
  outReqs : List OutReq
  nextTag : Nat
  lostPeer : W64
  lostSet : Bool
  linkKeyOk : Bool
  /-- which KEY_SET of the link key it trained with: the module's count then -/
  keyGen : Nat
deriving DecidableEq, Repr

def PortSt.zero : PortSt :=
  { st := .down, half := false, upperHalf := false, wlUse := 0, wlFail := 0, isSwitch := false, ownId := 0xFFFF, peerChanged := false,
    peer := 0, peerPort := 0, lastPeer := none, trained := false, trainStart := 0, downCause := 0, downs := 0, rxSeq := 0, txSeq := 0, replay := [], txq := [],
    lastLane := 2, replayAsked := false, replays := 0, credits := [], owed := [], fctr := [], outReqs := [], nextTag := 0, lostPeer := 0,
    lostSet := false, linkKeyOk := false, keyGen := 0 }

/-- The laser source units (R318, R319). -/
structure LsuSt where
  aGood : Bool
  bGood : Bool
deriving DecidableEq, Repr

/-- A block a fold engine holds from one child (R330): 1 to 3 for C0 to C2. -/
structure InBlk where
  tensor : Nat
  input : Nat
  blk : FoldBlk
deriving DecidableEq, Repr

/-- An update that waits for the edge (R342): its tensor, blocks, master parameters, broadcast format, the root's children, and
what becomes current: addresses and bytes. -/
structure FUpd where
  tensor : Nat
  blocks : Nat
  master : Nat
  bfmt : Nat
  kids : List W16
  writes : List (Nat × Bytes)
deriving DecidableEq, Repr

/-- A broadcast that a root makes (R343): the committed step, and the next block to send. -/
structure FCast where
  upd : FUpd
  step : Nat
  attempt : Nat
  next : Nat
deriving DecidableEq, Repr

/-- A partition's part of a fold engine (R329 to R344). -/
structure FoldPart where
  /-- index of the current entry in the engine's list -/
  cur : Nat
  started : Bool
  held : List InBlk
  /-- window end granted by the parent, and the one granted to the children -/
  granted : Nat
  given : Nat
  /-- blocks summed, which a node that is no root has sent up -/
  summed : Nat
  /-- result blocks written -/
  written : Nat
  upds : List FUpd
  casts : List FCast
  /-- step whose broadcast was last written in full, by tensor (R343), and blocks of the one in progress -/
  bcastDone : Tbl Nat
  bcastGot : Tbl Nat
  /-- the current entry has ended with an error -/
  failed : Bool
  firstErr : W64
  firstInfo : W64
  errSet : Bool
  /-- the next block is ready and waits for a grant (GRANT_STALL) -/
  grantWait : Bool
deriving DecidableEq, Repr

def FoldPart.zero : FoldPart := ⟨0, false, [], 64, 64, 0, 0, [], [], [], [], false, 0, 0, false, false⟩

/-- A fold engine (15, Table 15.7). -/
structure FoldSt where
  parts : Tbl FoldPart
deriving DecidableEq, Repr

def FoldSt.zero : FoldSt := ⟨[]⟩

/-! ### Partitions, translation, security (16) -/

/-- Partition states (Table 16.7). -/
inductive PState where
  | free
  | active
  | tearingDown
  | scrubbing
  | quarantined
deriving DecidableEq, Repr

/-- TDI states (R371). -/
inductive Tdi where
  | unlocked
  | locked
  | run
  | error
deriving DecidableEq, Repr

/-- A leaf of a partition's table tree (Table 16.2): tenant context, virtual address, page size as log2, target and
address, permission; for a remote target the home module. -/
structure Leaf where
  ctx : Nat
  va : Nat
  log2 : Nat
  target : Nat
  addr : Nat
  module : W16
  w : Bool
  migrating : Bool
deriving DecidableEq, Repr

/-- A debug grant (R471). -/
structure Grant where
  rights : Byte
  gen : Byte
  notAfter : W64
deriving DecidableEq, Repr

/-- A partition (16, Table 16.7). -/
structure PartSt where
  state : PState
  gen : Byte
  tdi : Tdi
  errCode : Nat
  clusters : W32
  tierEnc : Bool
  useStore : Nat
  useNear : Nat
  useModule : Nat
  useShelf : Nat
  leaves : List Leaf
  /-- unmapped leaves whose pages a KPM still holds (R353) -/
  held : List Leaf
  /-- a MAP request in progress, its result, and pages done (Table 16.7) -/
  mapBusy : Bool
  mapRes : Nat
  mapDone : Nat
  /-- the request waits for the steward (R419) -/
  mapPend : Bool
  fault : W64
  faultSet : Bool
  /-- which step of Table 16.4 teardown is in: 0 none -/
  tdStep : Nat
  /-- compute reset: 0 none, 1 pending a commit edge, 2 started -/
  rst : Nat
  rstCause : Nat
  rstDrop : Bool
  rstNoCqe : Bool
  rstTrigger : W64
  rstHung : W64
  rstStart : W64
  quarantining : Bool
  /-- house times of the counted HANG resets (R416) -/
  hangs : List W64
  grant : Option Grant
deriving DecidableEq, Repr

def PartSt.zero : PartSt :=
  { state := .free, gen := 0, tdi := .unlocked, errCode := 0, clusters := 0, tierEnc := false, useStore := 0, useNear := 0,
    useModule := 0, useShelf := 0, leaves := [], held := [], mapBusy := false, mapRes := 0, mapDone := 0, mapPend := false, fault := 0,
    faultSet := false, tdStep := 0, rst := 0, rstCause := 0, rstDrop := false, rstNoCqe := false, rstTrigger := 0, rstHung := 0,
    rstStart := 0, quarantining := false, hangs := [], grant := none }

/-- Ownership of a store unit or tier page: who holds it, who held it last and has not been scrubbed since (R353, R361),
and how many leaves use it. Keys: Machine/Ops.lean. -/
structure Backing where
  owner : Option Nat
  last : Option Nat
  uses : Nat
deriving DecidableEq, Repr

def Backing.zero : Backing := ⟨none, none, 0⟩

/-- A translation entry as a unit caches it (R350, R354): the partition and tenant context, the range of addresses it translates, as
its first and its size as log2 (39, 30, 21 or 16 at levels 0 to 3), and the leaf it holds; none where it names the next table. -/
structure XEnt where
  part : Nat
  ctx : Nat
  va : Nat
  log2 : Nat
  leaf : Option Leaf
deriving DecidableEq, Repr

/-- A translation unit (R354, Table 16.9): cached entries, oldest first. -/
structure XlatSt where
  cache : List XEnt
  invalDone : W32
deriving DecidableEq, Repr

def XlatSt.zero : XlatSt := ⟨[], 0⟩

/-- SEC and the SPDM responder (R362 to R372, Table 16.10). -/
structure SecSt where
  fusedSvn : Nat
  revoked : BitVec 4
  aliasReady : Bool
  imageSvn : Nat
  imageSlot : Nat
  fwDigest : Bytes
  tierKeys : Tbl (BitVec 256)
  flowKeys : Tbl (BitVec 256)
  linkKey : Option (BitVec 256)
  /-- how many link keys have been set: a port takes a new one at its next training -/
  linkKeyGen : Nat
  keySets : Byte
  dbgKey : Option Bytes
  ideLink : Bool
  ideKeys : Tbl (BitVec 256)
  versionDone : Bool
  capsDone : Bool
  algsDone : Bool
  /-- sessions: number, established -/
  sessions : List (Nat × Bool)
  nextSid : Nat
  /-- measurements 0x01, 0x02 and the partitions' chains: index and 64 B value -/
  meas : Tbl Bytes
  /-- the steward's debug grants since boot, which extend measurement 0x04 (R471) -/
  stewGrants : List Bytes
  /-- the nonce of each partition's report in progress, as it stood at the request (R454) -/
  nonces : Tbl Bytes
deriving DecidableEq, Repr

/-- The boot chain, flash, pins and power state (R204, R362 to R366, R460; Tables 20.6, 21.7). -/
structure BootSt where
  /-- power is applied and PG asserted -/
  on : Bool
  /-- PERST_N is asserted -/
  perst : Bool
  code : Nat
  lastFail : Nat
  pushed : Bool
  codeMs : Nat
  straps : BitVec 3
  count : W32
  cause : BitVec 4
  flash : Option FwImage
  retiredList : List (Nat × Nat)
  /-- retired pages not yet appended to the list in flash -/
  retireQueue : List (Nat × Nat)
  /-- tick at which PERST_N was deasserted -/
  perstAt : Nat
  /-- TIER_INIT has run since the firmware started -/
  tiersDone : Bool
  thermtrip : Bool
  alert : Bool
  /-- PWR_EN is asserted; with the module off, it has been shut down under R457 or R462 -/
  pwrEn : Bool
deriving DecidableEq, Repr

/-! ### Metrology unit (17) -/

/-- The counts of a stream in a window (Table 17.2): sixteen bins in `itl`. -/
structure FCounts where
  tokens : Nat
  steps : Nat
  repeats : Nat
  abandons : Nat
  firsts : Nat
  ttft : Nat
  itl : List Nat
  itlMax : Nat
deriving DecidableEq, Repr

def FCounts.zero : FCounts := ⟨0, 0, 0, 0, 0, 0, List.replicate 16 0, 0⟩

/-- A stream that is or was registered (R387): when its metering began and ended, its earlier registrations, the time of its last
REGISTER, whether it awaits its first token, its request's arrival, its last counted edge, and its counts in the window in progress. -/
structure FStream where
  part : Nat
  stream : W32
  regAt : W64
  goneAt : Option W64
  spans : List (W64 × W64)
  reqAt : W64
  awaiting : Bool
  arr : Option W64
  prevE : Option W64
  c : FCounts
deriving DecidableEq, Repr

/-- Late counts of a stream (R475): the start of the window they belong to. -/
structure FLate where
  win : Nat
  part : Nat
  stream : W32
  c : FCounts
deriving DecidableEq, Repr

/-- A tapped doorbell (R378): function, SQ, old and new tail, time, and its place among the events of the queues. -/
structure Door where
  fn : Fn
  sq : Nat
  old : Nat
  tail : Nat
  t : W64
  ord : Nat
deriving DecidableEq, Repr

/-- A tapped LAUNCH fetch (R378), with its place among the events of the queues, and that of the last fetch at its index or the
last enable of its SQ, whichever was later. -/
structure FetchTap where
  fn : Fn
  part : Nat
  sq : Nat
  idx : Nat
  stream0 : W32
  nstreams : Nat
  t : W64
  ord : Nat
  after : Nat
deriving DecidableEq, Repr

/-- A VF meter ring (R389). -/
structure VfRing where
  base : W64
  entries : Nat
  tailAddr : W64
  headAddr : W64
  tail : Nat
  head : Nat
  dropped : Nat
  copies : List Flit
  configured : Bool
deriving DecidableEq, Repr

def VfRing.zero : VfRing := ⟨0, 0, 0, 0, 0, 0, 0, [], false⟩

/-- Tokens of one stream and edge being tapped (R384): the edge, tokens so far, whether it is a request's first, and the
stream's previous edge. -/
structure EdgeRun where
  part : Nat
  stream : W32
  e : W64
  n : Nat
  first : Bool
  prevE : Option W64
deriving DecidableEq, Repr

/-- The FMU (17, Table 17.8). -/
structure FmuSt where
  alive : Bool
  boot : W32
  seq : Nat
  prev : Bytes
  sealBlown : Bool
  winMs : Nat
  winPend : Nat
  winStart : W64
  /-- the latest end of a window that has closed (R475) -/
  closed : Nat
  /-- window lengths in ms with the house time from which each has held, newest first -/
  lens : List (Nat × Nat)
  buf : List Flit
  lost : Nat
  lostAll : W64
  ringBase : W64
  ringSize : Nat
  ringTailAddr : W64
  ringTail : Nat
  ringHead : Nat
  ringSet : Bool
  ringFault : Bool
  /-- writing to the host is stopped until the next RING_SET (R375) -/
  stopped : Bool
  emitHold : Bool
  hold : Bool
  heldInWin : Bool
  heldNs : Nat
  suspect : Bool
  /-- house time has stepped in this second of the oscillator (R381) -/
  stepped : Bool
  clean : Nat
  drift : Int
  streams : List FStream
  late : List FLate
  unreg : Nat
  acks : Nat
  lastAck : W32
  cmdRes : Byte
  /-- house time and lock state last delivered by the time tap -/
  tapNow : W64
  tapLock : Lock
  tapSeen : Bool
  /-- house time at the start of the oscillator's second -/
  secNow : W64
  /-- doorbells tapped; those and fetches still in the tap -/
  doors : List Door
  doorTap : List Door
  fetchTap : List FetchTap
  /-- events of the queues so far; the last fetch at each index by queue × 4096 + index, the last enable of each SQ -/
  tapOrd : Nat
  lastFetch : Tbl Nat
  lastEnable : Tbl Nat
  edgeRun : List EdgeRun
  vf : Tbl VfRing
  vfLost : Tbl Nat
  vfFault : W32
deriving DecidableEq, Repr

/-! ### Sage, PCIe, power, debug (18 to 21) -/

/-- A sample run of an engine (R402): the engine's key, its progress count and samples so far. -/
structure SampleRun where
  prog : W64
  n : Nat
deriving DecidableEq, Repr

/-- A reset record (R413) in its store slot, with what its notice states (R414). -/
structure ResetRec where
  part : Nat
  bytes : Bytes
  cause : Nat
  start : W64
  lastCommit : Option Nat
  slot : Nat
  /-- its index in the host record ring, once copied there -/
  ring : Option Nat
deriving DecidableEq, Repr

/-- Sage (18, Table 18.10). -/
structure SageSt where
  runs : Tbl SampleRun
  /-- house time of the last sample, by partition, and at 32 of the shared blocks -/
  lastSample : Tbl W64
  /-- house time of the last deadlock walk, by partition (R223) -/
  lastWalk : Tbl W64
  devRst : Nat
  devCause : Nat
  devNoCqe : Bool
  /-- the hung engine's block and number, as SAGE.HUNG held them at the trigger -/
  devHung : W64
  devTrigger : W64
  devStart : W64
  stewardRst : Bool
  oos : Bool
  fatal : Option Nat
  last : W64
  hung : W64
  counted : List W64
  /-- store slots that hold records not yet copied -/
  recs : List ResetRec
  /-- records collected whose notice waits for the reset's completion -/
  handover : List ResetRec
  recTail : Nat
  kickAt : Nat
  /-- tick since which a halted steward core has held the watchdog (R403) -/
  wdogHeld : Option Nat
  dumpDone : Bool
  dumpNone : Bool
  dumpLen : Nat
  dumpBusy : Bool
  dumpFault : Bool
  dumpCopies : W32
deriving DecidableEq, Repr

/-- The PCIe controller (19, Table 19.7). Functions are keyed 0 PF, 1 + p VF p. -/
structure PcieSt where
  rate : Nat
  width : Nat
  linkUp : Bool
  vfEn : W32
  ats : Tbl Bool
  /-- bus master enabled in D0, by function -/
  bme : Tbl Bool
  /-- writes held while bus mastering is off (R432), in order -/
  owed : List (Nat × Nat × Bytes × Bool)
  /-- what the host answers to a function's translation requests since its last invalidation: true, refused (R430) -/
  refused : Tbl Bool
  /-- the translation cache of ATS (R423, R429): the function and the 4 KiB page of each entry, oldest first -/
  atc : List (Nat × Nat)
  /-- MSI-X: vectors unmasked, and pending, by function × 4096 + vector -/
  unmasked : Tbl Bool
  pending : Tbl Bool
  rrs : W64
  /-- classes that were pending when last looked at (R428) -/
  classPend : W16
  faultAddr : W64
  faultInfo : W64
  mbxBusy : Bool
  mbxRes : Nat
  mbxFail : Nat
  /-- result and failing check as PCIE.MBX_STATUS shows them -/
  mbxStat : W64
deriving DecidableEq, Repr

/-- The power controller (20, 21; Table 20.15). Demands of the three causes (R463), in steps of m. -/
structure PowerSt where
  m : Nat
  lowM : Nat
  cause : Nat
  mCap : Nat
  mTherm : Nat
  mVin : Nat
  idle : Bool
  vinRange : Bool
  /-- tick since which the 1 ms average has been below 97 % of the cap, plus one; 0 when it is not -/
  lowSince : Nat
  coolSince : Nat
  vinOkSince : Nat
  aboveTdp : Bool
  /-- a PART request has been made in IDLE (R459) -/
  wake : Bool
  /-- input energy below 1 mJ not yet counted, in 0.1 mJ -/
  energyRem : Nat
  hot90 : Bool
  watts : Nat
  mv : Nat
  tjMax : Nat
  tj : List Nat
deriving DecidableEq, Repr

/-- The debug port and the DEBUG page (20, 21; Tables 20.16, 21.9). -/
structure DebugSt where
  ir : Byte
  attn : Nat
  pendGrant : Tbl W64
  stewGrant : Option Grant
  stewHalted : BitVec 4
  /-- what the port has read or written of the steward: registers by core × 2^32 + number, memory by address -/
  stewRegs : Tbl W64
  stewMem : Tbl W64
  stewBps : Tbl (Option Nat)
  traceOn : Bool
  traceStop : Nat
  traceCount : W32
  /-- trace entries, oldest first -/
  trace : List Msg32
  staging : Bool
deriving DecidableEq, Repr

/-! ### The machine -/

/-- Why a machine stops. No command of this block stops the machine: the spec gives each an effect, counts a write that
it ignores, or ends the work with a status. The one reason is kept for an access to a physical address outside every range of
R121 and Table 7.2 by a path that has no status to report it; safe. -/
inductive Fault where
  | noSuchAddress (a : Nat)
deriving DecidableEq, Repr

/-- Why a command is refused: it has no meaning yet. -/
inductive Refusal where
  | notModelled (mnemonic : String)
deriving DecidableEq, Repr

/-- The state of one HL840 module. -/
@[ext]
structure State where
  /-- commands waiting, first in, first out -/
  pending : List Instr
  /-- what the module has sent, oldest first -/
  out : List Msg
  /-- central store and tiers by physical address (R121, R143) -/
  mem : List Host.Cell
  /-- core buffers (R116): core k's byte o at k × 2^23 + o -/
  cb : List Host.Cell
  /-- poisoned 64-bit words by word address (R129), poisoned codewords of the tiers by their words (R159) -/
  poison : List Nat
  /-- upsets that no read has met yet: of store words by physical address / 8, of core k's buffer words by 2^40 + k × 2^20 + word -/
  upsets : Tbl MemErr
  /-- the same of tier codewords, by tier physical address / 64 -/
  cwUpsets : Tbl CwErr
  /-- registers that software writes, by page key × 4096 + offset (20) -/
  rf : Tbl W64
  holds : List HoldW
  latches : List ReadLatch
  hdrs : Tbl PageHdr
  /-- progress counters of the engines of a page that has several, by page key × 8 + engine (R400) -/
  engProg : Tbl W64
  /-- live and latched statistics, by page key × 4096 + offset of the latched slot (R51) -/
  live : Tbl W64
  latched : Tbl W64
  time : TimeSt
  ctxs : Tbl CtxSt
  coords : Tbl CoordSt
  saved : List SavedCtx
  sqs : Tbl SqSt
  cqs : Tbl CqSt
  ents : List Entry
  /-- fences and semaphores by (partition × 8 + context) × 65536 + index (R220) -/
  fences : Tbl W64
  sems : Tbl Nat
  plans : List Plan
  gfe : GfeSt
  emit : EmitSt
  ners : Tbl NerSt
  cores : Tbl CoreSt
  seqs : Tbl SeqSt
  slices : Tbl SliceSt
  movers : Tbl MoverSt
  tiers : Tbl TierSt
  bridges : Tbl BridgeSt
  kpms : Tbl KpmSt
  txus : Tbl TxuSt
  ports : Tbl PortSt
  lsu : LsuSt
  folds : Tbl FoldSt
  parts : Tbl PartSt
  backing : Tbl Backing
  xlats : Tbl XlatSt
  sec : SecSt
  boot : BootSt
  /-- the steward's log, oldest first (R133, R140, Table 6.5) -/
  stewLog : List LogEnt
  fmu : FmuSt
  sage : SageSt
  pcie : PcieSt
  power : PowerSt
  dbg : DebugSt
  /-- the model's own counter: how many free values have been taken -/
  freeCtr : Nat
deriving DecidableEq, Repr

def TimeSt.reset : TimeSt :=
  { now := 0, mono := 0, lock := .unlocked, depth := 0, srcHoldover := false, lastOffset := 0, lastDelay := 0, validRun := 0,
    goodRun := 0, lastValid := 0, holdSince := 0, acqSet := false, slew := 0, depthRaised := false, x1 := 0, x2 := 0, x3 := 0,
    xValid := false, t4 := [], outTrig := false, lastPulse := 0 }

def GfeSt.reset : GfeSt :=
  { level := 2, planLoaded := false, placedAny := false, notices := [], nextUid := 0,
    activeCtx := [], lastSq := [] }

def SecSt.reset : SecSt :=
  { fusedSvn := 0, revoked := 0, aliasReady := false, imageSvn := 0, imageSlot := 0, fwDigest := [], tierKeys := [],
    flowKeys := [], linkKey := none, linkKeyGen := 0, keySets := 0, dbgKey := none, ideLink := false, ideKeys := [],
    versionDone := false, capsDone := false, algsDone := false, sessions := [], nextSid := 0, meas := [], stewGrants := [], nonces := [] }

def BootSt.reset : BootSt :=
  { on := true, perst := true, code := 1, lastFail := 0, pushed := false, codeMs := 0, straps := 4, count := 0, cause := 1,
    flash := none, retiredList := [], retireQueue := [], perstAt := 0, tiersDone := false, thermtrip := false, alert := false, pwrEn := true }

def FmuSt.reset : FmuSt :=
  { alive := true, boot := 0, seq := 0, prev := List.replicate 32 0, sealBlown := false, winMs := 1000, winPend := 1000,
    winStart := 0, closed := 0, lens := [(0, 1000)], buf := [], lost := 0, lostAll := 0, ringBase := 0, ringSize := 0, ringTailAddr := 0,
    ringTail := 0, ringHead := 0, ringSet := false, ringFault := false, stopped := false, emitHold := false, hold := false,
    heldInWin := false, heldNs := 0, suspect := false, stepped := false, clean := 0, drift := 0, streams := [], late := [], unreg := 0,
    acks := 0, lastAck := 0, cmdRes := 0, tapNow := 0, tapLock := .unlocked, tapSeen := false, secNow := 0, doors := [],
    doorTap := [], fetchTap := [], tapOrd := 0, lastFetch := [], lastEnable := [], edgeRun := [], vf := [], vfLost := [], vfFault := 0 }

def SageSt.reset : SageSt :=
  { runs := [], lastSample := [], lastWalk := [], devRst := 0, devCause := 0, devNoCqe := false, devHung := 0, devTrigger := 0, devStart := 0, stewardRst := false, oos := false,
    fatal := none, last := 0, hung := 0, counted := [], recs := [], handover := [], recTail := 0, kickAt := 0, wdogHeld := none, dumpDone := false,
    dumpNone := false, dumpLen := 0, dumpBusy := false, dumpFault := false, dumpCopies := 0 }

def PcieSt.reset : PcieSt :=
  { rate := 0, width := 0, linkUp := false, vfEn := 0, ats := [], bme := [], owed := [], refused := [], atc := [], unmasked := [], pending := [], rrs := 0,
    classPend := 0, faultAddr := 0, faultInfo := 0, mbxBusy := false, mbxRes := 0, mbxFail := 0, mbxStat := 0 }

def PowerSt.reset : PowerSt :=
  { m := 16, lowM := 0, cause := 0, mCap := 16, mTherm := 16, mVin := 16, idle := false, vinRange := false, lowSince := 0,
    coolSince := 0, vinOkSince := 0, aboveTdp := false, wake := false, energyRem := 0, hot90 := false, watts := 0, mv := 0,
    tjMax := 0, tj := [] }

def DebugSt.reset : DebugSt :=
  { ir := 0x01, attn := 0, pendGrant := [], stewGrant := none, stewHalted := 0, stewRegs := [], stewMem := [], stewBps := [], traceOn := false,
    traceStop := 0, traceCount := 0, trace := [], staging := false }

/-- The module after power-on, PG asserted and PERST_N still asserted: every register at its reset value, nothing listed
in memory, no command waiting. -/
def State.reset : State :=
  { pending := [], out := [], mem := [], cb := [], poison := [], upsets := [], cwUpsets := [], stewLog := [], rf := [], holds := [], latches := [], hdrs := [], engProg := [], live := [],
    latched := [], time := TimeSt.reset, ctxs := [], coords := [], saved := [], sqs := [], cqs := [], ents := [], fences := [],
    sems := [], plans := [], gfe := GfeSt.reset, emit := ⟨[], [], [], false⟩, ners := [], cores := [], seqs := [], slices := [],
    movers := [], tiers := [], bridges := [], kpms := [], txus := [], ports := [], lsu := ⟨true, true⟩, folds := [], parts := [],
    backing := [], xlats := [], sec := SecSt.reset, boot := BootSt.reset, fmu := FmuSt.reset, sage := SageSt.reset,
    pcie := PcieSt.reset, power := PowerSt.reset, dbg := DebugSt.reset, freeCtr := 0 }

end Sys2Proof.Machine
end

