-- ==== Sys2Proof/Machine/Pages.lean ====
section
/-! DEFINITION. Machine/Pages.lean: register pages, their headers and statistics, the registers that software writes,
interrupts, and what the module sends to the host (R428 to R432, R438 to R453). -/

namespace Sys2Proof.Machine

open Sys2Proof

/-! ### Block types (Table 20.3) -/

def tBOOT : Nat := 0x01
def tID : Nat := 0x02
def tGFE : Nat := 0x03
def tPFDB : Nat := 0x04
def tPFSQ : Nat := 0x05
def tPFCQ : Nat := 0x06
def tTIME : Nat := 0x07
def tSAGE : Nat := 0x08
def tEMIT : Nat := 0x09
def tSEC : Nat := 0x0A
def tPCIE : Nat := 0x0B
def tPOWER : Nat := 0x0C
def tDEBUG : Nat := 0x0D
def tMETER : Nat := 0x0E
def tPART : Nat := 0x10
def tCSQ : Nat := 0x20
def tTXU : Nat := 0x21
def tCORE : Nat := 0x30
def tFEED : Nat := 0x31
def tVEC : Nat := 0x32
def tCBUF : Nat := 0x33
def tSTORE : Nat := 0x40
def tMOVER : Nat := 0x41
def tKPM : Nat := 0x42
def tXLAT : Nat := 0x43
def tNEAR : Nat := 0x44
def tBRIDGE : Nat := 0x45
def tELREN : Nat := 0x50
def tFOLD : Nat := 0x51
def tVFDB : Nat := 0x60
def tVFSQ : Nat := 0x61
def tVFCQ : Nat := 0x62
def tVFSTATUS : Nat := 0x63

/-- The key of a page: its type and unit. -/
def pk (typ unit : Nat) : Nat := typ * 65536 + unit

/-- The key of the page that a command names. -/
def pageKey (p : Page) : Nat := pk p.typ p.unit

/-- The type of a page by its key. -/
def keyTyp (k : Nat) : Nat := k / 65536

/-- The unit of a page by its key. -/
def keyUnit (k : Nat) : Nat := k % 65536

/-- How many pages of a type the module has (Tables 1.1, 20.3, 20.4); 0 for a type that names no page. -/
def pageCount (typ : Nat) : Nat :=
  if 0x01 ≤ typ ∧ typ ≤ 0x0E then 1
  else if typ = tPART ∨ typ = tCSQ ∨ typ = tTXU then 32
  else if 0x30 ≤ typ ∧ typ ≤ 0x33 then 128
  else if 0x40 ≤ typ ∧ typ ≤ 0x43 ∨ typ = tBRIDGE then 8
  else if typ = tNEAR ∨ typ = tELREN ∨ typ = tFOLD then 16
  else if 0x60 ≤ typ ∧ typ ≤ 0x63 then 32
  else 0

/-- The page exists and is no spare page. -/
def pageOk (p : Page) : Bool := decide (p.unit < pageCount p.typ)

/-- The page of PF BAR0 at an offset, by Tables 20.3 and 20.4: the same index names a unit there and everywhere (R18); none at a reserved
offset or in a spare page. -/
def bar0Page (off : Nat) : Option Page :=
  let n := off / 0x1000
  let core := (n - 0x400) / 4
  let tile := (n - 0x800) / 16
  if n = 0x00 then some ⟨tBOOT, 0⟩
  else if n = 0x01 then some ⟨tID, 0⟩
  else if n = 0x10 then some ⟨tGFE, 0⟩
  else if n = 0x11 then some ⟨tPFDB, 0⟩
  else if n = 0x12 then some ⟨tPFSQ, 0⟩
  else if n = 0x13 then some ⟨tPFCQ, 0⟩
  else if n = 0x20 then some ⟨tTIME, 0⟩
  else if n = 0x30 then some ⟨tSAGE, 0⟩
  else if n = 0x40 then some ⟨tEMIT, 0⟩
  else if n = 0x50 then some ⟨tSEC, 0⟩
  else if n = 0x60 then some ⟨tPCIE, 0⟩
  else if n = 0x70 then some ⟨tPOWER, 0⟩
  else if n = 0x80 then some ⟨tDEBUG, 0⟩
  else if n = 0x90 then some ⟨tMETER, 0⟩
  else if 0x100 ≤ n ∧ n < 0x120 then some ⟨tPART, n - 0x100⟩
  else if 0x200 ≤ n ∧ n < 0x280 then (if n % 4 < 2 then some ⟨tCSQ + n % 4, (n - 0x200) / 4⟩ else none)
  else if 0x400 ≤ n ∧ n < 0x600 then some ⟨tCORE + n % 4, core⟩
  else if 0x800 ≤ n ∧ n < 0x880 then
    if n % 16 < 4 then some ⟨tSTORE + n % 16, tile⟩
    else if n % 16 < 6 then some ⟨tNEAR, 2 * tile + (n % 16 - 4)⟩
    else if n % 16 = 6 then some ⟨tBRIDGE, tile⟩
    else none
  else if 0x1000 ≤ n ∧ n < 0x1040 then (if n % 4 < 2 then some ⟨tELREN + n % 4, (n - 0x1000) / 4⟩ else none)
  else none

/-- The page of VF p's BAR0 at an offset (Table 20.5); its windows are no pages. -/
def vfBar0Page (p off : Nat) : Option Page := if off < 0x4000 then some ⟨tVFDB + off / 0x1000, p⟩ else none

/-- The page that a function's access to a space names: the PF's BAR2 is the meter window, whose first 4 KiB is the METER page. -/
def barPage (fn : Fn) (bar : Bar) (off : Nat) : Option Page :=
  match fn, bar with
  | .pf, .bar0 => bar0Page off
  | .pf, .bar2 => if off < 0x1000 then some ⟨tMETER, 0⟩ else none
  | .vf p, .bar0 => vfBar0Page p off
  | _, _ => none

/-- Where a page lies in PF BAR0, or in the BAR0 of its VF (Tables 20.4, 20.5). -/
def pageOffset (p : Page) : Nat :=
  let u := p.unit
  if p.typ = tBOOT then 0 else if p.typ = tID then 0x1000
  else if p.typ = tGFE then 0x10000
  else if tPFDB ≤ p.typ ∧ p.typ ≤ tPFCQ then 0x11000 + (p.typ - tPFDB) * 0x1000
  else if tTIME ≤ p.typ ∧ p.typ ≤ tMETER then 0x20000 + (p.typ - tTIME) * 0x10000
  else if p.typ = tPART then 0x100000 + u * 0x1000
  else if p.typ = tCSQ ∨ p.typ = tTXU then 0x200000 + u * 0x4000 + (p.typ - tCSQ) * 0x1000
  else if tCORE ≤ p.typ ∧ p.typ ≤ tCBUF then 0x400000 + u * 0x4000 + (p.typ - tCORE) * 0x1000
  else if tSTORE ≤ p.typ ∧ p.typ ≤ tXLAT then 0x800000 + u * 0x10000 + (p.typ - tSTORE) * 0x1000
  else if p.typ = tNEAR then 0x800000 + u / 2 * 0x10000 + 0x4000 + u % 2 * 0x1000
  else if p.typ = tBRIDGE then 0x800000 + u * 0x10000 + 0x6000
  else if p.typ = tELREN ∨ p.typ = tFOLD then 0x1000000 + u * 0x4000 + (p.typ - tELREN) * 0x1000
  else (p.typ - tVFDB) * 0x1000

/-- The number of a function: 0 the PF, 1 + p the VF of partition p (PCIE.FAULT_INFO). -/
def fnKey : Fn → Nat
  | .pf => 0
  | .vf p => 1 + p

/-- The function of a number. -/
def keyFn (k : Nat) : Fn := if k = 0 then .pf else .vf (k - 1)

/-- The key of queue `q` of a function. -/
def qKey (fn : Fn) (q : Nat) : Nat := fnKey fn * 64 + q

/-- The doorbell page of a function. -/
def dbPage : Fn → Nat
  | .pf => pk tPFDB 0
  | .vf p => pk tVFDB p

/-- The SQ configuration page of a function. -/
def sqPage : Fn → Nat
  | .pf => pk tPFSQ 0
  | .vf p => pk tVFSQ p

/-- The CQ configuration page of a function. -/
def cqPage : Fn → Nat
  | .pf => pk tPFCQ 0
  | .vf p => pk tVFCQ p

/-- Queue indices of a function: 0 to 15 on the PF, 0 to 63 on a VF (R444, Table 20.12). -/
def qOk (fn : Fn) (q : Nat) : Bool :=
  match fn with
  | .pf => decide (q < 16)
  | .vf p => decide (p < 32) && decide (q < 64)

/-! ### Power and serving state -/

/-- The module is powered and out of PERST_N. -/
def State.up (s : State) : Bool := s.boot.on && !s.boot.perst

/-- BOOT.STATUS.CODE of READY (Table 16.6). -/
def codeReady : Nat := 0x04

/-- Up, booted, and no fatal error: engines run (R362, R420). -/
def State.running (s : State) : Bool := s.up && s.boot.code == codeReady && s.sage.fatal.isNone

/-! ### Headers (R438, R439) -/

/-- The header of a page. -/
def State.hdr (s : State) (k : Nat) : PageHdr := Tbl.get PageHdr.zero s.hdrs k

/-- A header changed. -/
def State.modHdr (s : State) (k : Nat) (f : PageHdr → PageHdr) : State :=
  { s with hdrs := Tbl.set s.hdrs k (f (s.hdr k)) }

/-- One more error; ERR_COUNT stops at its top (Table 20.1). -/
def PageHdr.count (h : PageHdr) : PageHdr :=
  { h with errCount := if h.errCount = 0xFFFFFFFF then h.errCount else h.errCount + 1 }

/-- ERR_FIRST takes the first code since CLR_ERR (Table 20.1). -/
def PageHdr.first (h : PageHdr) (st sub : Nat) : PageHdr :=
  if h.errFirst = 0 then { h with errFirst := pack 32 [⟨15, 0, st⟩, ⟨31, 16, sub⟩] } else h

/-- A write that a register ignores and counts in ERR_COUNT (R440). -/
def State.countErr (s : State) (k : Nat) : State := s.modHdr k PageHdr.count

/-- An error with a status: ERR_COUNT and ERR_FIRST. -/
def State.noteErr (s : State) (k st sub : Nat) : State := s.modHdr k fun h => h.count.first st sub

/-- An engine's progress counter of the page advances by `n` (R400). -/
def State.progress (s : State) (k n : Nat) : State :=
  s.modHdr k fun h => { h with progress := h.progress + BitVec.ofNat 64 n }

/-- The same for engine `e` of a page that has several: its own counter, and the page's sum. -/
def State.progressOf (s : State) (k e n : Nat) : State :=
  { s.progress k n with engProg := Tbl.set s.engProg (k * 8 + e) (Tbl.get 0 s.engProg (k * 8 + e) + BitVec.ofNat 64 n) }

/-! ### Statistics (R51 to R53, R119) -/

/-- A live statistic, by page key and the offset of its latched slot. -/
def State.stat (s : State) (k off : Nat) : W64 := Tbl.get 0 s.live (k * 4096 + off)

/-- A byte or time count that fills its slot. -/
def State.bump64 (s : State) (k off n : Nat) : State :=
  { s with live := Tbl.set s.live (k * 4096 + off) (s.stat k off + BitVec.ofNat 64 n) }

/-- An event counter in the low 32 bits of its slot (R119). -/
def State.bump (s : State) (k off n : Nat) : State :=
  let w := s.stat k off
  { s with live := Tbl.set s.live (k * 4096 + off) (pack 64 [⟨31, 0, bits w 31 0 + n⟩, ⟨63, 32, bits w 63 32⟩]) }

/-- The second event counter of a slot, in bits 63..32 (R119). -/
def State.bumpHi (s : State) (k off n : Nat) : State :=
  let w := s.stat k off
  { s with live := Tbl.set s.live (k * 4096 + off) (pack 64 [⟨31, 0, bits w 31 0⟩, ⟨63, 32, bits w 63 32 + n⟩]) }

/-- Latch and restart the statistics of the pages `p` names; a frozen page keeps what it latched and loses the live
counts (R51, R53). -/
def State.latch (s : State) (p : Nat → Bool) : State :=
  let hit := fun a => p (a / 4096)
  let kept := s.latched.filter fun e => !hit e.1 || (s.hdr (e.1 / 4096)).frozen
  let news := s.live.filter fun e => hit e.1 && !(s.hdr (e.1 / 4096)).frozen
  { s with latched := news.foldl (fun t e => Tbl.set t e.1 e.2) kept,
           live := s.live.filter fun e => !hit e.1 }

/-! ### Registers that software writes (20) -/

/-- Reset value of a register of the file, by page type and offset: the tables' values; 0 where they give 0. -/
def rfReset (typ off : Nat) : W64 :=
  if typ = tSTORE ∧ off = 0x210 then 0x0000025800000001
  else if (typ = tNEAR ∨ typ = tBRIDGE) ∧ off = 0x210 then 0x0001518000000001
  else if typ = tELREN ∧ off = 0x200 then 1
  else if typ = tELREN ∧ off = 0x310 then 3
  else if typ = tELREN ∧ off = 0x318 then 0xFFFF
  else if typ = tPART ∧ off = 0x218 then 1
  else if typ = tSAGE ∧ off = 0x200 then 1
  else if typ = tSAGE ∧ off = 0x208 then 0x3D090
  else if typ = tSAGE ∧ off = 0x210 then 0x186A0
  else if typ = tGFE ∧ off = 0x210 then 64
  else if typ = tTIME ∧ 0x400 ≤ off ∧ off < 0xC00 ∧ off % 0x40 = 0 then 0x0000000300000000
  else if typ = tTIME ∧ 0x400 ≤ off ∧ off < 0xC00 ∧ off % 0x40 = 0x10 then 5
  else if typ = tPOWER ∧ off = 0x210 then 4400
  else if typ = tVFSTATUS ∧ off = 0x240 then 8
  else 0

/-- A register of the file. -/
def State.rg (s : State) (k off : Nat) : W64 := Tbl.get (rfReset (keyTyp k) off) s.rf (k * 4096 + off)

/-- A register of the file, as a number. -/
def State.rgN (s : State) (k off : Nat) : Nat := (s.rg k off).toNat

/-- A register of the file written. -/
def State.setRg (s : State) (k off : Nat) (v : W64) : State := { s with rf := Tbl.set s.rf (k * 4096 + off) v }

/-! ### What the module sends -/

/-- A message sent. -/
def State.send (s : State) (m : Msg) : State := { s with out := s.out ++ [m] }

/-- Bus Master Enable is set and the function is in D0 (R432). -/
def State.bme (s : State) (fn : Fn) : Bool := Tbl.get false s.pcie.bme (fnKey fn)

/-- ATS Enable of a function (R429). -/
def State.atsOn (s : State) (fn : Fn) : Bool := Tbl.get false s.pcie.ats (fnKey fn)

/-- Pages of 4 KiB that an access covers, with their function. -/
def hostPages (fn : Fn) (addr len : Nat) : List (Nat × Nat) :=
  (List.range ((addr % 4096 + max 1 len + 4095) / 4096)).map fun i => (fnKey fn, addr / 4096 + i)

/-- The translation of a host access before it is issued (R429): while ATS is enabled, a request for each page that the cache of 8,192
entries does not hold (Table 19.1); a full cache gives up its oldest entry (log entry 83). -/
def State.translate (s : State) (fn : Fn) (addr len : Nat) : State :=
  if s.atsOn fn then
    let news := (hostPages fn addr len).filter fun p => !s.pcie.atc.contains p
    let l := s.pcie.atc ++ news
    ({ s with pcie := { s.pcie with atc := l.drop (l.length - 8192) } }).bump (pk tPCIE 0) 0x060 news.length
  else s

/-- Bytes read from host memory. -/
def State.hostGet (s : State) (fn : Fn) (addr len : Nat) : State := (s.translate fn addr len).bump64 (pk tPCIE 0) 0x048 len

/-- A write to host memory, with Relaxed Ordering where it is `relaxed`, and never with No Snoop (R424); while the function is no bus
master it waits, in order (R432). -/
def State.hostIssue (s : State) (fn : Fn) (addr : Nat) (data : Bytes) (relaxed : Bool) : State :=
  if s.bme fn then ((s.translate fn addr data.length).bump64 (pk tPCIE 0) 0x040 data.length).send (.hostWrite fn addr data relaxed false)
  else { s with pcie := { s.pcie with owed := s.pcie.owed ++ [(fnKey fn, addr, data, relaxed)] } }

/-- A write that keeps its place in the order of writes: a token record, a CQ entry, a notice, a numeric event entry, a meter record or a
tail (R190, R424). -/
def State.hostWrite (s : State) (fn : Fn) (addr : Nat) (data : Bytes) : State := s.hostIssue fn addr data false

/-- A write faults where the command says so or the host refuses the function's translations, and is detected only while ATS
is enabled (R430, R479). -/
def State.writeFaults (s : State) (fn : Fn) (fault : Bool) : Bool :=
  (fault || Tbl.get false s.pcie.refused (fnKey fn)) && s.atsOn fn

/-- A message of an MSI-X vector: sent, or held in the pending bit while the vector is masked or the function is no
bus master (R427, R432). -/
def State.msix (s : State) (fn : Fn) (vec : Nat) : State :=
  let key := fnKey fn * 4096 + vec
  if Tbl.get false s.pcie.unmasked key && s.bme fn then s.send (.msix fn vec)
  else { s with pcie := { s.pcie with pending := Tbl.set s.pcie.pending key true } }

/-- The interrupt class of a page type (Table 19.3); none for queue and VF pages and spare pages. -/
def irqClass (typ : Nat) : Option Nat :=
  if typ = tBOOT ∨ typ = tID then some 0
  else if typ = tGFE then some 1
  else if typ = tTIME then some 2
  else if typ = tSAGE then some 3
  else if typ = tEMIT then some 4
  else if typ = tSEC then some 5
  else if typ = tPCIE then some 6
  else if typ = tPOWER then some 7
  else if typ = tDEBUG then some 8
  else if typ = tMETER then some 9
  else if typ = tPART then some 10
  else if typ = tCSQ ∨ typ = tTXU then some 11
  else if 0x30 ≤ typ ∧ typ ≤ 0x33 then some 12
  else if 0x40 ≤ typ ∧ typ ≤ 0x45 then some 13
  else if typ = tELREN ∨ typ = tFOLD then some 14
  else none

/-- A class is pending while a page of it has a bit set in both INT_STAT and INT_EN (R428). -/
def State.classPending (s : State) (c : Nat) : Bool :=
  s.hdrs.any fun e => (irqClass (keyTyp e.1) == some c) && ((e.2.intStat &&& e.2.intEn) != 0)

/-- The PF vector of a class: PCIE.IVEC, two 32-bit registers to a 64-bit word of the file's keys. -/
def State.ivec (s : State) (c : Nat) : Nat := bits (s.rg (pk tPCIE 0) (0x210 + 4 * c)) 10 0

/-- A class that goes from not pending to pending sends one message (R428). -/
def State.irqUpdate (s : State) (c : Nat) : State :=
  let now := s.classPending c
  let was := bitOf s.pcie.classPend c
  let s' := { s with pcie := { s.pcie with classPend := if now then setBit s.pcie.classPend c else clrBit s.pcie.classPend c } }
  if now && !was then s'.msix .pf (s'.ivec c) else s'

/-- A page's INT_STAT and INT_EN changed, and its class's message sent where it is due. -/
def State.modIrq (s : State) (k : Nat) (f : PageHdr → PageHdr) : State :=
  match irqClass (keyTyp k) with
  | some c => (s.modHdr k f).irqUpdate c
  | none => s.modHdr k f

/-- The INT_STAT and INT_EN bits that a page has, by its key: the chapters' interrupt tables. The others are reserved, read zero and
ignore writes (R13); a page whose chapter names no interrupt bit has none (log entry 67). -/
def irqMask (k : Nat) : W32 :=
  let t := keyTyp k
  if t = tGFE ∨ t = tTIME ∨ t = tPOWER ∨ t = tFOLD then 0x7
  else if t = tEMIT ∨ t = tCSQ ∨ t = tTXU then 0x1
  else if t = tSAGE ∨ t = tBRIDGE then 0x7F
  else if t = tPCIE then 0xF
  else if t = tMETER ∨ t = tNEAR then 0x3F
  else if t = tKPM then 0x3
  else if t = tELREN then (if keyUnit k = 0 then 0x3F else 0x1F)
  else 0

/-- An interrupt event: its INT_STAT bit is set. -/
def State.raise (s : State) (k bit : Nat) : State := s.modIrq k fun h => { h with intStat := setBit h.intStat bit }

/-- PCIE.FAULT_ADDR and FAULT_INFO record the first failed host access since they were cleared (R430, Table 19.7): `src` 0 GFE,
1 emit gate, 2 FMU, 3 Sage, 4 mailbox. HOST_FAULTS counts writes, and reads with timeouts, in its two halves. A translation that was
asked for and refused is not cached. A completion timeout is an uncorrectable error that the function reports through AER (R435). -/
def State.hostFault (s : State) (fn : Fn) (addr sub src : Nat) : State :=
  let asked := s.atsOn fn && decide (sub ≠ 3) && !s.pcie.atc.contains (fnKey fn, addr / 4096)
  let s0 := (s.bump (pk tPCIE 0) 0x060 (b2n asked)).bumpHi (pk tPCIE 0) 0x058 (b2n (sub == 3))
  let s1 := if sub = 1 then s0.bump (pk tPCIE 0) 0x068 1 else s0.bumpHi (pk tPCIE 0) 0x068 1
  let info : W64 := pack 64 [⟨5, 0, fnKey fn⟩, ⟨9, 8, sub⟩, ⟨14, 12, src⟩, ⟨31, 31, 1⟩]
  let s2 := if bitOf s.pcie.faultInfo 31 then s1
    else { s1 with pcie := { s1.pcie with faultAddr := BitVec.ofNat 64 addr, faultInfo := info } }
  (s2.noteErr (pk tPCIE 0) 0x0061 sub).raise (pk tPCIE 0) 1

/-! ### Ownership -/

/-- A partition. -/
def State.part (s : State) (p : Nat) : PartSt := Tbl.get PartSt.zero s.parts p

/-- A partition changed. -/
def State.modPart (s : State) (p : Nat) (f : PartSt → PartSt) : State :=
  { s with parts := Tbl.set s.parts p (f (s.part p)) }

/-- The partition that owns a cluster (CSQ.PART, TXU.PART, CORE.PART). -/
def State.ownerOf (s : State) (cluster : Nat) : Option Nat :=
  (s.parts.find? fun e => bitOf e.2.clusters cluster).map (·.1)

/-- The cluster of a core, and the tile of a core or cluster: four cores to a cluster, four clusters to a tile (Table 1.2). -/
def coreCluster (core : Nat) : Nat := core / 4
def coreTile (core : Nat) : Nat := core / 16

/-- The partition that owns a core. -/
def State.coreOwner (s : State) (core : Nat) : Option Nat := s.ownerOf (coreCluster core)

/-- The clusters and cores a partition owns. -/
def State.clustersOf (s : State) (p : Nat) : List Nat := setBits (s.part p).clusters.toNat 32
def State.coresOf (s : State) (p : Nat) : List Nat :=
  (s.clustersOf p).flatMap fun c => [4 * c, 4 * c + 1, 4 * c + 2, 4 * c + 3]

/-- Whether a page is a per-partition block of partition `p` (R51): its cluster sequencers, cores with their feeders,
vector units and buffers, and TXUs; and its PART page (R373). -/
def State.pageOf (s : State) (p : Nat) (k : Nat) : Bool :=
  let t := keyTyp k
  if t = tPART then keyUnit k == p
  else if t = tCSQ ∨ t = tTXU then s.ownerOf (keyUnit k) == some p
  else if 0x30 ≤ t ∧ t ≤ 0x33 then s.coreOwner (keyUnit k) == some p
  else false

/-- Whether a page is a shared block (R52): tile blocks, steward-die blocks and Elren ports. -/
def pageShared (k : Nat) : Bool :=
  let t := keyTyp k
  decide (t < 0x10 ∧ t ≠ tMETER) || decide (0x40 ≤ t ∧ t ≤ 0x51)

/-- BLK_ID of a page (R443). -/
def blkId (k : Nat) : Nat := packNat [⟨31, 24, keyTyp k⟩, ⟨23, 8, keyUnit k⟩, ⟨7, 0, 1⟩]

end Sys2Proof.Machine
end

