-- ==== Sys2Proof/Machine/Ops.lean ====
section
/-! DEFINITION. Machine/Ops.lean: the named operations over the state that several meanings share. -/

namespace Sys2Proof.Machine

open Sys2Proof

/-- What a meaning answers. -/
abbrev Out := Host.Outcome State Fault Refusal

/-- The effect where the command's condition holds; else the state as it is (log entry 1). -/
def whenOk (c : Bool) (t s : State) : Out := if c then .next t else .next s

/-- One the step context of partition. -/
def State.ctx (s : State) (k : Nat) : CtxSt := Tbl.get CtxSt.zero s.ctxs k

/-- The same, changed. -/
def State.modCtx (s : State) (k : Nat) (f : CtxSt → CtxSt) : State := { s with ctxs := Tbl.set s.ctxs k (f (s.ctx k)) }

/-- One the coordinator of the context of partition. -/
def State.coord (s : State) (k : Nat) : CoordSt := Tbl.get CoordSt.zero s.coords k

/-- The same, changed. -/
def State.modCoord (s : State) (k : Nat) (f : CoordSt → CoordSt) : State := { s with coords := Tbl.set s.coords k (f (s.coord k)) }

/-- One submission queue, by queue key. -/
def State.sq (s : State) (k : Nat) : SqSt := Tbl.get SqSt.zero s.sqs k

/-- The same, changed. -/
def State.modSq (s : State) (k : Nat) (f : SqSt → SqSt) : State := { s with sqs := Tbl.set s.sqs k (f (s.sq k)) }

/-- One completion queue, by queue key. -/
def State.cq (s : State) (k : Nat) : CqSt := Tbl.get CqSt.zero s.cqs k

/-- The same, changed. -/
def State.modCq (s : State) (k : Nat) (f : CqSt → CqSt) : State := { s with cqs := Tbl.set s.cqs k (f (s.cq k)) }

/-- One numeric event ring of partition. -/
def State.ner (s : State) (k : Nat) : NerSt := Tbl.get NerSt.zero s.ners k

/-- The same, changed. -/
def State.modNer (s : State) (k : Nat) (f : NerSt → NerSt) : State := { s with ners := Tbl.set s.ners k (f (s.ner k)) }

/-- One core. -/
def State.core (s : State) (k : Nat) : CoreSt := Tbl.get CoreSt.zero s.cores k

/-- The same, changed. -/
def State.modCore (s : State) (k : Nat) (f : CoreSt → CoreSt) : State := { s with cores := Tbl.set s.cores k (f (s.core k)) }

/-- One cluster sequencer. -/
def State.seq (s : State) (k : Nat) : SeqSt := Tbl.get SeqSt.zero s.seqs k

/-- The same, changed. -/
def State.modSeq (s : State) (k : Nat) (f : SeqSt → SeqSt) : State := { s with seqs := Tbl.set s.seqs k (f (s.seq k)) }

/-- One store slice. -/
def State.slice (s : State) (k : Nat) : SliceSt := Tbl.get SliceSt.zero s.slices k

/-- The same, changed. -/
def State.modSlice (s : State) (k : Nat) (f : SliceSt → SliceSt) : State := { s with slices := Tbl.set s.slices k (f (s.slice k)) }

/-- One mover of tile. -/
def State.mover (s : State) (k : Nat) : MoverSt := Tbl.get MoverSt.zero s.movers k

/-- The same, changed. -/
def State.modMover (s : State) (k : Nat) (f : MoverSt → MoverSt) : State := { s with movers := Tbl.set s.movers k (f (s.mover k)) }

/-- One tier unit, by its key. -/
def State.tier (s : State) (k : Nat) : TierSt := Tbl.get TierSt.zero s.tiers k

/-- The same, changed. -/
def State.modTier (s : State) (k : Nat) (f : TierSt → TierSt) : State := { s with tiers := Tbl.set s.tiers k (f (s.tier k)) }

/-- One bridge. -/
def State.bridge (s : State) (k : Nat) : BridgeSt := Tbl.get BridgeSt.zero s.bridges k

/-- The same, changed. -/
def State.modBridge (s : State) (k : Nat) (f : BridgeSt → BridgeSt) : State := { s with bridges := Tbl.set s.bridges k (f (s.bridge k)) }

/-- One KPM of tile. -/
def State.kpm (s : State) (k : Nat) : KpmSt := Tbl.get KpmSt.zero s.kpms k

/-- The same, changed. -/
def State.modKpm (s : State) (k : Nat) (f : KpmSt → KpmSt) : State := { s with kpms := Tbl.set s.kpms k (f (s.kpm k)) }

/-- One TXU of cluster. -/
def State.txu (s : State) (k : Nat) : TxuSt := Tbl.get TxuSt.zero s.txus k

/-- The same, changed. -/
def State.modTxu (s : State) (k : Nat) (f : TxuSt → TxuSt) : State := { s with txus := Tbl.set s.txus k (f (s.txu k)) }

/-- DISPATCH records that a stage of a TXU holds. -/
def TStage.held (g : TStage) : Nat :=
  g.early.length + (g.slots.map fun x => x.held.length + ((x.passes.filter fun p => !p.done).map fun p => p.rows.length).sum).sum
/-- DISPATCH records held (TXU.INFLIGHT) and result slots reserved (TXU.RESERVED). -/
def TxuSt.inflight (t : TxuSt) : Nat := (t.stages.map TStage.held).sum
def TxuSt.reserved (t : TxuSt) : Nat := ((t.toks.filter fun w => !w.combined).map (·.k)).sum
/-- Room for `n` more records (R270). -/
def TxuSt.room (t : TxuSt) (n : Nat) : Bool := decide (t.inflight + t.reserved + n ≤ 65536)

/-- One Elren port. -/
def State.port (s : State) (k : Nat) : PortSt := Tbl.get PortSt.zero s.ports k

/-- The same, changed. -/
def State.modPort (s : State) (k : Nat) (f : PortSt → PortSt) : State := { s with ports := Tbl.set s.ports k (f (s.port k)) }

/-- One fold engine. -/
def State.foldE (s : State) (k : Nat) : FoldSt := Tbl.get FoldSt.zero s.folds k

/-- The same, changed. -/
def State.modFoldE (s : State) (k : Nat) (f : FoldSt → FoldSt) : State := { s with folds := Tbl.set s.folds k (f (s.foldE k)) }

/-- One translation unit of tile. -/
def State.xlat (s : State) (k : Nat) : XlatSt := Tbl.get XlatSt.zero s.xlats k

/-- The same, changed. -/
def State.modXlat (s : State) (k : Nat) (f : XlatSt → XlatSt) : State := { s with xlats := Tbl.set s.xlats k (f (s.xlat k)) }

/-- One ownership of a unit or page of memory, by its key. -/
def State.back (s : State) (k : Nat) : Backing := Tbl.get Backing.zero s.backing k

/-- The same, changed. -/
def State.modBack (s : State) (k : Nat) (f : Backing → Backing) : State := { s with backing := Tbl.set s.backing k (f (s.back k)) }

/-- `time` changed. -/
def State.modTime (s : State) (f : TimeSt → TimeSt) : State := { s with time := f s.time }

/-- `gfe` changed. -/
def State.modGfe (s : State) (f : GfeSt → GfeSt) : State := { s with gfe := f s.gfe }

/-- `emit` changed. -/
def State.modEmit (s : State) (f : EmitSt → EmitSt) : State := { s with emit := f s.emit }

/-- `sec` changed. -/
def State.modSec (s : State) (f : SecSt → SecSt) : State := { s with sec := f s.sec }

/-- `boot` changed. -/
def State.modBoot (s : State) (f : BootSt → BootSt) : State := { s with boot := f s.boot }

/-- `fmu` changed. -/
def State.modFmu (s : State) (f : FmuSt → FmuSt) : State := { s with fmu := f s.fmu }

/-- `sage` changed. -/
def State.modSage (s : State) (f : SageSt → SageSt) : State := { s with sage := f s.sage }

/-- `pcie` changed. -/
def State.modPcie (s : State) (f : PcieSt → PcieSt) : State := { s with pcie := f s.pcie }

/-- `power` changed. -/
def State.modPower (s : State) (f : PowerSt → PowerSt) : State := { s with power := f s.power }

/-- `dbg` changed. -/
def State.modDebug (s : State) (f : DebugSt → DebugSt) : State := { s with dbg := f s.dbg }

/-- An event counter of R73 stops at 0xFFFF_FFFF. -/
def satAdd32 (a n : Nat) : Nat := min (a + n) 0xFFFFFFFF

/-- A numeric event counter in the low half of its slot (R73). -/
def State.bumpEv (s : State) (k off n : Nat) : State :=
  if n = 0 then s
  else s.bump k off (satAdd32 (bits (s.stat k off) 31 0) n - bits (s.stat k off) 31 0)

/-- A numeric event counter in the high half of its slot (R73). -/
def State.bumpEvHi (s : State) (k off n : Nat) : State :=
  if n = 0 then s
  else s.bumpHi k off (satAdd32 (bits (s.stat k off) 63 32) n - bits (s.stat k off) 63 32)

/-- House time, ns (R22). -/
def State.now (s : State) : Nat := s.time.now.toNat

/-- A fresh free value of `n` bits, and the state that has taken it (log entry 5). -/
def State.fresh (s : State) (n : Nat) : Nat × State :=
  (Config.freeBits n s.freeCtr % 2 ^ n, { s with freeCtr := s.freeCtr + 1 })

/-- Apply an operation for each element of a list, in order. -/
def State.each {α : Type} (s : State) (l : List α) (f : State → α → State) : State := l.foldl f s

/-! ### Debug events (R451, R466, R471, R473) -/

/-- DBG_ATTN_N keeps the first cause since the last STATUS; later events are counted (Table 21.12). -/
def State.attn (s : State) (cause : Nat) : State :=
  if s.dbg.attn = 0 then s.modDebug fun d => { d with attn := cause } else s.countErr (pk tDEBUG 0)

/-- Entries that the trace region holds: 2 GiB of 32 B (R144, Table 20.16). -/
def traceCap : Nat := 2 ^ 26

/-- A trace entry of an enabled class. The spec gives no layout of its 32 B: they are free (log entry 6). -/
def State.traceAdd (s : State) : State :=
  let full := decide (traceCap ≤ s.dbg.trace.length)
  let wrap := bitOf (s.rg (pk tDEBUG 0) 0x228) 1
  if full && !wrap then s else
    let (v, s') := s.fresh 256
    s'.modDebug fun d => { d with trace := (if full then d.trace.drop 1 else d.trace) ++ [BitVec.ofNat 256 v],
                                  traceCount := d.traceCount + 1 }

/-- A trigger event: one pulse on CADENCE_OUT while it carries the trigger, none within 1 µs of the last (R466). -/
def State.trigger (s : State) : State :=
  if s.time.outTrig then
    if s.time.lastPulse = 0 ∨ s.time.lastPulse + 1000 ≤ s.time.mono + 1 then
      ((s.modTime fun t => { t with lastPulse := t.mono + 1 }).send (.pulse s.time.now)).attn 3
    else s.countErr (pk tDEBUG 0)
  else s

/-- An event of a trace class in a partition (Table 20.16): 8 step edges, 9 launches, 10 numeric events, 11 KPM
operations, 12 resets, 13 Elren link events, 14 debug halts. -/
def State.debugEvent (s : State) (cls p : Nat) : State :=
  let s1 := if s.dbg.traceOn && bitOf (s.rg (pk tDEBUG 0) 0x228) cls then s.traceAdd else s
  let trig := s.rg (pk tDEBUG 0) 0x220
  if bits trig 7 0 = cls ∧ bits trig 12 8 = p then s1.trigger else s1

/-- ALERT_N (R464): asserted in a thermal stage of 90 °C or above, out of the input range, and with a fatal error. ALERT is raised
as it asserts. -/
def State.alertUpdate (s : State) : State :=
  let a := s.power.hot90 || s.power.vinRange || s.sage.fatal.isSome
  let s1 := s.modBoot fun b => { b with alert := a }
  if a && !s.boot.alert && s.up then s1.raise (pk tPOWER 0) 1 else s1

/-- A fatal error (R420, Table 18.8): Sage stops every engine, fences every port, raises FATAL, asserts ALERT_N and starts the
dump, which ends the trace and any staging (R421, R436, Table 21.12); AER reports it (R435). With cause SAGE there is no dump. -/
def State.fatalNow (s : State) (cause : Nat) : State :=
  if s.sage.fatal.isSome then s
  else
    let s1 := s.modSage fun g => { g with fatal := some cause, dumpNone := cause == 5 }
    let s2 := s1.alertUpdate
    let s3 := s2.modDebug fun d => { d with traceOn := false, traceStop := if d.traceOn then 1 else d.traceStop }
    let s4 := if s3.dbg.staging then
        ((s3.modDebug fun d => { d with staging := false }).modPcie fun x => { x with mbxRes := 4 }).modBoot fun b => { b with flash := none }
      else s3
    (s4.bumpHi (pk tPCIE 0) 0x058 1).raise (pk tSAGE 0) 5

/-- `n` bytes that the spec leaves open (log entry 5). -/
def State.freshBytes (s : State) (n : Nat) : Bytes × State :=
  let q := s.fresh (8 * n)
  (leBytes n q.1, q.2)

end Sys2Proof.Machine
end

