-- ==== Sys2Proof/Machine/Cells.lean ====
section
/-! DEFINITION. Machine/Cells.lean: what stored data goes through: addresses of the store and the tiers, their codes, poison, upsets
and failing rows, and reading and writing physical memory and the core buffers (R116, R121, R122, R129, R130, R143 to R147,
R158 to R164). -/

namespace Sys2Proof.Machine

open Sys2Proof

/-! ### Physical addresses (R121, R143) -/

/-- A store physical address. -/
def inStore (a : Nat) : Bool := decide (a < 2 ^ 35)

/-- A tier physical address (Table 7.2). -/
def inTier (a : Nat) : Bool := decide (0x10000000000 ≤ a ∧ a < 0x50000000000)

/-- The slice, and so the tile, of a store physical address. -/
def sliceOf (a : Nat) : Nat := a / 2 ^ 32

/-- The module or shelf rank's bridge of a tier address; none in the near tier (Table 7.2). -/
def bridgeOf (a : Nat) : Option Nat :=
  if 0x20000000000 ≤ a ∧ a < 0x40000000000 then some ((a - 0x20000000000) / 2 ^ 38)
  else if 0x40000000000 ≤ a ∧ a < 0x50000000000 then some ((a - 0x40000000000) / 2 ^ 37)
  else none

/-- Tier units by number: near stacks 0 to 15, module ranks 16 to 23, shelf ranks 24 to 31. -/
def tierKeyOf (pa : Nat) : Nat :=
  if pa < 0x20000000000 then (pa - 0x10000000000) / 2 ^ 36
  else if pa < 0x40000000000 then 16 + (pa - 0x20000000000) / 2 ^ 38
  else 24 + (pa - 0x40000000000) / 2 ^ 37

/-- A unit's number. -/
def unitKey : TierUnit → Nat
  | .near s => s
  | .modRank b => 16 + b
  | .shelf b => 24 + b

/-- The unit exists. -/
def unitOk : TierUnit → Bool
  | .near s => decide (s < 16)
  | .modRank b => decide (b < 8)
  | .shelf b => decide (b < 8)

/-- The tile and page of a tier unit. -/
def tierTile (u : Nat) : Nat := if u < 16 then u / 2 else u % 8
def tierPage (u : Nat) : Nat := if u < 16 then pk tNEAR u else pk tBRIDGE (u % 8)

/-- First tier physical address, bytes, allocation pages, reserved pages and degraded threshold of a unit (Tables 7.2, 7.5). -/
def unitBase (u : Nat) : Nat :=
  if u < 16 then 0x10000000000 + u * 2 ^ 36 else if u < 24 then 0x20000000000 + (u - 16) * 2 ^ 38 else 0x40000000000 + (u - 24) * 2 ^ 37
def unitSize (u : Nat) : Nat := if u < 16 then 2 ^ 36 else if u < 24 then 2 ^ 38 else 2 ^ 37
def unitPages (u : Nat) : Nat := unitSize u / 2 ^ 21
def unitReserved (u : Nat) : Nat := if u < 16 then 64 else 0
def unitDegraded (u : Nat) : Nat := if u < 16 then 328 else if u < 24 then 1311 else 656

/-- The unit whose state holds CE_ADDR, UE_ADDR and LAST_REPAIR of a page: a bridge has one of each for both ranks. -/
def regUnit (u : Nat) : Nat := if u < 24 then u else u - 8

/-! ### Rows and banks of a tier unit (R147) -/

/-- A row of a unit: 2 KiB of one channel. -/
def tierRow (off : Nat) : Nat := off / 2048

/-- Channel, bank group and bank of a stack offset, and the row within the bank. -/
def nearChannel (off : Nat) : Nat := nbits off 13 11 ^^^ nbits off 23 21
def nearGroup (off : Nat) : Nat := nbits off 15 14 ^^^ nbits off 25 24
def nearBank (off : Nat) : Nat := nbits off 17 16 ^^^ nbits off 27 26
def nearRow (off : Nat) : Nat := nbits off 35 18

/-- A bank's number in its stack. -/
def bankKey (off : Nat) : Nat := nearChannel off * 16 + nearGroup off * 4 + nearBank off

/-- The bank group of a row: a near stack's by R147, a bridge rank's as Config says. -/
def rowGroup (u row : Nat) : Nat :=
  if u < 16 then nearChannel (row * 2048) * 4 + nearGroup (row * 2048)
  else Config.rankGroup u row % (if u < 24 then 64 else 32)

/-! ### Poison (R129, R159) -/

/-- Poisoned bytes among `n` at `a`, as offsets from `a`. -/
def State.poisonIn (s : State) (a n : Nat) : List Nat :=
  (s.poison.filter fun w => decide (a < w + 8 ∧ w < a + n)).flatMap fun w =>
    (List.range n).filter fun i => decide (w ≤ a + i ∧ a + i < w + 8)

/-- Poison left after a write of `n` bytes at `a`: a store word clears when the write covers it whole, a tier codeword when
the write covers its 64 B (R129, R159). -/
def poisonAfter (l : List Nat) (a n : Nat) : List Nat :=
  l.filter fun w =>
    if inStore w then !decide (a ≤ w ∧ w + 8 ≤ a + n)
    else !decide (a ≤ w / 64 * 64 ∧ w / 64 * 64 + 64 ≤ a + n)

/-- Words marked poisoned: those of each granule of 64 B that `l` names by an address. -/
def State.poisonGranules (s : State) (l : List Nat) : State :=
  { s with poison := l.foldl (fun q a => (List.range 8).foldl (fun q i =>
      let w := a / 64 * 64 + 8 * i
      if q.contains w then q else q ++ [w]) q) s.poison }

/-- One poisoned word. -/
def State.poisonWord (s : State) (w : Nat) : State :=
  if s.poison.contains w then s else { s with poison := s.poison ++ [w] }

/-! ### Store words (R129, R130) -/

/-- A slice offset in the steward's reserved region (R122). -/
def stewardOff (off : Nat) : Bool := decide (0xFC000000 ≤ off)

/-- What a slice does with the outcome of a read's check of the word at `pa` (R129): a corrected error is counted and its first
address kept, an uncorrectable one poisons the word; in the steward's reserved region it is a fatal error (R130). -/
def State.storeEcc (s : State) (pa : Nat) (e : MemErr) : State :=
  let h := sliceOf pa
  let pg := pk tSTORE h
  let word : W64 := pack 64 [⟨34, 3, pa / 8⟩, ⟨0, 0, 1⟩]
  match e with
  | .clean => s
  | .corr => (s.bump pg 0x068 1).modSlice h fun c => { c with ceAddr := if c.ceAddr = 0 then word else c.ceAddr }
  | .uncorr =>
    let s1 := ((s.bumpHi pg 0x068 1).poisonWord (pa / 8 * 8)).modSlice h fun c =>
      { c with ueAddr := if c.ueAddr = 0 then word else c.ueAddr }
    if stewardOff (pa % 2 ^ 32) then s1.fatalNow 1 else s1

/-- The number of the word of core `k`'s buffer at offset `o`. -/
def cbWord (k o : Nat) : Nat := 2 ^ 40 + k * 2 ^ 20 + o / 8

/-- Upsets of store words that `n` bytes at `a` touch. -/
def State.wordHits (s : State) (a n : Nat) : List (Nat × MemErr) :=
  s.upsets.filter fun e => decide (e.1 < 2 ^ 32 ∧ a < 8 * e.1 + 8 ∧ 8 * e.1 < a + n)

/-- A read meets an upset store word: it is corrected and written back, or poisoned. -/
def State.meetWord (s : State) (e : Nat × MemErr) : State :=
  ({ s with upsets := Tbl.drop s.upsets (· == e.1) }).storeEcc (8 * e.1) e.2

/-! ### Tier codewords (R159 to R164) -/

/-- A row fails (R162, R163): repaired with a spare of its bank group, or, with none left, its page waits for retirement. -/
def State.rowFail (s : State) (u row : Nat) : State :=
  let t := s.tier u
  let g := rowGroup u row
  if t.repairing.contains row || t.retireReq.contains row then s
  else if Tbl.get 0 t.spares g + (t.repairing.filter fun r => rowGroup u r == g).length < 4 then
    s.modTier u fun t => { t with repairing := t.repairing ++ [row] }
  else
    let at_ := unitBase u + 2048 * row
    let gone := t.retired.contains (row / 1024)
    let s1 := (s.modTier u fun t => { t with retireReq := if gone then t.retireReq else t.retireReq ++ [row] }).modTier (regUnit u) fun t =>
      { t with lastRepair := pack 64 [⟨42, 11, at_ / 2048⟩, ⟨1, 0, 2⟩] }
    if gone then s1.raise (tierPage u) 2 else (s1.raise (tierPage u) 2).raise (tierPage u) 3

/-- A correction names a die: the 64th distinct codeword of the pass marks it failed, where the unit has no failed die (R160). -/
def State.nameDie (s : State) (u cw die : Nat) : State :=
  let s1 := s.modTier u fun t => { t with dieHits := if t.dieHits.contains (die, cw) then t.dieHits else t.dieHits ++ [(die, cw)] }
  if (s1.tier u).die.isNone && decide (64 ≤ ((s1.tier u).dieHits.filter fun x => x.1 == die).length) then
    (s1.modTier u fun t => { t with die := some die }).raise (tierPage u) 5
  else s1

/-- What becomes of a codeword in error (R158 to R160). -/
inductive CwRes where
  | clean
  | corrected (dies : List Nat)
  | miscorrected
  | uncorrectable
deriving DecidableEq, Repr

/-- How a unit whose failed die is `die` decodes: two symbols are correctable, or one beside the erasures of a failed die. -/
def cwDecode (die : Option Nat) (e : CwErr) : CwRes :=
  let rest := match die with | some d => e.dies.filter (· != d) | none => e.dies
  if e.dies = [] then .clean
  else if rest.length ≤ (if die.isSome then 1 else 2) then .corrected rest.eraseDups
  else if e.missed then .miscorrected
  else .uncorrectable

/-- A correction is counted and its first address kept (R159). -/
def State.countCorr (s : State) (u off : Nat) : State :=
  let word : W64 := pack 64 [⟨42, 6, (unitBase u + off) / 64⟩, ⟨0, 0, 1⟩]
  (s.bump (tierPage u) (if u < 16 then 0x080 else 0x068) 1).modTier (regUnit u) fun t => { t with ceAddr := if t.ceAddr = 0 then word else t.ceAddr }

/-- What a controller or bridge does with the errors of a codeword it reads (R159, R160). A miscorrected codeword holds open data and
names an open die (log entry 5). -/
def State.tierEcc (s : State) (u off : Nat) (e : CwErr) : State :=
  let pg := tierPage u
  let cw := off / 64
  let word : W64 := pack 64 [⟨42, 6, (unitBase u + off) / 64⟩, ⟨0, 0, 1⟩]
  let s0 := if u < 16 then s.bump pg 0x088 e.inner else s
  match cwDecode (s.tier u).die e with
  | .clean => s0
  | .corrected dies => dies.foldl (fun s d => s.nameDie u cw d) (s0.countCorr u off)
  | .miscorrected =>
    let q := (s0.countCorr u off).freshBytes 64
    let d := q.2.fresh 5
    ({ d.2 with mem := Memory.write d.2.mem (unitBase u + cw * 64) q.1 }).nameDie u cw (d.1 % 18)
  | .uncorrectable =>
    let s1 := (s0.bumpHi pg (if u < 16 then 0x080 else 0x068) 1).modTier (regUnit u) fun t => { t with ueAddr := if t.ueAddr = 0 then word else t.ueAddr }
    ((s1.poisonGranules [unitBase u + cw * 64]).raise pg 0).rowFail u (tierRow off)

/-- Upsets of codewords that `n` bytes at `a` touch. -/
def State.cwHits (s : State) (a n : Nat) : List (Nat × CwErr) :=
  s.cwUpsets.filter fun e => decide (a < 64 * e.1 + 64 ∧ 64 * e.1 < a + n)

/-- A read meets an upset codeword. -/
def State.meetCw (s : State) (e : Nat × CwErr) : State :=
  let u := tierKeyOf (64 * e.1)
  ({ s with cwUpsets := Tbl.drop s.cwUpsets (· == e.1) }).tierEcc u (64 * e.1 - unitBase u) e.2

/-! ### Physical memory -/

/-- A read of `n` bytes at `a` checks every word or codeword it touches. -/
def State.meet (s : State) (a n : Nat) : State :=
  (s.cwHits a n).foldl State.meetCw ((s.wordHits a n).foldl State.meetWord s)

/-- The same of the words and codewords that a write of `n` bytes at `a` covers only in part, which it reads first (R123, R148). -/
def State.meetEdges (s : State) (a n : Nat) : State :=
  ((s.cwHits a n).filter fun e => !decide (a ≤ 64 * e.1 ∧ 64 * e.1 + 64 ≤ a + n)).foldl State.meetCw
    (((s.wordHits a n).filter fun e => !decide (a ≤ 8 * e.1 ∧ 8 * e.1 + 8 ≤ a + n)).foldl State.meetWord s)

/-- Bytes written at a physical address. -/
def State.physWrite (s : State) (a : Nat) (b : Bytes) : State :=
  let s1 := s.meetEdges a b.length
  { s1 with mem := Memory.write s1.mem a b, poison := poisonAfter s1.poison a b.length,
            upsets := s1.upsets.filter fun e => !(s1.wordHits a b.length).contains e,
            cwUpsets := s1.cwUpsets.filter fun e => !(s1.cwHits a b.length).contains e }

/-- Bytes read at a physical address, and the poisoned among them. -/
def State.physRead (s : State) (a n : Nat) : (Bytes × List Nat) × State :=
  let s1 := s.meet a n
  ((Memory.read s1.mem a n, s1.poisonIn a n), s1)

/-- Memory from `a` to `a + n` holds zeros and no error: what a scrub leaves. -/
def State.zeroRange (s : State) (a n : Nat) : State :=
  { s with mem := s.mem.filter (fun c => !decide (a ≤ c.1 ∧ c.1 < a + n)),
           poison := s.poison.filter (fun w => !decide (a ≤ w ∧ w < a + n)),
           upsets := s.upsets.filter (fun e => !(s.wordHits a n).contains e),
           cwUpsets := s.cwUpsets.filter fun e => !(s.cwHits a n).contains e }

/-- The words from `a` to `a + n` that do not read as zero: what a scrub's read-back finds wrong. -/
def State.wrongIn (s : State) (a n : Nat) : List Nat :=
  let s1 := s.meet a n
  (((s1.mem.map (·.1)) ++ s1.poison).filter fun x => decide (a ≤ x ∧ x < a + n)).map (· / 8 * 8) |>.eraseDups

/-- Stored data is struck (log entry 72). A second strike of a word makes its error uncorrectable; a codeword's symbols add up. -/
def State.strike (s : State) (u : Upset) : State :=
  let hit := fun (k : Nat) (e : MemErr) =>
    if e = .clean then s
    else { s with upsets := Tbl.set s.upsets k (if Tbl.get .clean s.upsets k = .clean then e else .uncorr) }
  match u with
  | .store w e => if w < 2 ^ 32 then hit w e else s
  | .core k w e => if k < 128 ∧ w < 2 ^ 20 then hit (2 ^ 40 + k * 2 ^ 20 + w) e else s
  | .tier cw e =>
    if inTier (64 * cw) && (e.dies != [] || e.inner != 0) then
      let o := Tbl.get ⟨[], false, 0⟩ s.cwUpsets cw
      { s with cwUpsets := Tbl.set s.cwUpsets cw ⟨o.dies ++ e.dies, o.missed || e.missed, o.inner + e.inner⟩ }
    else s

/-- The upset of a tick. -/
def State.tickUpset (s : State) : State := match Config.upset s.time.mono with | some u => s.strike u | none => s

/-! ### Core buffers (R116, Table 5.14) -/

/-- Byte `o` of core `k`'s buffer. -/
def cbKey (k o : Nat) : Nat := k * 2 ^ 23 + o

/-- `n` bytes of a core buffer. -/
def State.cbRead (s : State) (k o n : Nat) : Bytes := Memory.read s.cb (cbKey k o) n

/-- Upset words of a core buffer that `n` bytes at `o` touch. -/
def State.cbHits (s : State) (k o n : Nat) : List (Nat × MemErr) :=
  if n = 0 then [] else s.upsets.filter fun e => decide (cbWord k o ≤ e.1 ∧ e.1 ≤ cbWord k (o + n - 1))

/-- A read meets an upset word of a core buffer: a correctable one is corrected, an uncorrectable one stays until it is written. -/
def State.meetCb (s : State) (k : Nat) (e : Nat × MemErr) : State :=
  match e.2 with
  | .clean => s
  | .corr => ({ s with upsets := Tbl.drop s.upsets (· == e.1) }).bump (pk tCBUF k) 0x058 1
  | .uncorr => (s.bumpHi (pk tCBUF k) 0x058 1).modCore k fun c =>
      { c with cbErr := if c.cbErr = 0 then pack 64 [⟨22, 3, e.1 % 2 ^ 20⟩, ⟨0, 0, 1⟩] else c.cbErr }

/-- A read of a core buffer, counted: the bytes, and those among them in words that cannot be corrected. -/
def State.cbGet (s : State) (k o n : Nat) : (Bytes × List Nat) × State :=
  let l := s.cbHits k o n
  let bad := (l.filter fun e => e.2 == .uncorr).flatMap fun e =>
    (List.range n).filter fun i => cbWord k (o + i) == e.1
  ((s.cbRead k o n, bad), (l.foldl (fun s e => s.meetCb k e) s).bump64 (pk tCBUF k) 0x040 n)

/-- Bytes written to a core buffer, counted. A word written whole is good again; one written in part is read first. -/
def State.cbWrite (s : State) (k o : Nat) (b : Bytes) : State :=
  let l := s.cbHits k o b.length
  let part := l.filter fun e => !decide (cbKey k o ≤ 8 * (e.1 - 2 ^ 40) ∧ 8 * (e.1 - 2 ^ 40) + 8 ≤ cbKey k o + b.length)
  let s1 := part.foldl (fun s e => s.meetCb k e) s
  ({ s1 with cb := Memory.write s1.cb (cbKey k o) b,
             upsets := s1.upsets.filter fun e => !(l.contains e && !part.contains e) }).bump64 (pk tCBUF k) 0x048 b.length

/-- The words of a core buffer that hold the bytes `bad` of a write at `o` are left uncorrectable: poisoned data written (R130). -/
def State.cbPoison (s : State) (k o : Nat) (bad : List Nat) : State :=
  bad.foldl (fun s i => { s with upsets := Tbl.set s.upsets (cbWord k (o + i)) .uncorr }) s

end Sys2Proof.Machine
end

