-- ==== Sys2Proof/Machine/Access.lean ====
section
/-! DEFINITION. Machine/Access.lean: physical and virtual access to the store, the tiers and the core buffers: translation,
staged regions, poison, the read cache and tier encryption (R96, R116, R117, R121 to R130, R350 to R355, R474). -/

namespace Sys2Proof.Machine

open Sys2Proof

/-! ### Status codes (Table 10.5) -/

def stTRANSLATION : W16 := 0x0060
def stPLAN : W16 := 0x0070
def stUNCORR : W16 := 0x00A0
def stLINK : W16 := 0x0090
def errXlat (sub : Nat) : Err := ⟨stTRANSLATION, BitVec.ofNat 16 sub⟩
/-- PLAN_INVALID with sub-status RUNTIME, of a record or descriptor that breaks a rule when it runs (Table 9.6). -/
def errRuntime : Err := ⟨stPLAN, 0x000C⟩
/-- UNCORRECTABLE_MEMORY with no tier as its cause. -/
def errUncorr : Err := ⟨stUNCORR, 0⟩
/-- UNCORRECTABLE_MEMORY, TIER_POISON and BRIDGE_DOWN (Table 7.3). -/
def errTierPoison : Err := ⟨stUNCORR, 0x0101⟩
def errBridgeDown : Err := ⟨stUNCORR, 0x0102⟩

/-- An error that ends a record, with the address it was met at. -/
structure Flt where
  err : Err
  addr : Nat
deriving DecidableEq, Repr

/-! ### Counting at the store (Table 6.6) -/

/-- Bytes written to the store by a requester of tile `t`, counted at the slice and the tiles (Table 6.6). -/
def State.storeWrite (s : State) (t a : Nat) (b : Bytes) : State :=
  let h := sliceOf a
  let s1 := ((s.physWrite a b).bump64 (pk tSTORE h) 0x048 b.length).progress (pk tSTORE h) 1
  if h = t then s1 else s1.bump64 (pk tSTORE h) 0x050 b.length

/-- A read of the store by a requester of tile `t`, counted. -/
def State.countRead (s : State) (t a n : Nat) : State :=
  let h := sliceOf a
  let s1 := (s.bump64 (pk tSTORE h) 0x040 n).progress (pk tSTORE h) 1
  if h = t then s1 else (s1.bump64 (pk tSTORE h) 0x050 n).bump64 (pk tSTORE t) 0x058 n

/-- A read of the store that returned poisoned is counted (Table 6.6). -/
def State.countPoison (s : State) (pa : Nat) (bad : List Nat) : State :=
  if bad = [] then s else s.bump (pk tSTORE (sliceOf pa)) 0x070 1

/-- Bytes read from the store by a requester of tile `t`, counted, and the poisoned among them. -/
def State.storeRead (s : State) (t a n : Nat) : (Bytes × List Nat) × State :=
  let r := s.physRead a n
  (r.1, (r.2.countRead t a n).countPoison a r.1.2)

/-! ### Address operands (Table 5.3) -/

/-- SPACE of an address operand. -/
def aoSpace (w : Nat) : Nat := nbits w 63 62
/-- ADDR: 49 bits, or the core buffer offset in [22:0]. -/
def aoAddr (w : Nat) : Nat := if aoSpace w = 2 then nbits w 22 0 else nbits w 48 0
/-- A core buffer operand's [48:23] are zero. -/
def aoOk (w : Nat) : Bool := if aoSpace w = 2 then nbits w 48 23 == 0 else aoSpace w != 3
/-- An operand with no reserved bit set, where a rule refuses one (R238, R261). -/
def aoClean (w : Nat) : Bool := aoOk w && nbits w 61 49 == 0

/-! ### Translation (R350 to R354) -/

/-- What a translation answers: the leaf and the address it gives, or a sub-status of Table 16.3. -/
inductive Xl where
  | ok (l : Leaf) (a : Nat)
  | bad (sub : Nat)
deriving DecidableEq, Repr

/-- The leaf of context `x` of partition `p` that covers an address. -/
def State.leafAt (s : State) (p x va : Nat) : Option Leaf :=
  (s.part p).leaves.find? fun l => decide (l.ctx = x ∧ l.va ≤ va ∧ va < l.va + 2 ^ l.log2)

/-- A translation (R350, Table 16.3): no leaf, or a write through a leaf without W. -/
def State.lookup (s : State) (p x va : Nat) (wr : Bool) : Xl :=
  match s.leafAt p x va with
  | none => .bad 1
  | some l => if wr && !l.w then .bad 2 else .ok l (l.addr + (va - l.va))

/-- What a requester reaches: the store alone (an engine, R96), or the store and the tiers (the mover, R127). -/
inductive Reach where
  | store
  | tiers
deriving DecidableEq, Repr

/-- A translation for a requester: a target it cannot reach is sub-status TARGET (Table 16.3). -/
def State.lookupFor (s : State) (r : Reach) (p x va : Nat) (wr : Bool) : Xl :=
  match s.lookup p x va wr with
  | .ok l a =>
    if l.target = 0 then (if inStore a then .ok l a else .bad 5)
    else if r = .tiers ∧ l.target ≤ 3 then (if inTier a then .ok l a else .bad 5)
    else .bad 3
  | b => b

/-- The first fault of a partition since its last step edge is kept in PART.FAULT. Which unit of the tile it names in
[62:56] has no stated code and is free (log entry 10). -/
def State.noteFault (s : State) (p tile va sub : Nat) : State :=
  let s0 := s.bump (pk tXLAT tile) 0x058 1
  if (s0.part p).faultSet then s0
  else
    let (u, s1) := s0.fresh 7
    let w : W64 := pack 64 [⟨48, 0, va⟩, ⟨55, 52, sub⟩, ⟨62, 56, u⟩, ⟨63, 63, 1⟩]
    s1.modPart p fun q => { q with faultSet := true, fault := w }

/-- `n` bytes from `va` cut at 64 KiB boundaries: no leaf ends inside a piece. -/
def pieces : Nat → Nat → Nat → List (Nat × Nat)
  | 0, _, _ => []
  | f + 1, va, n =>
    if n = 0 then []
    else
      let k := min n (65536 - va % 65536)
      (va, k) :: pieces f (va + k) (n - k)

/-- The same, cut at 64 B granules. -/
def granules : Nat → Nat → Nat → List (Nat × Nat)
  | 0, _, _ => []
  | f + 1, va, n =>
    if n = 0 then []
    else
      let k := min n (64 - va % 64)
      (va, k) :: granules f (va + k) (n - k)

def piecesOf (va n : Nat) : List (Nat × Nat) := pieces (n / 65536 + 2) va n
def granulesOf (va n : Nat) : List (Nat × Nat) := granules (n / 64 + 2) va n

/-! ### Staged regions (R474) -/

/-- Who makes an access: partition, tenant context, the step whose attempt it belongs to (none for an access of no
attempt), the tile and core it comes from, and whether that attempt was discarded since (R118). -/
structure Acc where
  part : Nat
  ctx : Nat
  step : Option Nat
  tile : Nat
  core : Nat
  stale : Bool
deriving DecidableEq, Repr

/-- The plan that a placed launch of a partition's step runs: the version it keeps, else the plan as it stands (R201). -/
def State.planOfStep (s : State) (p step : Nat) : Option Plan :=
  match s.ents.find? fun e => decide (e.part = p ∧ e.step = some step ∧ (e.st = .placed ∨ e.st = .running)) with
  | some e =>
    match s.plans.find? fun q => q.part == p && q.ctx == e.ctx && q.handle == e.planH && q.steps.contains step with
    | some q => some q
    | none => s.plans.find? fun q => q.part == p && q.ctx == e.ctx && q.handle == e.planH && q.steps == []
  | none => none

/-- The staged regions of the step an access belongs to, with the shadow's distance from the region for that step. Of a discarded
attempt, whose launch may have ended, those of every plan of its context. -/
def State.regions (s : State) (a : Acc) : List (StageReg × Nat) :=
  match a.step with
  | none => []
  | some n =>
    if a.stale then
      (s.plans.filter fun q => q.part == a.part && q.ctx == a.ctx).flatMap fun q => q.stages.map fun r => (r, r.shadow)
    else match s.planOfStep a.part n with
    | none => []
    | some q => q.stages.map fun r => (r, r.shadow + n % (1 + q.runAhead) * r.len)

/-- The newest staging of a granule by step `n` or an earlier undecided one (R474). -/
def newestStaged (l : List StagedG) (n g : Nat) : Option StagedG :=
  l.foldl (fun (best : Option StagedG) e =>
    if e.va = g ∧ e.step ≤ n ∧ (match best with | some b => decide (b.step ≤ e.step) | none => true) = true then some e else best) none

/-- The staging that an access reads at a granule; none of an access of no attempt, or of a discarded one, which read the committed
contents. -/
def State.stagedFor (s : State) (a : Acc) (g : Nat) : Option StagedG :=
  match a.step with
  | none => none
  | some n => if a.stale then none else newestStaged (s.ctx a.part).staged n g

/-- Where a granule is read: its newest staging, else the committed contents (R474). -/
def State.readGran (s : State) (a : Acc) (g : Nat) : Nat := (s.stagedFor a g).elim g (·.shadow)

/-- Where a granule is written: its step's shadow where a region holds it. -/
def shadowGran (regs : List (StageReg × Nat)) (g : Nat) : Option Nat :=
  (regs.find? fun r => decide (r.1.base ≤ g ∧ g < r.1.base + r.1.len)).map fun r => r.2 + (g - r.1.base)

/-! ### Reads -/

/-- What a read answers: the bytes, the offsets at which they are poisoned, and the error of a failed translation. -/
structure RdRes where
  data : Bytes
  bad : List Nat
  err : Option Flt
deriving DecidableEq, Repr

def RdRes.fail (e : Flt) : RdRes := ⟨[], [], some e⟩

/-- The bridge port encrypts, or decrypts, a partition's bytes at a virtual address (R355). -/
def State.portCipher (s : State) (p va : Nat) (b : Bytes) : Bytes :=
  let key := Tbl.get 0 s.sec.tierKeys p
  (b.zipIdx).map fun x => x.1 ^^^ Config.xtsMask key ((va + x.2) / 32) ((va + x.2) % 32)

/-- A leaf's accesses pass the bridge port's encryption (R355). -/
def State.enciphers (s : State) (p : Nat) (l : Leaf) : Bool := (l.target == 2 || l.target == 3) && (s.part p).tierEnc

/-- The bytes a partition reads at a translated address: decrypted where the bridge port encrypts (R355). -/
def State.plainAt (s : State) (p : Nat) (l : Leaf) (a va n : Nat) : Bytes :=
  let raw := Memory.read s.mem a n
  if s.enciphers p l then s.portCipher p va raw else raw

/-- The address lies behind a bridge whose link is down (R152). -/
def State.bridgeDownAt (s : State) (pa : Nat) : Bool :=
  match bridgeOf pa with
  | some b => !(s.bridge b).linkUp
  | none => false

/-- One piece, without the read cache. A bridge port whose link is down answers the read as poisoned (R152). -/
def State.readPiece (s : State) (r : Reach) (a : Acc) (va n : Nat) : RdRes × State :=
  match s.lookupFor r a.part a.ctx va false with
  | .bad sub => (RdRes.fail ⟨errXlat sub, va⟩, s.noteFault a.part a.tile va sub)
  | .ok l pa =>
    if inStore pa then
      let q := s.storeRead a.tile pa n
      (⟨q.1.1, q.1.2, none⟩, q.2)
    else if s.bridgeDownAt pa then (⟨s.plainAt a.part l pa va n, List.range n, none⟩, s)
    else
      let s1 := s.meet pa n
      (⟨s1.plainAt a.part l pa va n, s1.poisonIn pa n, none⟩, s1)

/-- A line of the read cache: 256 B by its store physical address. -/
def rcFind (c : CoreSt) (line : Nat) : Option Bytes := (c.rc.find? fun e => e.1 == line).map (·.2)

/-- Lines that a core's read cache holds: 256 KiB of 256 B (R117). -/
def rcLines : Nat := 1024

/-- One line through a core's read cache: a hit answers the cached bytes; a miss allocates, the oldest line making room
(log entry 11). -/
def State.readLine (s : State) (k tile line : Nat) : Bytes × State :=
  match rcFind (s.core k) line with
  | some b => (b, s.bump (pk tCBUF k) 0x060 1)
  | none =>
    let b := Memory.read s.mem line 256
    let s1 := (s.countRead tile line 256).bump (pk tCBUF k) 0x068 1
    (b, s1.modCore k fun c => { c with rc := (if rcLines ≤ c.rc.length then c.rc.drop 1 else c.rc) ++ [(line, b)] })

/-- `n` bytes within one line at a store physical address, through the cache. A miss checks the line at the store; a line that holds
poison is not cached. -/
def State.readCachedIn (s : State) (k tile pa n : Nat) : RdRes × State :=
  let line := pa / 256 * 256
  let s0 := if (rcFind (s.core k) line).isSome then s else s.meet line 256
  if (rcFind (s.core k) line).isSome || s0.poisonIn line 256 == [] then
    let r := s0.readLine k tile line
    (⟨(r.1.drop (pa - line)).take n, [], none⟩, r.2)
  else
    let q := s0.storeRead tile pa n
    (⟨q.1.1, q.1.2, none⟩, q.2)

/-- Pieces of a range cut at 256 B lines. -/
def lines : Nat → Nat → Nat → List (Nat × Nat)
  | 0, _, _ => []
  | f + 1, va, n =>
    if n = 0 then []
    else
      let k := min n (256 - va % 256)
      (va, k) :: lines f (va + k) (n - k)

/-- One piece through the read cache of the core (R117). -/
def State.readPieceCached (s : State) (a : Acc) (va n : Nat) : RdRes × State :=
  match s.lookupFor .store a.part a.ctx va false with
  | .bad sub => (RdRes.fail ⟨errXlat sub, va⟩, s.noteFault a.part a.tile va sub)
  | .ok _ pa =>
    (lines (n / 256 + 2) pa n).foldl (fun r x =>
      let q := r.2.readCachedIn a.core a.tile x.1 x.2
      (⟨r.1.data ++ q.1.data, r.1.bad ++ q.1.bad.map (· + (x.1 - pa)), none⟩, q.2)) (⟨[], [], none⟩, s)

/-- Join a piece's answer to what came before; the first error stands. -/
def RdRes.join (a b : RdRes) : RdRes :=
  if a.err.isSome then a else ⟨a.data ++ b.data, a.bad ++ b.bad.map (· + a.data.length), b.err⟩

/-- Bytes of `y` at `yva` laid over bytes `b` at `va`. -/
def layOver (va : Nat) (b : Bytes) (yva : Nat) (y : Bytes) : Bytes :=
  if va < yva + y.length ∧ yva < va + b.length then
    (b.zipIdx).map fun x => if yva ≤ va + x.2 ∧ va + x.2 < yva + y.length then (y[va + x.2 - yva]?).getD x.1 else x.1
  else b

/-- What an attempt sees over `b`: results that fold engines and TXUs hold for its step and for earlier undecided ones from `from_`
on, newest last (R269, R332). -/
def State.overlay (s : State) (a : Acc) (from_ va : Nat) (b : Bytes) : Bytes :=
  match a.step with
  | none => b
  | some n =>
    let x := s.ctx a.part
    if x.heldOut = [] ∨ a.stale = true then b
    else (List.range 3).foldl (fun b i =>
      (x.heldOut.filter fun y => decide (y.step = x.cur + i ∧ from_ ≤ y.step ∧ y.step ≤ n)).foldl (fun b y => layOver va b y.va y.data) b) b

/-- A write of an attempt over results held for its own step changes what is held. -/
def State.overStaged (s : State) (a : Acc) (va : Nat) (b : Bytes) : State :=
  match a.step with
  | none => s
  | some n =>
    if (s.ctx a.part).heldOut = [] ∨ a.stale = true then s
    else s.modCtx a.part fun x => { x with heldOut := x.heldOut.map fun (y : HeldOut) =>
      if y.step = n then { y with data := layOver y.va y.data va b } else y }

/-- Bytes within one granule, where R474 says: the newest staging of it, with what is held for that step and later ones over it. -/
def State.readOne (s : State) (r : Reach) (cached : Bool) (a : Acc) (va n : Nat) : RdRes × State :=
  let g := va / 64 * 64
  let st := s.stagedFor a g
  let at_ := st.elim va fun e => e.shadow + (va - g)
  let q := if cached then s.readPieceCached a at_ n else s.readPiece r a at_ n
  ({ q.1 with data := q.2.overlay a (st.elim 0 (·.step)) va q.1.data }, q.2)

/-- An access may see undecided steps: it is of an attempt, and something is staged or held. -/
def State.sees (s : State) (a : Acc) : Bool :=
  a.step.isSome && !a.stale && !((s.ctx a.part).staged.isEmpty && (s.ctx a.part).heldOut.isEmpty)

/-- A read of `n` bytes at a partition virtual address. Within an attempt that has staged or holds anything, granule by granule. -/
def State.readVa (s : State) (r : Reach) (cached : Bool) (a : Acc) (va n : Nat) : RdRes × State :=
  if s.sees a then
    (granulesOf va n).foldl (fun acc x =>
      if acc.1.err.isSome then acc
      else
        let q := acc.2.readOne r cached a x.1 x.2
        (acc.1.join q.1, q.2)) ((⟨[], [], none⟩ : RdRes), s)
  else
    (piecesOf va n).foldl (fun acc x =>
      if acc.1.err.isSome then acc
      else
        let q := if cached then acc.2.readPieceCached a x.1 x.2 else acc.2.readPiece r a x.1 x.2
        (acc.1.join q.1, q.2)) ((⟨[], [], none⟩ : RdRes), s)

/-! ### Writes -/

/-- A write by a core updates a matching line of its own read cache (R117). -/
def State.rcUpdate (s : State) (k pa : Nat) (b : Bytes) : State :=
  if (s.core k).rc = [] then s
  else s.modCore k fun c => { c with rc := c.rc.map fun e =>
    if e.1 < pa + b.length ∧ pa < e.1 + 256 then
      (e.1, (e.2.zipIdx).map fun x => if pa ≤ e.1 + x.2 ∧ e.1 + x.2 < pa + b.length then (b[e.1 + x.2 - pa]?).getD x.1 else x.1)
    else e }

/-- One piece written at a translated address: encrypted where the bridge port encrypts (R355). -/
def State.putAt (s : State) (a : Acc) (own : Bool) (l : Leaf) (pa va : Nat) (b : Bytes) : State :=
  if l.target = 0 then
    let s1 := s.storeWrite a.tile pa b
    if own then s1.rcUpdate a.core pa b else s1
  else if s.enciphers a.part l then s.physWrite pa (s.portCipher a.part va b)
  else s.physWrite pa b

/-- One piece written; `own` for a core's own write. With the bridge link down the write fails and leaves its destination
unknown (R152). -/
def State.writePiece (s : State) (r : Reach) (own : Bool) (a : Acc) (va : Nat) (b : Bytes) : Option Flt × State :=
  match s.lookupFor r a.part a.ctx va true with
  | .bad sub => (some ⟨errXlat sub, va⟩, s.noteFault a.part a.tile va sub)
  | .ok l pa =>
    if s.bridgeDownAt pa then
      let q := s.freshBytes b.length
      (some ⟨errBridgeDown, va⟩, q.2.putAt a own l pa va q.1)
    else (none, s.putAt a own l pa va b)

/-- The words of `va` on that hold the bytes `bad` are marked poisoned in the store (R130). -/
def State.poisonVa (s : State) (a : Acc) (va : Nat) (bad : List Nat) : State :=
  bad.foldl (fun s i => match s.lookupFor .store a.part a.ctx (va + i) true with
    | .ok _ pa => s.poisonWord (pa / 8 * 8)
    | .bad _ => s) s

/-- A granule of a region staged whole: the bytes not written are as a read at this moment returns them (R474). -/
def State.stageGran (s : State) (own : Bool) (a : Acc) (g sh off : Nat) (b : Bytes) : Option Flt × State :=
  let q := s.readOne .store false a g 64
  match q.1.err with
  | some e => (some e, q.2)
  | none =>
    let whole := q.1.data.take off ++ b ++ q.1.data.drop (off + b.length)
    let w := q.2.writePiece .store own a sh whole
    match w.1 with
    | some e => (some e, w.2)
    | none =>
      let n := a.step.getD 0
      let old := (w.2.ctx a.part).staged
      let new := if old.any (fun e => e.step == n && e.va == g) then old else old ++ [⟨n, g, sh⟩]
      (none, (w.2.modCtx a.part fun c => { c with staged := new }).poisonVa a sh (q.1.bad.filter fun i => i < off || off + b.length ≤ i))

/-- A write at a partition virtual address. Writes of an attempt to a staged region land in the step's shadow (R474); those of a
discarded attempt are dropped there (R118). -/
def State.writeVa (s : State) (r : Reach) (own : Bool) (a : Acc) (va : Nat) (b : Bytes) : Option Flt × State :=
  let regs := s.regions a
  let hit := regs.any fun x => decide (x.1.base < va + b.length ∧ va < x.1.base + x.1.len)
  let ps := if hit then granulesOf va b.length else piecesOf va b.length
  let s := s.overStaged a va b
  ps.foldl (fun acc x =>
    if acc.1.isSome then acc
    else
      let d := (b.drop (x.1 - va)).take x.2
      match shadowGran regs (x.1 / 64 * 64) with
      | some sh => if a.stale then acc else acc.2.stageGran own a (x.1 / 64 * 64) sh (x.1 % 64) d
      | none => acc.2.writePiece r own a x.1 d) (none, s)

/-! ### Address operands of an engine (R96) -/

/-- An engine's read at an address operand: the store or its own core's buffer. -/
def State.readOp (s : State) (cached : Bool) (a : Acc) (ao off n : Nat) : RdRes × State :=
  if aoSpace ao = 1 then s.readVa .store cached a (nbits (aoAddr ao + off) 48 0) n
  else if aoSpace ao = 2 ∧ aoAddr ao + off + n ≤ 2 ^ 23 then
    let q := s.cbGet a.core (aoAddr ao + off) n
    (⟨q.1.1, q.1.2, none⟩, q.2)
  else (RdRes.fail ⟨errRuntime, aoAddr ao + off⟩, s)

/-- An engine's write at an address operand. -/
def State.writeOp (s : State) (a : Acc) (ao off : Nat) (b : Bytes) : Option Flt × State :=
  if aoSpace ao = 1 then s.writeVa .store true a (nbits (aoAddr ao + off) 48 0) b
  else if aoSpace ao = 2 ∧ aoAddr ao + off + b.length ≤ 2 ^ 23 then (none, s.cbWrite a.core (aoAddr ao + off) b)
  else (some ⟨errRuntime, aoAddr ao + off⟩, s)

/-- A read that an engine may use: poison is UNCORRECTABLE_MEMORY (R130). -/
def RdRes.use (r : RdRes) (addr : Nat) : Except Flt Bytes :=
  match r.err with
  | some e => .error e
  | none =>
    match r.bad with
    | [] => .ok r.data
    | o :: _ => .error ⟨errUncorr, addr + o⟩

end Sys2Proof.Machine
end

