-- ==== Sys2Proof/Machine/Link.lean ====
section
/-! DEFINITION. Machine/Link.lean: how the module sends on Elren: ports up, routes, flits, credits and remote requests
(R299 to R309, R313, R315). -/

namespace Sys2Proof.Machine

open Sys2Proof

/-- The key of a port's ELREN page. -/
def pgEl (e : Nat) : Nat := pk tELREN e

/-- ELREN.MODULE_ID, in port 0's page. -/
def State.moduleId (s : State) : W16 := BitVec.ofNat 16 (bits (s.rg (pgEl 0) 0x318) 15 0)

/-- A port is up (R312). -/
def State.portUp (s : State) (e : Nat) : Bool := (s.port e).st == .up

/-- A port is fenced: ELREN.CTRL.FENCE, the module out of service, or a fatal error (R315, R420). -/
def State.portFenced (s : State) (e : Nat) : Bool := bitOf (s.rg (pgEl e) 0x200) 1 || s.sage.oos || s.sage.fatal.isSome

/-- The flow counter of a partition's lane, or of the link key on lane 3 (R306). -/
def flowKey (part lane : Nat) : Nat := if lane = 3 then 128 else part * 4 + lane

/-- The port takes messages of a lane: it is up, and where it is fenced only those of lanes 1 and 3 (R315). -/
def State.canTx (s : State) (e lane : Nat) : Bool := s.portUp e && (lane == 1 || lane == 3 || !s.portFenced e)

/-- Flits that wait on a lane. -/
def PortSt.lane (p : PortSt) (l : Nat) : List TxFlit := Tbl.get [] p.txq l

/-- A lane can send its oldest flit now (R300, R301, R302, R306, R315): it holds one and a credit, and the replay buffer and the
flow counter have room. -/
def State.laneReady (s : State) (e l : Nat) : Bool :=
  let p := s.port e
  match p.lane l with
  | [] => false
  | f :: _ => s.canTx e l && decide (0 < Tbl.get 0 p.credits l) && decide (p.replay.length < 4096)
      && decide ((Tbl.get 0 p.fctr (flowKey f.own l)).toNat + 1 < 2 ^ 64)

/-- The lane whose turn it is (R302): lane 3 before all others, lanes 0 to 2 round robin after the one that sent last. -/
def State.nextLane (s : State) (e : Nat) : Option Nat :=
  if s.laneReady e 3 then some 3 else ((List.range 3).map fun i => ((s.port e).lastLane + 1 + i) % 3).find? fun l => s.laneReady e l

/-- Byte 6 of a lane 3 message: its type (R311). -/
def msgType (m : Msg32) : Nat := byteFld m 6 1

/-- The port writes T_SEND into a time beacon or reply as it sends it (R311). -/
def State.stamped (s : State) : Msg → Msg
  | .lane3 e m =>
    if msgType m = 0x20 ∨ msgType m = 0x21 then .lane3 e (BitVec.ofNat 256 (m.toNat - byteFld m 8 8 <<< 64 + s.time.now.toNat <<< 64))
    else .lane3 e m
  | m => m

/-- What a flit carries in clear: a lane 3 message, at the start of its payload (R305, R311). -/
def clearPart : Option Msg → Option Nat
  | some (.lane3 _ m) => some m.toNat
  | _ => none

/-- One flit put on the fibre (Table 14.2): its header as the tables give it; a lane 3 message in clear; the rest of its payload, its
tag, its CRC, and the kind of a flit that Table 15.3 does not name, free (log entry 18). It takes a credit, a flow counter value of the
partition that sends it and a place in the replay buffer, and returns the credits owed for one lane. -/
def State.txFlit (s : State) (e l : Nat) (x : TxFlit) : State :=
  let p := s.port e
  let q := s.fresh 1862
  let clear := (clearPart (x.msg.map s.stamped)).getD (nbits q.1 255 0)
  let owed := p.owed.find? fun y => decide (0 < y.2)
  let back := match owed with | some y => min y.2 1023 | none => 0
  let lc := match owed with | some y => y.1 | none => 0
  let k := flowKey x.own l
  let f : Flit := pack 2048 [⟨2047, 448, nbits q.1 1855 256⟩, ⟨447, 192, clear⟩, ⟨39, 34, x.kind.getD (nbits q.1 1861 1856)⟩, bfld 0 2 x.dst, bfld 2 2 p.ownId.toNat, ⟨33, 32, l⟩, ⟨44, 40, x.dpart⟩,
    ⟨45, 45, b2n (l != 3)⟩, bfld 6 1 x.gen, ⟨59, 56, e⟩, bfld 8 8 (Tbl.get 0 p.fctr k).toNat,
    bfld 16 4 p.txSeq.toNat, ⟨179, 160, (p.rxSeq - 1).toNat⟩, ⟨181, 180, lc⟩, ⟨191, 182, back⟩]
  ((q.2.bump (pgEl e) (0x040 + 8 * l) 1).progress (pgEl e) 1).modPort e fun p =>
    { p with txSeq := p.txSeq + 1, replay := p.replay ++ [⟨x.own, x.msg, f⟩], fctr := Tbl.set p.fctr k (Tbl.get 0 p.fctr k + 1),
             credits := Tbl.set p.credits l (Tbl.get 0 p.credits l - 1), owed := Tbl.set p.owed lc (Tbl.get 0 p.owed lc - back),
             txq := Tbl.set p.txq l ((p.lane l).drop 1), lastLane := if l = 3 then p.lastLane else l }

/-- Flits sent while a lane can send one, at most `n`. -/
def State.pumpN (s : State) (e : Nat) : Nat → State
  | 0 => s
  | n + 1 =>
    match s.nextLane e with
    | none => s
    | some l =>
      match (s.port e).lane l with
      | [] => s
      | x :: _ =>
        let s1 := s.txFlit e l x
        (match x.msg with | some m => s1.send (s1.stamped m) | none => s1).pumpN e n

/-- A port sends what its lanes hold, as far as credits, the replay buffer and its fence allow (R302). -/
def State.pumpPort (s : State) (e : Nat) : State := s.pumpN e ((s.port e).txq.map fun x => x.2.length).sum

/-- `n` flits of a message put on their lane of a port that is up, the last with the message; `kind` is the first flit's kind, and a
second one of a fold block adds 0x20 to it (Table 15.3). A time beacon goes before every other message that
waits on lane 3 (R302). -/
def State.enqueue (s : State) (e l dst dpart own gen n : Nat) (kind : Option Nat) (m : Msg) : State :=
  let fs : List TxFlit := (List.range n).map fun i => ⟨dst, dpart, own, gen, kind.map (· + if i = 0 then 0 else 0x20), if i + 1 = n then some m else none⟩
  let beacon : Msg → Bool := fun m => match m with | .lane3 _ w => msgType w == 0x20 | _ => false
  if !s.portUp e then s else
  (s.modPort e fun p =>
    let q := p.lane l
    let k := if beacon m then (q.takeWhile fun x => x.msg.any beacon).length else q.length
    { p with txq := Tbl.set p.txq l (q.take k ++ fs ++ q.drop k) }).pumpPort e

/-- Flits that a message of `n` bytes takes: 212 B of payload each, one at least. -/
def flitsFor (n : Nat) : Nat := max 1 ((n + 211) / 212)

/-- A message of lane 3 on a port (R311); nothing where the port is not up. -/
def State.sendLane3 (s : State) (e : Nat) (m : Msg32) : State :=
  if s.canTx e 3 then s.enqueue e 3 (s.port e).peer.toNat 0 0 0 1 none (.lane3 e m) else s

/-- Each ns of the clock (2 store clocks), a port on which the oldest flit of a lane lacks a credit counts CREDIT_STALL (Table 14.8). -/
def State.tickPorts (s : State) : State :=
  s.each (Tbl.keys s.ports) fun s e =>
    let p := s.port e
    if s.portUp e && p.txq.any fun x => !x.2.isEmpty && s.canTx e x.1 && Tbl.get 0 p.credits x.1 == 0 then s.bump (pgEl e) 0x0A8 2
    else s.pumpPort e

/-- The mask of ports that reach a module: its entry of the route table (R309). -/
def State.routeMask (s : State) (dst : Nat) : Nat :=
  Memory.num s.mem (64 * bits (s.rg (pgEl 0) 0x300) 34 6 + 2 * dst) 2

/-- The port a request takes: among the ports of the mask that are up and not fenced, by a fixed function of DST, DPART and
lane (R309). -/
def State.routePort (s : State) (dst dpart lane : Nat) : Option Nat :=
  let l := (setBits (s.routeMask dst) 16).filter fun e => s.portUp e && !s.portFenced e
  if l = [] then none else l[Config.routePick dst dpart lane l.length % l.length]?

/-- LINK_PEER_LOST (Table 10.5) with a sub-status of Table 14.6. -/
def errLost (sub : Nat) : Err := ⟨0x0090, BitVec.ofNat 16 sub⟩

/-- A request completed with LINK_PEER_LOST at a port: counted, the first since the step edge kept in LOST_PEER, NOREACH raised
(Tables 14.7, 14.8). -/
def State.peerLost (s : State) (e : Nat) (dst : W16) (sub : Nat) : State :=
  let s1 := (s.bump (pgEl e) 0x0A0 1).modPort e fun p =>
    if p.lostSet then p else { p with lostSet := true, lostPeer := pack 64 [⟨15, 0, dst.toNat⟩, ⟨31, 16, sub⟩] }
  if sub = 2 then s1.raise (pgEl e) 4 else s1

/-- What becomes of a request. -/
inductive ReqRes where
  | sent
  | lost (e : Err)
deriving DecidableEq, Repr

/-- A remote request (R187, R299, R303, R309): handed to the port its route gives, whose lane 0 sends it as credit allows, or
completed at once with NOREACH, which no port carries and port 0 counts (log entry 18). -/
def State.request (s : State) (who : Src) (pipe : Nat) (isRead half : Bool) (put part : Nat) (dst : W16) (op : RemOp) :
    ReqRes × State :=
  let dpart := Config.destPart (bits (s.rg (pk tTIME 0) (0x400 + 0x40 * part)) 15 0) dst.toNat % 32
  match s.routePort dst.toNat dpart 0 with
  | none => (.lost (errLost 2), s.peerLost 0 dst 2)
  | some e =>
    let n := match op with | .write _ d _ => flitsFor d.length | _ => 1
    let gen := (s.part part).gen
    let tag := (s.port e).nextTag
    let s1 := s.modPort e fun p =>
      { p with nextTag := tag + 1, outReqs := p.outReqs ++ [⟨tag, part, gen, dst, who, pipe, isRead, half, put,
          match op with | .atom _ fn b c => some (fn, b, c) | _ => none⟩] }
    (.sent, s1.enqueue e 0 dst.toNat dpart part gen.toNat n none (.req e dst ⟨dpart, gen, s.moduleId, tag, true⟩ op))

end Sys2Proof.Machine
end

