-- ==== Sys2Proof/Machine/Requests.lean ====
section
/-! DEFINITION. Machine/Requests.lean: requests of movers at the tier units: credit, streams, service and answers (R148 to R157, R166,
R168, R227), and the retirement of a page (R164). -/

namespace Sys2Proof.Machine

open Sys2Proof

/-! ### Credit (R149, R155, R227) -/

/-- Aligned 64 B granules that `n` bytes at `a` touch. -/
def granuleCount (a n : Nat) : Nat := if n = 0 then 0 else (a + n - 1) / 64 - a / 64 + 1

/-- 64 B requests of a request. -/
def TReq.cost (r : TReq) : Nat := granuleCount r.off r.len

/-- Tier requests of a tile's mover that have not been answered to it, in requests of 64 B. -/
def State.tierLoad (s : State) (t : Nat) : Nat :=
  (s.tiers.map fun e => ((e.2.reqs.filter fun r => r.tile == t).map TReq.cost).sum).sum + ((s.mover t).replies.map (·.cost)).sum

/-- Reads that a near controller has accepted and not answered (R149). -/
def State.readsAt (s : State) (u : Nat) : Nat := ((s.tier u).reqs.filter fun r => r.wr.isNone).length

/-- Crumb accesses outstanding at a bridge (R155). -/
def State.crumbsAt (s : State) (b : Nat) : Nat :=
  ((s.tier (16 + b)).reqs.filter (·.crumb)).length + ((s.tier (24 + b)).reqs.filter (·.crumb)).length

/-- A unit has credit for a request. Each of the eight tiles keeps to 16,384 requests of 64 B, so the module keeps to 131,072. -/
def State.tierCredit (s : State) (u : Nat) (r : TReq) : Bool :=
  decide (s.tierLoad r.tile + r.cost ≤ 16384) && (!r.crumb || decide (s.crumbsAt (u % 8) < 4096))
    && (r.wr.isSome || decide (16 ≤ u) || decide (s.readsAt u < 2048))

/-! ### Counting (Tables 7.8, 7.9) -/

/-- Bytes that whole 256 B bursts move for `n` bytes at `a` (R148). -/
def burstBytes (a n : Nat) : Nat := if n = 0 then 0 else ((a + n - 1) / 256 - a / 256 + 1) * 256

/-- Codewords that a write covers only in part (R148). -/
def partialCw (a n : Nat) : Nat :=
  if n = 0 then 0
  else if a / 64 = (a + n - 1) / 64 then (if a % 64 = 0 ∧ n = 64 then 0 else 1)
  else (if a % 64 = 0 then 0 else 1) + (if (a + n) % 64 = 0 then 0 else 1)

/-- A burst request counted: whole bursts, and a read burst for a write that covers codewords in part. -/
def State.countBurst (s : State) (u off n : Nat) (wr remote : Bool) : State :=
  let pg := tierPage u
  let b := burstBytes off n
  let extra := if wr && partialCw off n != 0 then b else 0
  if u < 16 then
    let s1 := (if wr then (s.bump64 pg 0x048 b).bump64 pg 0x040 extra else s.bump64 pg 0x040 b).bump64 pg 0x050 n
    let s2 := if wr then s1.bump pg 0x058 (partialCw off n) else s1
    if remote then s2.bump pg 0x078 1 else s2
  else if u < 24 then (if wr then (s.bump64 pg 0x048 b).bump64 pg 0x040 extra else s.bump64 pg 0x040 b)
  else (if wr then (s.bump64 pg 0x058 b).bump64 pg 0x050 extra else s.bump64 pg 0x050 b)

/-- A burst of a near stack: a row it has to open is counted and stays open, and so is a change of its channel's direction. -/
def State.nearAccess (s : State) (u off : Nat) (wr : Bool) : State :=
  let k := bankKey off
  let row := nearRow off + 1
  let s1 := if Tbl.get 0 (s.tier u).rows k = row then s
    else (s.bump (tierPage u) 0x060 1).modTier u fun t => { t with rows := Tbl.set t.rows k row }
  let ch := nearChannel off
  let turn := ((s1.tier u).dirs.any fun e => e.1 == ch) && Tbl.get wr (s1.tier u).dirs ch != wr
  (if turn then s1.bump (tierPage u) 0x068 1 else s1).modTier u fun t => { t with dirs := Tbl.set t.dirs ch wr }

/-- The offset of POISON_READS of a unit's page. -/
def poisonOff (u : Nat) : Nat := if u < 16 then 0x090 else 0x070

/-! ### Service -/

/-- An answer on its way to a mover. -/
def State.replyTo (s : State) (r : TReq) (data : Option Bytes) (bad : List Nat) (down : Bool) : State :=
  s.modMover r.tile fun m => { m with replies := m.replies ++ [⟨r.desc, r.slot, data, bad, down, r.cost⟩] }

/-- The bridge of a unit has its link down, so the port answers (R152). -/
def State.linkDownOf (s : State) (u : Nat) : Bool := decide (16 ≤ u) && !(s.bridge (u % 8)).linkUp

/-- A request that the bridge port answers itself: counted, LINK_DOWN raised; a read is answered as poisoned; a write as failed, which
may or may not have reached the memory, so its destination is left open (R152, log entry 5). -/
def State.answerDown (s : State) (u : Nat) (r : TReq) : State :=
  let s1 := (s.bump (tierPage u) 0x078 1).raise (tierPage u) 6
  match r.wr with
  | none => (s1.bump (tierPage u) (poisonOff u) 1).replyTo r (some (Memory.read s1.mem (unitBase u + r.off) r.len)) (List.range r.len) true
  | some b =>
    let q := s1.freshBytes b.length
    ({ q.2 with mem := Memory.write q.2.mem (unitBase u + r.off) q.1 }).replyTo r none [] true

/-- A mover's request reaches a unit: none where it has no credit; answered by the port where the link is down; else it waits its turn. -/
def State.tierAsk (s : State) (u : Nat) (r : TReq) : Option State :=
  if !s.tierCredit u r then none
  else if s.linkDownOf u then some (s.answerDown u r)
  else some (s.modTier u fun t => { t with reqs := t.reqs ++ [r] })

/-- A request served (R148, R151, R154, R156): counted, its codewords checked, its bytes read or written, and answered. A write's
poisoned bytes poison their codewords. -/
def State.serve (s : State) (u : Nat) (r : TReq) : State :=
  let pa := unitBase u + r.off
  let part := r.wr.isSome && partialCw r.off r.len != 0
  let s1 :=
    if r.crumb then
      if r.wr.isSome then
        let s2 := s.bumpHi (tierPage u) 0x060 1
        if r.encVa.isSome && r.len != 32 then s2.bump (tierPage u) 0x060 1 else s2
      else s.bump (tierPage u) 0x060 1
    else
      let s2 := s.countBurst u r.off r.len r.wr.isSome (r.tile != tierTile u)
      if u < 16 then (if part then s2.nearAccess u r.off false else s2).nearAccess u r.off r.wr.isSome else s2
  match r.wr with
  | none =>
    let q := s1.physRead pa r.len
    let s3 := if q.1.2 = [] then q.2 else q.2.bump (tierPage u) (poisonOff u) 1
    s3.replyTo r (some (match r.encVa with | some va => s3.portCipher r.part va q.1.1 | none => q.1.1)) q.1.2 false
  | some b => ((s1.physWrite pa b).poisonGranules (r.bad.map (pa + ·))).replyTo r none [] false

/-! ### Whose turn (R156, R157) -/

/-- Two requests touch a codeword in common. -/
def TReq.meets (a b : TReq) : Bool := decide (a.off / 64 ≤ (b.off + b.len - 1) / 64 ∧ b.off / 64 ≤ (a.off + a.len - 1) / 64)

/-- The requests of a unit that may be served now, oldest first: at a bridge none that an earlier request to the same codeword still
waits before (R156). -/
def mayServe (bridge : Bool) : List TReq → List TReq → List TReq
  | _, [] => []
  | seen, r :: l => (if bridge && seen.any (·.meets r) then [] else [r]) ++ mayServe bridge (seen ++ [r]) l

/-- The next active stream after the last one served, round robin (R157). -/
def nextStream (l : List Nat) (last : Nat) : Option Nat :=
  let up := l.filter fun x => decide (last < x)
  (if up = [] then l else up).min?

/-- The oldest request of the stream whose turn it is. -/
def turnOf (l : List TReq) (last : Nat) : Option TReq := (nextStream (l.map (·.stream)) last).bind fun x => l.find? fun r => r.stream == x

/-- The burst that a unit serves next. -/
def State.nextBurst (s : State) (u : Nat) : Option TReq :=
  turnOf ((mayServe (decide (16 ≤ u)) [] (s.tier u).reqs).filter fun r => !r.crumb) (s.tier u).lastStream

/-- The crumb access that a bridge serves next, with its unit: both ranks share the crumb path. -/
def State.nextCrumb (s : State) (b : Nat) : Option (Nat × TReq) :=
  let of := fun (u : Nat) => ((mayServe true [] (s.tier u).reqs).filter (·.crumb)).map fun r => (u, r)
  let l := of (16 + b) ++ of (24 + b)
  (nextStream (l.map (·.2.stream)) (s.bridge b).lastCrumb).bind fun x => l.find? fun r => r.2.stream == x

/-- A request leaves its unit's list. -/
def State.takeReq (s : State) (u : Nat) (r : TReq) : State := s.modTier u fun t => { t with reqs := removeFirst (· == r) t.reqs }

/-- A request is the one that a command names: by its offset in its unit, its length, its direction and its stream. -/
def TReq.named (r : TReq) (off len : Nat) (wr : Bool) (stream : Nat) : Bool :=
  r.off == off && r.len == len && r.wr.isSome == wr && r.stream == stream

/-- NEAR_BURST (R148, R151, R157): a near controller or a bridge's rank serves the burst whose turn it is; none while it is in
self-refresh (R168). The command names the request it serves; another one's turn is not its event. `err` strikes the first codeword that
the request touches. -/
def execNearBurst (u : TierUnit) (off len : Nat) (wr : Bool) (stream : Nat) (err : CwErr) (s : State) : Out :=
  let k := unitKey u
  if !s.up || s.sage.fatal.isSome || !unitOk u || (s.tier k).selfRefresh then .next s
  else match s.nextBurst k with
    | none => .next s
    | some r =>
      if !r.named off len wr stream then .next s
      else
        let s1 := (s.strike (.tier ((unitBase k + r.off) / 64) err)).takeReq k r
        .next (((s1.modTier k fun t => { t with lastStream := r.stream }).serve k r).progress (tierPage k) 1)

/-- CRUMB (R154 to R157): a bridge serves the crumb access whose turn it is. The command names it: its rank (0 the
module rank, 1 the shelf rank) and the request. -/
def execCrumb (bridge rank off len : Nat) (wr : Bool) (stream : Nat) (err : CwErr) (s : State) : Out :=
  if !s.up || s.sage.fatal.isSome || decide (8 ≤ bridge) then .next s
  else match s.nextCrumb bridge with
    | none => .next s
    | some (u, r) =>
      if (s.tier u).selfRefresh || decide (u ≠ 16 + 8 * rank + bridge) || !r.named off len wr stream then .next s
      else
        let s1 := (s.strike (.tier ((unitBase u + r.off) / 64) err)).takeReq u r
        .next (((s1.modBridge bridge fun b => { b with lastCrumb := r.stream }).serve u r).progress (tierPage u) 1)

/-! ### Bridge links (R152) -/

/-- BRIDGE_LINK_DOWN (R152): both ranks go into self-refresh, the port answers every request outstanding there, and LINK_DOWN is
raised. -/
def execBridgeLinkDown (bridge : Nat) (s : State) : Out :=
  if !s.up || decide (8 ≤ bridge) || !(s.bridge bridge).linkUp then .next s
  else
    let s1 := s.modBridge bridge fun b => { b with linkUp := false, downAt := s.time.mono + 1 }
    let end_ := fun (s : State) (u : Nat) =>
      let l := (s.tier u).reqs
      l.foldl (fun s r => s.answerDown u r) (s.modTier u fun t => { t with selfRefresh := true, reqs := [] })
    .next ((end_ (end_ s1 (16 + bridge)) (24 + bridge)).raise (pk tBRIDGE bridge) 6)

/-! ### What time does to the tiers (Tables 7.4, 7.8, 7.9) -/

/-- One per-bank refresh of a near stack: counted, and the bank's row closed. -/
def State.refreshBank (s : State) (u bank : Nat) : State :=
  (s.bump (tierPage u) 0x070 1).modTier u fun t => { t with rows := Tbl.drop t.rows (· == bank) }

/-- A tick of the tiers: refreshes at their interval, twice as many with REFRESH_2X, none in self-refresh; and the two store clocks of
the tick counted where a unit is full. -/
def State.tickTiers (s : State) : State :=
  let due := s.time.mono % (Config.refreshEvery + 1) = 0
  let n := s.time.mono / (Config.refreshEvery + 1)
  let s1 := if due then s.each (List.range 16) fun s u =>
      if (s.tier u).selfRefresh then s
      else if (s.tier u).refresh2x then (s.refreshBank u (2 * n % 128)).refreshBank u ((2 * n + 1) % 128)
      else s.refreshBank u (n % 128)
    else s
  let s2 := s1.each ((List.range 16).filter fun u => decide (2048 ≤ s1.readsAt u)) fun s u => s.bump (tierPage u) 0x098 2
  s2.each ((List.range 8).filter fun b => decide (4096 ≤ s2.crumbsAt b)) fun s b => s.bump (pk tBRIDGE b) 0x080 2

/-! ### Pages out of service (R145, R164) -/

/-- The page of a unit's allocation page in the table of owners (R145): keyed by its tier physical address / 2 MiB. -/
def backKey (u page : Nat) : Nat := unitBase u / 2 ^ 21 + page

/-- An allocation page retired (R164): counted, queued for flash, and the unit degraded at its threshold. A row of it no longer asks
for retirement, nor is one pending for it. -/
def State.retirePage (s : State) (u page : Nat) : State :=
  let t := s.tier u
  if t.retired.contains page then s
  else
    let n := t.retired.length + 1
    let now := decide (unitDegraded u ≤ n)
    let rest := t.retireReq.filter fun r => r / 1024 != page
    let s1 := s.modTier u fun t =>
      { t with retired := t.retired ++ [page], degraded := t.degraded || now, retireReq := rest, retirePending := t.retirePending && !rest.isEmpty }
    let s2 := (s1.modBack (backKey u page) fun b => { b with owner := none, uses := 0 }).modBoot fun b =>
      { b with retireQueue := b.retireQueue ++ [(u, page)] }
    if now && !t.degraded then s2.raise (tierPage u) 4 else s2

end Sys2Proof.Machine
end

