-- ==== Sys2Proof/Machine/TimeUnit.lean ====
section
/-! DEFINITION. Machine/TimeUnit.lean: house time: roles, lock states, CADENCE frames, the two-way exchange, and the
tick (R22 to R29, R449, R450). -/

namespace Sys2Proof.Machine

open Sys2Proof

/-- The key of the TIME page. -/
def pgTIME : Nat := pk tTIME 0

/-- TIME.ROLE (Table 2.1). -/
def State.role (s : State) : Nat := bits (s.rg pgTIME 0x200) 1 0

/-- The port named in TIME.UPSTREAM. -/
def State.upstream (s : State) : Nat := bits (s.rg pgTIME 0x208) 3 0

/-- Some step context of the module is bound to a job: TIME.BOUND is not zero. -/
def State.anyBound (s : State) : Bool := s.ctxs.any fun e => e.2.bound

/-- In UNLOCKED the counter runs free, in HOLDOVER and UNSYNCED on the local reference: what was left to slew is dropped (Table 2.3). -/
def Lock.coasts (l : Lock) : Bool := l == .unlocked || l == .holdover || l == .unsynced

/-- LOCK changes; each change raises TIME_LOCK and counts (R29). -/
def State.setLock (s : State) (l : Lock) : State :=
  if s.time.lock = l then s else
    let s' := s.modTime fun t =>
      { t with lock := l, slew := if l.coasts then 0 else t.slew, holdSince := if l = .holdover then t.mono else t.holdSince,
               acqSet := if l = .acquiring then false else t.acqSet, goodRun := if l = .acquiring then 0 else t.goodRun }
    (s'.bump pgTIME 0x050 1).raise pgTIME 0

/-- A write to TIME.ROLE restarts lock (R23): source state is forgotten, the counter runs on. -/
def State.restartLock (s : State) (role : Nat) : State :=
  let s' := s.modTime fun t =>
    { t with depth := 0, srcHoldover := false, validRun := 0, goodRun := 0, slew := 0, xValid := false, depthRaised := false }
  s'.setLock (if role = 1 then .acquiring else .unlocked)

/-- TIME_ROLE_WRITE (R23, R449): takes effect only while no context is bound; ignored and counted otherwise. -/
def execTimeRoleWrite (v : BitVec 2) (s : State) : Out :=
  if !s.up then .next s
  else if s.anyBound then .next (s.countErr pgTIME)
  else
    let s' := s.setRg pgTIME 0x200 (v.zeroExtend 64)
    -- an accepted write in ACQUIRING starts ACQUIRING afresh
    .next ((s'.modTime fun t => { t with acqSet := false }).restartLock v.toNat)

/-- The counter set to a value, at once; the exchange under way is dropped. -/
def State.jumpTo (s : State) (v : W64) : State :=
  s.modTime fun t => { t with now := v, slew := 0, xValid := false }

/-- TIME_SET (R449): in ACQUIRING sets the counter and locks; in LOCKED only to a value not below it. -/
def execTimeSet (v : W64) (s : State) : Out :=
  if !s.up then .next s
  else if s.role = 1 ∧ s.anyBound = false ∧ (s.time.lock = .acquiring ∨ (s.time.lock = .locked ∧ s.time.now ≤ v)) then
    .next (((s.jumpTo v).modTime fun t => { t with depth := 0 }).setLock .locked)
  else .next (s.countErr pgTIME)

/-! ### CADENCE frames (R25, R26) -/

/-- One bit through the CRC-16 register: polynomial 0x1021, most significant bit first. -/
def crc16Bit (crc : BitVec 16) (b : Bool) : BitVec 16 :=
  let top := crc.getLsbD 15 ^^ b
  if top then (crc <<< 1) ^^^ 0x1021 else crc <<< 1

/-- The CRC-16 of bits `n - 1 .. 0` of `w` above bit `lo`, most significant first, from 0xFFFF (R25). -/
def crc16 (w lo : Nat) : Nat → BitVec 16 → BitVec 16
  | 0, c => c
  | n + 1, c => crc16 w lo n (crc16Bit c (w.testBit (lo + n)))

/-- The CRC field of a frame: over bits 103..16. -/
def frameCrc (w : Nat) : BitVec 16 := crc16 w 16 88 0xFFFF

/-- The frame of a house time (Table 2.2). -/
def cadenceWord (t : W64) (valid hold : Bool) : BitVec 104 :=
  let body := packNat [⟨103, 88, 0xA9C3⟩, ⟨87, 24, t.toNat⟩, ⟨16, 16, b2n valid⟩, ⟨17, 17, b2n hold⟩]
  BitVec.ofNat 104 (body ||| (frameCrc body).toNat)

/-- The offset `off` (this counter minus its source, ns) that a valid source shows: how the lock state follows it
(Table 2.3). In ACQUIRING the counter is set once, while no context is bound; every other correction is a slew (R28). -/
def State.follow (s : State) (off : Int) : State :=
  let bound := s.anyBound
  let big := decide (1000 < off.natAbs)
  let s1 :=
    match s.time.lock with
    | .unlocked => s.setLock .acquiring
    | .unsynced => if bound then s else s.setLock .acquiring
    | .holdover => if !big then s.setLock .locked else if bound then s.setLock .unsynced else s.setLock .acquiring
    | _ => if big && bound then s.setLock .unsynced else s
  if s1.time.lock = .unsynced then s1
  else if s1.time.lock = .acquiring ∧ bound = false ∧ s1.time.acqSet = false then
    s1.modTime fun t => { t with now := t.now - BitVec.ofInt 64 off, slew := 0, acqSet := true }
  else s1.modTime fun t => { t with slew := -off }

/-- CADENCE_FRAME (R25, R26). -/
def execCadenceFrame (frame : BitVec 104) (s : State) : Out :=
  if !s.up then .next s
  else if bits frame 103 88 ≠ 0xA9C3 ∨ bits frame 15 0 ≠ (frameCrc frame.toNat).toNat then
    .next ((s.modTime fun t => { t with validRun := 0 }).countErr pgTIME)
  else if bitOf frame 16 = false then .next (s.modTime fun t => { t with validRun := 0 })
  else if s.role ≠ 2 then .next s
  else
    let target : Int := (bits frame 87 24 : Int) - (bits (s.rg pgTIME 0x228) 15 0 : Nat)
    let off : Int := (s.now : Int) - target
    let s1 := s.modTime fun t =>
      { t with lastValid := t.mono, validRun := t.validRun + 1, srcHoldover := bitOf frame 17, depth := 0, lastOffset := off }
    let s2 := s1.follow off
    .next (if s2.time.lock = .acquiring ∧ 16 ≤ s2.time.validRun then s2.setLock .locked else s2)

/-- TIME is LOCKED or in HOLDOVER: what LOCKED of a time beacon and VALID of a CADENCE_OUT frame say (R26). -/
def State.holdsTime (s : State) : Bool := s.time.lock == .locked || s.time.lock == .holdover

/-- What HOLDOVER of a time beacon and of a CADENCE_OUT frame says (R26). -/
def State.saysHoldover (s : State) : Bool := s.time.lock == .holdover || s.time.srcHoldover

/-- CADENCE_OUT_FRAME (R25, R466, Table 21.12): at a frame boundary the output takes what TIME.OUT_SEL selects, and
sends a frame while it carries house time. -/
def execCadenceOutFrame (s : State) : Out :=
  if !s.up then .next s
  else if bitOf (s.rg pgTIME 0x230) 0 then .next (s.modTime fun t => { t with outTrig := true })
  else .next ((s.modTime fun t => { t with outTrig := false }).send
    (.cadence (cadenceWord s.time.now s.holdsTime s.saysHoldover)))

/-! ### Time beacons (R24, R26, R27) -/

/-- A time beacon or reply (Table 14.4). -/
def timeMsg (typ : Nat) (modId : W16) (depth : Nat) (locked hold : Bool) (tSend tReturn : W64) : Msg32 :=
  pack 256 [bfld 2 2 modId.toNat, bfld 4 1 depth, ⟨40, 40, b2n locked⟩, ⟨41, 41, b2n hold⟩, bfld 6 1 typ,
    bfld 8 8 tSend.toNat, bfld 16 8 tReturn.toNat]

/-- A decision message (Table 14.4). -/
def decisionMsg (job : Nat) (modId : W16) (d : Decision) : Msg32 :=
  let kind := match d.kind with | .opn => 0 | .commit => 1 | .rpt => 2 | .abandon => 3
  pack 256 [bfld 0 2 job, bfld 2 2 modId.toNat, ⟨33, 32, kind⟩, ⟨35, 34, d.reason⟩, bfld 5 1 d.attempt, bfld 6 1 0x30,
    bfld 8 8 d.step, bfld 16 8 d.edge.toNat, bfld 24 4 d.nextSlot, bfld 28 4 d.allowUs]

/-- Offset of step context `p` in the TIME page (Table 20.10). -/
def ctxOff (p : Nat) : Nat := 0x400 + 0x40 * p

/-- CTX.JOB's job ID, coordinator and MAX_REPEAT, CTX.EPOCH and CTX.MARGIN in µs. -/
def State.jobId (s : State) (p : Nat) : Nat := bits (s.rg pgTIME (ctxOff p)) 15 0
def State.coordId (s : State) (p : Nat) : W16 := BitVec.ofNat 16 (bits (s.rg pgTIME (ctxOff p)) 31 16)
def State.maxRepeat (s : State) (p : Nat) : Nat := bits (s.rg pgTIME (ctxOff p)) 35 32
def State.epoch (s : State) (p : Nat) : Nat := s.rgN pgTIME (ctxOff p + 8)
def State.marginNs (s : State) (p : Nat) : Nat := 1000 * bits (s.rg pgTIME (ctxOff p + 0x10)) 9 0

/-- This module is the coordinator of context `p`. -/
def State.isCoord (s : State) (p : Nat) : Bool := (s.ctx p).bound && s.coordId p == s.moduleId

/-- The decisions and RESUMEs that this module repeats in its time beacons (R38, R283): one for each context it
coordinates. -/
def State.repeatDecisions (s : State) : State :=
  s.each (s.coords.map (·.1)) fun s p =>
    if s.isCoord p then
      match (s.coord p).last with
      | some d => s.send (.job p (decisionMsg (s.jobId p) s.moduleId d))
      | none => s
    else s

/-- A RESUME (Table 13.3), repeated in every time beacon until the next order or the decision (R283). -/
def State.repeatResumes (s : State) : State :=
  s.each (s.coords.map (·.1)) fun s p =>
    if s.isCoord p then
      match (s.coord p).resume with
      | some m => s.send (.job p m)
      | none => s
    else s

/-- TIME_BEACON_SEND (R24, R27): a beacon on every port that is up but a follower's upstream port, and the latest
decisions with them (R38). -/
def execTimeBeaconSend (s : State) : Out :=
  if !s.up then .next s
  else
    let ports := (List.range 16).filter fun e => s.portUp e && !(s.role == 0 && e == s.upstream)
    let s1 := s.each ports fun s e =>
      s.sendLane3 e (timeMsg 0x20 s.moduleId s.time.depth s.holdsTime s.saysHoldover s.time.now (Tbl.get 0 s.time.t4 e))
    .next (if ports.isEmpty then s1 else (s1.progress pgTIME ports.length).repeatDecisions.repeatResumes)

/-- No valid frame or beacon for 16 µs (R26). -/
def State.sourceLost (s : State) : Bool := decide (s.time.lastValid + 16000 ≤ s.time.mono)

/-- A follower is in a period with no valid source: none for 16 µs, or none since lock was restarted (R24, R26, R29). -/
def State.noSource (s : State) : Bool := s.sourceLost || s.time.lock == .unlocked

/-- A time beacon on the upstream port tells a follower whether its source is in holdover, whatever else it offers (R26; log entry 71). -/
def State.hearHoldover (s : State) (h : Bool) : State := s.modTime fun t => { t with srcHoldover := h }

/-- A beacon of DEPTH 4 offers no time: the first in a period with no valid source raises TIME_DEPTH (R24). -/
def State.tooDeep (s : State) : State :=
  if s.noSource && !s.time.depthRaised then (s.modTime fun t => { t with depthRaised := true }).raise pgTIME 1 else s

/-- The four stamps of the last exchange: the offset, this counter minus upstream's, and the delay, both halved towards minus infinity
where the sum or difference is odd, which R27's `/ 2` leaves open (log entry 69). -/
def exchangeOf (t : TimeSt) (t4 : Int) : Int × Int :=
  let fwd : Int := (t.x2.toNat : Int) - t.x1.toNat
  let back : Int := t4 - t.x3.toNat
  ((fwd - back) / 2, (fwd + back) / 2)

/-- An exchange completes: its offset and delay are reported, followed, and counted towards LOCKED (R27, R29). -/
def State.exchange (s : State) (t4 : Int) : State :=
  let x := exchangeOf s.time t4
  let s1 := (s.bump pgTIME 0x048 1).modTime fun t =>
    { t with lastOffset := x.1, lastDelay := x.2, goodRun := if x.1.natAbs ≤ 25 then t.goodRun + 1 else 0 }
  let s2 := s1.follow x.1
  if s2.time.lock = .acquiring ∧ 1000 ≤ s2.time.goodRun then s2.setLock .locked else s2

/-- A valid source is present and its offset not yet known: UNLOCKED passes to ACQUIRING, and so does UNSYNCED once no context is bound
(R29). -/
def State.sourceSeen (s : State) : State :=
  if s.time.lock = .unlocked ∨ (s.time.lock = .unsynced ∧ s.anyBound = false) then s.setLock .acquiring else s

/-- TIME_BEACON_RECEIVE (R24, R26, R27): a follower takes time only from beacons on its upstream port whose LOCKED is
set and whose DEPTH is 3 or less, and answers each. The stamps t2 and t3 are both the counter at this command (log entry 7). -/
def execTimeBeaconReceive (port : Nat) (msg : Msg32) (s : State) : Out :=
  if s.up = false ∨ s.role ≠ 0 ∨ port ≠ s.upstream ∨ s.portUp port = false ∨ byteFld msg 6 1 ≠ 0x20 then .next s
  else
    let s0 := s.hearHoldover (bitOf msg 41)
    if 4 ≤ byteFld msg 4 1 then .next s0.tooDeep
    else if bitOf msg 40 = false then .next s0
    else
      let t4 : Int := byteFld msg 16 8
      let s1 := s0.modTime fun t => { t with lastValid := t.mono, depth := byteFld msg 4 1 + 1, depthRaised := false }
      let s2 := if s1.time.xValid ∧ t4 ≠ 0 then s1.exchange t4 else s1.sourceSeen
      let s5 := s2.modTime fun t => { t with x1 := BitVec.ofNat 64 (byteFld msg 8 8), x2 := t.now, x3 := t.now, xValid := true }
      .next (s5.sendLane3 port (timeMsg 0x21 s5.moduleId s5.time.depth s5.holdsTime s5.saysHoldover s5.time.now 0))

/-- TIME_REPLY (R27): the upstream module stamps t4, to be returned in its next beacon on the port. -/
def execTimeReply (port : Nat) (msg : Msg32) (s : State) : Out :=
  whenOk (s.up && s.portUp port && byteFld msg 6 1 == 0x21)
    (s.modTime fun t => { t with t4 := Tbl.set t.t4 port t.now }) s

/-- ACQUIRING_TIMEOUT (R29): without a valid source for 16 µs TIME returns to UNLOCKED, the counter running on. -/
def execAcquiringTimeout (s : State) : Out :=
  whenOk (s.up && s.time.lock == .acquiring && s.role != 1 && s.sourceLost)
    ((s.modTime fun t => { t with validRun := 0 }).setLock .unlocked) s

/-- HOLDOVER_ENTRY (R29): no valid beacon or frame for 16 µs while LOCKED; ROOT_INTERNAL has no source to lose. -/
def execHoldoverEntry (s : State) : Out :=
  whenOk (s.up && s.time.lock == .locked && s.role != 1 && s.sourceLost)
    ((s.modTime fun t => { t with validRun := 0 }).setLock .holdover) s

/-- UNSYNCED_ENTRY (R29): HOLDOVER lasted 1 ms, or the offset exceeds 1 µs while a context is bound. -/
def execUnsyncedEntry (s : State) : Out :=
  whenOk (s.up && ((s.time.lock == .holdover && decide (s.time.holdSince + 1000000 ≤ s.time.mono))
      || ((s.time.lock == .locked || s.time.lock == .acquiring || s.time.lock == .holdover) && s.anyBound
          && decide (1000 < s.time.slew.natAbs))))
    (s.setLock .unsynced) s

/-! ### The tick -/

/-- House time counted below m = 16 (Table 20.15). -/
def State.countThrottle (s : State) (n : Nat) : State := if s.power.m < 16 then s.bump64 (pk tPOWER 0) 0x040 n else s

/-- A bridge's link comes up, and its ranks leave self-refresh. -/
def State.bridgeUp (s : State) (b : Nat) : State :=
  ((s.modBridge b fun x => { x with linkUp := true, downAt := 0 }).modTier (16 + b) fun t => { t with selfRefresh := s.power.idle || s.sage.oos }).modTier
    (24 + b) fun t => { t with selfRefresh := s.power.idle || s.sage.oos }

/-- Bridge links that went down train again (R152, R317): up once 400 µs have passed (log entry 26). -/
def State.bridgesUp (s : State) : State :=
  if s.bridges.all fun e => e.2.downAt == 0 then s
  else s.each (List.range 8) fun s b =>
    if (s.bridge b).downAt != 0 && decide ((s.bridge b).downAt + 400000 ≤ s.time.mono + 1) then s.bridgeUp b else s

/-- A RESERVE that waits for the edge of an earlier step's speculative reservation (R245). -/
def reserveWaits (k : KpmSt) (o : KOp) : Bool :=
  o.st == .accepted && byteFld o.raw 0 1 == 7 && k.streams.any fun x =>
    x.part == o.part && x.id == BitVec.ofNat 32 (byteFld o.raw 4 4) && !x.closing && x.resvs.any fun r => r.spec && decide (r.step < o.step)

/-- RESERVE_WAIT of each KPM counts the store clocks of a tick, two, for each RESERVE that waits (Table 11.11). -/
def State.tickKpms (s : State) : State :=
  s.each (s.kpms.filter fun e => e.2.ops.any (reserveWaits e.2)) fun s e =>
    s.bump (pk tKPM e.1) 0x080 (2 * (e.2.ops.filter (reserveWaits e.2)).length)

/-- CREDIT_STALL of a TXU counts the store clocks of a tick, two, in which a sender waits for its credit (Table 12.8). -/
def State.tickTxus (s : State) : State :=
  s.each (s.txus.filter fun e => e.2.stalled && !e.2.room 1) fun s e => s.bump (pk tTXU e.1) 0x070 2

/-- GRANT_STALL of a fold engine counts the store clocks of a tick, two, in which a block of a child waits for a grant (Table 15.7). -/
def State.tickFolds (s : State) : State :=
  s.each (s.folds.filter fun e => e.2.parts.any fun x => x.2.grantWait) fun s e => s.bump (pk tFOLD e.1) 0x070 2

/-- A tick: 1 ns of the local reference. House time advances with it while the module is up; a slew adds or drops 1 ns
in each 50,000 ticks, 20 ppm (R28). What the model does on an empty queue (log entry 2). -/
def State.tick (s : State) : State :=
  if s.up then
    let t := s.time
    let corr : Int := if t.mono % 50000 = 49999 then (if t.slew < 0 then -1 else if 0 < t.slew then 1 else 0) else 0
    ((s.modTime fun t => { t with mono := t.mono + 1, now := t.now + 1 + BitVec.ofInt 64 corr, slew := t.slew - corr }).countThrottle
      (1 + corr).toNat).bridgesUp.tickTiers.tickPorts.tickKpms.tickTxus.tickFolds.tickUpset
  else s.modTime fun t => { t with mono := t.mono + 1 }

end Sys2Proof.Machine
end

