-- ==== Sys2Proof/Machine/Numeric.lean ====
section
/-! DEFINITION. Machine/Numeric.lean: the numeric event ring and overflow triggers (R278 to R283, R292 to R294). -/

namespace Sys2Proof.Machine

open Sys2Proof

/-! ### The numeric event ring (R292 to R294) -/

/-- What an entry says (Tables 13.4, 13.5). -/
structure NumEv where
  step : Nat
  attempt : Nat
  kind : Nat
  axis : Nat
  layer : Nat
  opidx : Nat
  unit : Nat
  aux : Nat
  detail : Nat
deriving DecidableEq, Repr

/-- A numeric event entry (Table 13.4). -/
def nerEntry (t : W64) (phase : Bool) (e : NumEv) : Msg32 :=
  pack 256 [bfld 0 8 t.toNat, bfld 8 4 e.step, bfld 12 1 e.attempt, bfld 13 1 e.kind, bfld 14 1 e.axis, ⟨120, 120, b2n phase⟩,
    bfld 16 4 e.layer, bfld 20 4 e.opidx, bfld 24 2 e.unit, bfld 26 2 e.aux, bfld 28 4 e.detail]

/-- The ring's size and base: NER_CFG and NER_BASE of the VF's page. -/
def State.nerSize (s : State) (p : Nat) : Nat := bits (s.rg (pk tVFSTATUS p) 0x220) 16 0
def State.nerBase (s : State) (p : Nat) : Nat := 4096 * bits (s.rg (pk tVFSTATUS p) 0x218) 63 12

/-- One entry lost, and counted. -/
def State.nerLose (s : State) (p n : Nat) : State :=
  s.modNer p fun r => { r with lost := r.lost + n, lostPend := r.lostPend + n }

/-- One entry put in the ring and its vector signalled (R292, R427); a faulted write stops the ring (R294). -/
def State.nerPut (s : State) (p : Nat) (e : NumEv) : State :=
  let r := s.ner p
  let size := s.nerSize p
  let addr := s.nerBase p + 32 * r.next
  if s.writeFaults (.vf p) false then
    ((s.nerLose p 1).modNer p fun r => { r with broken := true }).hostFault (.vf p) addr 1 0
  else
    let wrap := decide (size ≤ r.next + 1)
    let s1 := s.hostWrite (.vf p) addr (leBytes 32 (nerEntry s.time.now r.phase e).toNat)
    let s2 := s1.modNer p fun r =>
      { r with next := if wrap then 0 else r.next + 1, phase := if wrap then !r.phase else r.phase, used := r.used + 1 }
    (s2.msix (.vf p) 0).modCtx p fun c => { c with numEvents := Tbl.set c.numEvents e.step (Tbl.get 0 c.numEvents e.step + 1) }

/-- A numeric event of partition `p` (R292 to R294): written, or lost and counted. A LOST entry with the count goes first. -/
def State.numEvent (s : State) (p : Nat) (e : NumEv) : State :=
  let s := s.debugEvent 10 p
  let r := s.ner p
  let size := s.nerSize p
  if !r.enabled then s
  else if r.broken ∨ size ≤ r.used then s.nerLose p 1
  else
    let s1 := if r.lostPend = 0 then s
      else (s.nerPut p { e with kind := 9, axis := 0, layer := 0, opidx := 0xFFFFFFFF, unit := 0, aux := 0,
                                detail := r.lostPend }).modNer p fun r => { r with lostPend := 0 }
    if (s1.ner p).broken ∨ size ≤ (s1.ner p).used then s1.nerLose p 1
    else s1.nerPut p e

/-! ### Layers and variants (R198, R276, R285) -/

/-- The placed launch of a step of a partition. -/
def State.launchOf (s : State) (p step : Nat) : Option Entry :=
  s.ents.find? fun e => decide (e.part = p ∧ e.step = some step ∧ (e.st = .placed ∨ e.st = .running))

/-- The bucket a step's launch runs. -/
def State.bucketOf (s : State) (p step : Nat) : Option Bucket :=
  match s.launchOf p step, s.planOfStep p step with
  | some e, some q => q.buckets[e.bucket]?
  | _, _ => none

/-- The layers of a step's bucket, in FIRST_OP order. -/
def State.layersOf (s : State) (p step : Nat) : List LayerEnt :=
  match s.bucketOf p step with
  | some b => b.layers
  | none => []

/-- The replacement records of a chain's position in a bucket; none at its base. -/
def Variant.block (v : Variant) (pos bi : Nat) : Option (List PlanRec) :=
  if pos ≤ v.base then none else (v.blocks[pos - v.base - 1]?).bind fun k => k[bi]?

/-- A layer's place in its table; past the end where the bucket does not hold it. -/
def layerRank (l : List LayerEnt) (layer : Nat) : Nat := l.findIdx fun e => e.layer == layer

/-- The layer of an operation index: the largest FIRST_OP not above it (R276). -/
def layerOf (l : List LayerEnt) (op : Nat) : Nat :=
  l.foldl (fun a e => if e.firstOp ≤ op then e.layer else a) 0

/-- The variant chain of a layer and axis (Table 9.2); at contract level 1 the fold axis has none (R206). -/
def State.chainOf (s : State) (p step layer axis : Nat) : Option Variant :=
  if axis = 1 ∧ s.gfe.level = 1 then none
  else match s.planOfStep p step with
    | some q => q.variants.find? fun v => decide (v.layer = layer ∧ v.axis = axis)
    | none => none

/-- A layer is widenable: it has a variant entry (R277). -/
def State.widenable (s : State) (p step layer : Nat) : Bool :=
  match s.planOfStep p step with
  | some q => q.variants.any fun v => v.layer == layer
  | none => false

/-- The position a layer holds on an axis in the step's attempt (R285): of a step that runs ahead, its base. -/
def State.position (s : State) (p step layer axis : Nat) : Nat :=
  let base := match s.chainOf p step layer axis with | some v => v.base | none => 0
  if step = (s.ctx p).cur then Tbl.get base (s.ctx p).variants (layer * 4 + axis) else base

/-- Whether a wider variant is left on the axis. -/
def State.canWiden (s : State) (p step layer axis : Nat) : Bool :=
  match s.chainOf p step layer axis with
  | some v => decide (s.position p step layer axis < v.base + v.count)
  | none => false

/-- The records of a layer as its attempt runs them (R277): those of the variant its last order gave it. -/
def State.layerRecs (s : State) (p step bi : Nat) (b : Bucket) (l : LayerEnt) : List PlanRec :=
  let axis := Tbl.get 0 (s.ctx p).lastAxis l.layer
  match (s.chainOf p step l.layer axis).bind fun v => v.block (s.position p step l.layer axis) bi with
  | some k => k
  | none => b.recs.filter fun x => layerOf b.layers x.opidx.toNat == l.layer

/-- The records of a step, in the order in which they are placed (R95, R277). -/
def State.streamOf (s : State) (p step : Nat) : List PlanRec :=
  match s.launchOf p step, s.bucketOf p step with
  | some e, some b => if (s.ctx p).variants = [] then b.recs else b.layers.flatMap (s.layerRecs p step e.bucket b)
  | _, _ => []

/-- The records of a step that a cluster's sequencer places. -/
def State.clusterStream (s : State) (p step c : Nat) : List PlanRec := (s.streamOf p step).filter fun x => coreCluster x.core == c

/-! ### Triggers (R278, R279, R281, R293) -/

/-- A widen message (Table 13.3). -/
def widenMsg (typ job : Nat) (modId : W16) (p : Nat) (gen : Byte) (axis pos step attempt seq layer : Nat) (sent : W64) : Msg32 :=
  pack 256 [bfld 0 2 job, bfld 2 2 modId.toNat, bfld 4 1 p, bfld 5 1 gen.toNat, bfld 6 1 typ, ⟨57, 56, axis⟩, ⟨59, 58, pos⟩,
    bfld 8 8 step, bfld 16 1 attempt, bfld 18 2 seq, bfld 20 4 layer, bfld 24 8 sent.toNat]

/-- The sequencers of a partition that place records of a step stop. -/
def State.stopPlacing (s : State) (p step : Nat) : State :=
  s.each (s.clustersOf p) fun s c => s.modSeq c fun q =>
    if (s.ctx p).cur + q.runAheadDepth = step then { q with placing := false } else q

/-- A layer and axis are asked for with WIDEN_REQ (R281). -/
def State.askWiden (s : State) (p layer axis : Nat) : State :=
  let c := s.ctx p
  (s.modCtx p fun c => { c with asked := c.asked ++ [(layer, axis)], widening := true }).send
    (.job p (widenMsg 0x10 (s.jobId p) s.moduleId p (s.part p).gen axis 0 c.cur c.attempt 0 layer s.time.now))

/-- An overflow trigger of a record or unit (R278). In the window of a rewind it is neither acted on nor logged for
discarded layers (R282); where a wider variant is left, the first of its kind in the layer and variant is logged (R293), and the layer
and axis are asked for with WIDEN_REQ, once until an order or a RESUME comes (R281, R283), in a step that runs ahead once it is the
oldest (log entry 38); else it is logged as WIDEST_OVF and the result stands (R279). -/
def State.overflow (s : State) (p : Nat) (e : NumEv) : State :=
  let c := s.ctx p
  let ls := s.layersOf p e.step
  let inWindow := match c.rewind with
    | some r => !r.absent && (decide (c.cur < e.step) || decide (layerRank ls r.layer ≤ layerRank ls e.layer))
    | none => false
  if inWindow then s
  else if s.canWiden p e.step e.layer e.axis then
    let key := (e.step, e.kind, e.layer, s.position p e.step e.layer e.axis)
    let s1 := if c.logged.contains key then s
      else (s.numEvent p e).modCtx p fun c => { c with logged := c.logged ++ [key] }
    if e.step ≠ c.cur then
      (s1.modCtx p fun c => { c with askLater := if c.askLater.contains (e.step, e.layer, e.axis) then c.askLater
        else c.askLater ++ [(e.step, e.layer, e.axis)] }).stopPlacing p e.step
    else if c.asked.contains (e.layer, e.axis) then s1
    else (s1.stopPlacing p e.step).askWiden p e.layer e.axis
  else (s.numEvent p { e with kind := 5 }).modCtx p fun c => { c with widestOvf := if c.widestOvf.contains e.step then c.widestOvf else c.widestOvf ++ [e.step] }

end Sys2Proof.Machine
end

