-- ==== Sys2Proof/Machine/Engine.lean ====
section
/-! DEFINITION. Machine/Engine.lean: what the engines of a core share: record headers, waits, predicates, starting and ending
a record (R95 to R100, Tables 5.2 to 5.4). -/

namespace Sys2Proof.Machine

open Sys2Proof

/-! ### Record headers (Table 5.2) -/

def recOpcode (r : Rec) : Nat := bits r 7 0
def recEngine (r : Rec) : Nat := bits r 10 8
def recPred (r : Rec) : Bool := bitOf r 11
def recWait0 (r : Rec) : Nat := bits r 23 16
def recWait1 (r : Rec) : Nat := bits r 31 24
def recWait0Val (r : Rec) : Nat := bits r 47 32
def recWait1Val (r : Rec) : Nat := bits r 63 48
def recPredOff (r : Rec) : Nat := 128 * bits r 79 64
def recSig0 (r : Rec) : Nat := bits r 95 80
def recSig0Inc (r : Rec) : Nat := bits r 103 96
def recSig1 (r : Rec) : Nat := bits r 119 104
def recSig1Inc (r : Rec) : Nat := bits r 127 120

/-- A dependency counter of a core (CORE.DC). -/
def State.dc (s : State) (k n : Nat) : Nat := Tbl.get 0 (s.core k).dc n

/-- An increment of a counter, which saturates at 0xFFFF (R97); `wide` where its scope is wider than the core. -/
def State.addDc (s : State) (k n inc : Nat) (wide : Bool) : State :=
  s.modCore k fun c =>
    let w := if wide && !c.dcWide.contains n then c.dcWide ++ [n] else c.dcWide
    { c with dc := Tbl.set c.dc n (min (Tbl.get 0 c.dc n + inc) 0xFFFF), dcWide := w }

/-- One wait of a header: disabled, or its counter is at its threshold (R97). -/
def State.waitMet (s : State) (k w val : Nat) : Bool := !w.testBit 7 || decide (val ≤ s.dc k (w % 64))

/-- Every enabled wait of a record is met. -/
def State.waitsMet (s : State) (k : Nat) (r : Rec) : Bool :=
  s.waitMet k (recWait0 r) (recWait0Val r) && s.waitMet k (recWait1 r) (recWait1Val r)

/-- A port record: its signals are releases at device scope whatever core they target (Table 8.3). -/
def portOp (r : Rec) : Bool := decide (0x40 ≤ recOpcode r ∧ recOpcode r ≤ 0x43)

/-- One signal of a header: [15] enable, [12:6] target core, [5:0] counter. A core of another partition is not reached (R99). -/
def State.fireSig (s : State) (k sig inc : Nat) (port : Bool) : State :=
  if sig.testBit 15 && s.coreOwner (nbits sig 12 6) == s.coreOwner k then
    (s.addDc (nbits sig 12 6) (sig % 64) inc (port || nbits sig 12 6 != k)).bump (pk tCORE k) 0x0C8 1
  else s

/-- Both signals of a record fire (R97). -/
def State.fireSignals (s : State) (k : Nat) (r : Rec) : State :=
  (s.fireSig k (recSig0 r) (recSig0Inc r) (portOp r)).fireSig k (recSig1 r) (recSig1Inc r) (portOp r)

/-! ### Queues and started records -/

/-- The queue of an engine of a core, and the records it has started and not retired. -/
def State.queue (s : State) (k e : Nat) : List QRec := Tbl.get [] (s.core k).queues e
def State.execs (s : State) (k e : Nat) : List ExRec := Tbl.get [] (s.core k).exec e

/-- Records that an engine's queue holds: each keeps its place until it retires (R95, Table 10.6). -/
def State.engineHeld (s : State) (k e : Nat) : Nat := (s.queue k e).length + (s.execs k e).length

def State.setQueue (s : State) (k e : Nat) (l : List QRec) : State :=
  s.modCore k fun c => { c with queues := Tbl.set c.queues e l }
def State.setExecs (s : State) (k e : Nat) (l : List ExRec) : State :=
  s.modCore k fun c => { c with exec := Tbl.set c.exec e l }

/-- The record at the head of an engine's queue that may start: the module runs and the waits are met (R97). The vector unit and the
scalar pipes have none in progress then; an array's loader takes loads ahead (R89), and the port posts up to 64 (R103). A halted pipe
starts none (R471). -/
def State.ready (s : State) (k e : Nat) : Option QRec :=
  match s.queue k e with
  | [] => none
  | q :: _ =>
    let halted := (e == 5 || e == 6) && (Tbl.get ScPipe.zero (s.core k).pipes (e - 5)).halted
    let free := decide (e < 4) || e == 7 || (s.execs k e).all fun x => x.done
    if s.running && s.waitsMet k q.bits && free && !halted then some q else none

/-- An acquire at cluster scope or wider: every line of the core's read cache is discarded (R177). -/
def State.acquire (s : State) (k : Nat) : State :=
  let n := (s.core k).rc.length
  if n = 0 then s else (s.bump (pk tCBUF k) 0x070 n).modCore k fun c => { c with rc := [] }

/-- A wait is an acquire at the scope of its signal (R97): wider than the core where another core or a unit signalled. -/
def State.waitWide (s : State) (k w : Nat) : Bool := w.testBit 7 && (s.core k).dcWide.contains (w % 64)

/-- A record starts: it leaves its queue, and its waits acquire. -/
def State.start (s : State) (k e : Nat) (x : ExRec) : State :=
  let s1 := (s.setQueue k e ((s.queue k e).drop 1)).setExecs k e (s.execs k e ++ [x])
  if s.waitWide k (recWait0 x.q.bits) || s.waitWide k (recWait1 x.q.bits) then s1.acquire k else s1

/-- The last record an engine started is done, with its error. -/
def State.finish (s : State) (k e : Nat) (err : Option Err) : State :=
  let l := s.execs k e
  s.setExecs k e (l.dropLast ++ ((l.getLast?).map fun x => { x with done := true, err := err }).toList)

/-- A record that an engine started is done, with its error: the oldest that is `q` and not done. -/
def markDone (q : QRec) (err : Option Err) : List ExRec → List ExRec
  | [] => []
  | x :: l => if x.q = q ∧ x.done = false then { x with done := true, err := err } :: l else x :: markDone q err l

def State.finishOf (s : State) (k e : Nat) (q : QRec) (err : Option Err) : State :=
  s.setExecs k e (markDone q err (s.execs k e))

/-- CORE.FAULT keeps the first fault since the last step edge (Table 5.11). -/
def State.coreFault (s : State) (k addr opcode eng : Nat) : State :=
  if (s.core k).faultSet then s
  else
    let w : W64 := pack 64 [⟨63, 16, addr⟩, ⟨15, 8, opcode⟩, ⟨7, 5, eng⟩]
    s.modCore k fun c => { c with faultSet := true, fault := w }

/-- What a record's predicate says (R98): run, skip, or a predicate word that cannot be read. -/
inductive Pred where
  | run
  | skip
  | fault (f : Flt)
deriving DecidableEq, Repr

/-- The predicate of a record, read from the core buffer. -/
def State.predOf (s : State) (k : Nat) (r : Rec) : Pred × State :=
  if !recPred r then (.run, s)
  else
    let g := s.cbGet k (recPredOff r) 4
    (if g.1.2 ≠ [] then .fault ⟨errUncorr, recPredOff r⟩ else if ofLe g.1.1 = 0 then .skip else .run, g.2)

/-- The accesses of a core's record: its partition, context and step. -/
def State.accOf (s : State) (k : Nat) (q : QRec) : Acc :=
  let p := (s.coreOwner k).getD 0
  ⟨p, Tbl.get 0 s.gfe.activeCtx p, some q.step, coreTile k, k,
    (s.core k).exec.any fun e => e.2.any fun x => x.q == q && x.stale⟩

/-- A record that has started ends with an error met at an address. -/
def State.endWith (s : State) (k e op : Nat) (f : Flt) : State := (s.coreFault k f.addr op e).finish k e (some f.err)

/-- A record starts and its predicate is read: one whose predicate is zero ends at once with no effect (R98), and one whose predicate
cannot be read ends with that error; else `go` runs it. -/
def State.startRecord (s : State) (k e : Nat) (q : QRec) (go : State → State) : State :=
  let r := (s.start k e ⟨q, false, none, none, false⟩).predOf k q.bits
  match r.1 with
  | .skip => (r.2.finish k e none).bump (pk tCORE k) 0x0C0 1
  | .fault f => r.2.endWith k e (recOpcode q.bits) f
  | .run => go r.2

/-- Run a record of opcode `op` on engine `e` (4 to 7, or a NOP on any): nothing where none is ready; else `body` answers its error
and the state it leaves. -/
def State.runRecord (s : State) (k e op : Nat) (body : QRec → State → Option Flt × State) : Out :=
  match s.ready k e with
  | none => .next s
  | some q =>
    if recOpcode q.bits ≠ op then .next s
    else .next (s.startRecord k e q fun s1 =>
      let r := body q s1
      match r.1 with
      | some f => r.2.endWith k e op f
      | none => r.2.finish k e none)

/-- NOP (Table 5.4): a record that only waits and signals. -/
def execNop (core eng : Nat) (s : State) : Out := s.runRecord core eng 0x00 fun _ s => (none, s)

end Sys2Proof.Machine
end

