-- ==== Sys2Proof/Machine/Arrays.lean ====
section
/-! DEFINITION. Machine/Arrays.lean: the bit-serial arrays: cells, alignment, the window, the drain and accumulation, shadow
samples and shadow checks (R75 to R94, R288 to R291). -/

namespace Sys2Proof.Machine

open Sys2Proof

/-! ### MM bodies (Table 5.5) -/

/-- The parameters of an array operation (Table 4.1). -/
structure MmP where
  statBase : Nat
  scaleBase : Nat
  strmBase : Nat
  accBase : Nat
  residBase : Nat
  outBase : Nat
  statStride : Nat
  scaleStride : Nat
  strmStride : Nat
  outStride : Nat
  nvec : Nat
  rows : Nat
  cols : Nat
  statFmt : Nat
  strmFmt : Nat
  outConv : Nat
  keep : Bool
  accum : Bool
  cbuf : Bool
  long : Bool
  final : Bool
  whead : Nat
deriving DecidableEq, Repr

def mmOf (r : Rec) : MmP :=
  { statBase := byteFld r 16 8, scaleBase := byteFld r 24 8, strmBase := byteFld r 32 8, accBase := byteFld r 40 8,
    residBase := byteFld r 48 8, outBase := byteFld r 56 8, statStride := byteFld r 64 4, scaleStride := byteFld r 68 4,
    strmStride := byteFld r 72 4, outStride := byteFld r 76 4, nvec := byteFld r 80 2 + 1, rows := byteFld r 82 1 % 128 + 1,
    cols := byteFld r 83 1 % 128 + 1, statFmt := byteFld r 84 1 % 16, strmFmt := byteFld r 84 1 / 16, outConv := byteFld r 85 1,
    keep := bitOf r 688, accum := bitOf r 689, cbuf := bitOf r 690, long := bitOf r 691, final := bitOf r 692,
    whead := bits r 694 693 }

/-! ### Cells (R78, Table 4.2) -/

/-- Cycles per streamed vector: significand bits of the stationary format. -/
def statS (fmt : Nat) : Nat :=
  match fmtOf fmt with
  | some f => f.mb + 1
  | none => bsiBits fmt

/-- The value of the cell at row `k` of column `n`. -/
def Tile.cell (t : Tile) (n k : Nat) : FVal :=
  let code := ((t.elems[n]?).getD [])[k]?.getD 0
  let b := bsiBits t.fmt
  if b = 0 then decodeFmt t.fmt code
  else bsiDecode (signedOf b code) (((t.scales[n]?).getD [])[k / 32]?.getD 0)

/-- The first `len` cells of a column: rows and columns that were not fetched hold zero (Table 4.1). -/
def Tile.column (t : Tile) (len n : Nat) : List FVal :=
  if n < t.cols then (List.range len).map fun k => if k < t.rows then t.cell n k else .fin false 0 0
  else List.replicate len (.fin false 0 0)

/-- A cell's exponent e, its value being ±M × 2^(e − s + 1). -/
def cellE (s : Nat) (e : Int) : Int := e + (s : Int) - 1

/-- Emax of a column: −127 where no cell has a non-zero magnitude (R78). -/
def emaxOf (s : Nat) (col : List FVal) : Int :=
  (col.foldl (fun (a : Option Int) v =>
    match v with
    | .fin _ m e => if m = 0 then a else some (match a with | some x => max x (cellE s e) | none => cellE s e)
    | _ => a) none).getD (-127)

/-! ### Streamed alignment (R79) -/

/-- Exponent of the largest finite magnitude of a vector; none where it is all zero. -/
def alignE (xs : List FVal) : Option Int :=
  let mx := xs.foldl (fun a v => match v with | .fin _ m e => maxMag a (m, e) | _ => a) ((0, 0) : Nat × Int)
  if mx.1 = 0 then none else some (topExp mx.1 mx.2)

/-- A_k, the 16-bit magnitude of an element. -/
def alignA (ea : Int) (v : FVal) : Nat :=
  match v with
  | .fin _ m e => shiftRound true m (ea - 15 - e)
  | _ => 0

/-- Non-zero finite elements that alignment makes zero: ALIGN_ZERO's count. -/
def alignZeros (xs : List FVal) : Nat :=
  match alignE xs with
  | none => 0
  | some ea => (xs.filter fun v => match v with | .fin _ m _ => m != 0 && alignA ea v == 0 | _ => false).length

/-! ### The window (R81 to R84) -/

/-- One product's contribution, floor(± P × 2^(L0 − δ)). -/
def contrib (l0 : Int) (emax : Int) (s : Nat) (ea : Int) (w x : FVal) : Int :=
  match w, x with
  | .fin n1 m e, .fin n2 _ _ =>
    let p : Int := ((alignA ea x * m : Nat) : Int)
    let sp : Int := if n1 ^^ n2 then -p else p
    let sh := l0 - (emax - cellE s e)
    if m = 0 then 0 else if 0 ≤ sh then sp * ((2 ^ sh.natAbs : Nat) : Int) else sp / ((2 ^ sh.natAbs : Nat) : Int)
  | _, _ => 0

/-- What the special classes of a column's products give (R84): nothing special, a NaN with its INVALID, or an infinity. -/
def specials (ws xs : List FVal) : Option (FVal × Ev) :=
  let ps := ws.zip xs
  let nan := ps.any fun p => p.1.isNan || p.2.isNan
  let infs := (ps.filterMap fun p =>
    match p.1, p.2 with
    | .inf a, .inf b => some (some (a ^^ b))
    | .inf a, .fin n m _ => some (if m = 0 then none else some (a ^^ n))
    | .fin n m _, .inf b => some (if m = 0 then none else some (n ^^ b))
    | _, _ => none)
  if nan then some (.nan, Ev.zero)
  else if infs.any (·.isNone) || (infs.contains (some true) && infs.contains (some false)) then some (.nan, evInv)
  else match infs with
    | some n :: _ => some (.inf n, Ev.zero)
    | _ => none

/-- A column's result before the drain's rounding: special or exact, with whether the window overflowed (R83). -/
structure ColRes where
  v : FVal
  ev : Ev
  ovf : Bool
deriving DecidableEq, Repr

/-- A column sum (R81 to R84). -/
def columnSum (s h : Nat) (ws xs : List FVal) : ColRes :=
  match specials ws xs with
  | some r => ⟨r.1, r.2, false⟩
  | none =>
    match alignE xs with
    | none => ⟨.fin false 0 0, Ev.zero, false⟩
    | some ea =>
      let emax := emaxOf s ws
      let l0 : Int := 47 - h - (16 + s)
      let lam : Int := ea + emax - ((s : Int) - 1) - 15 - l0
      let w : Int := ((ws.zip xs).map fun p => contrib l0 emax s ea p.1 p.2).foldl (· + ·) 0
      let top : Int := (2 ^ 47 : Nat)
      let ovf := decide (w < -top) || decide (top - 1 < w)
      let w' := if w < -top then -top else if top - 1 < w then top - 1 else w
      ⟨.fin (decide (w' < 0)) w'.natAbs lam, if ovf then evOvf else Ev.zero, ovf⟩

/-! ### Drain and accumulation (R85 to R88) -/

/-- A value rounded to FP32 with saturation, as conversion field 0x00 directs: the drain, and accumulation. -/
def sat32 (r : FVal × Ev) : FVal × Ev :=
  match r.1 with
  | .fin n m e => let q := fp32.encodeFin false false evOc n m e; (fp32.decode q.1, r.2.plus q.2)
  | v => (v, r.2)

/-- Stochastic rounding of an exact non-zero sum, given its 16-bit draw (R87). -/
def stochRound (r : Nat) (neg : Bool) (m : Nat) (e : Int) : FVal × Ev :=
  if topExp m e < fp32.emin then (.fin neg 0 0, evFl)
  else
    let ulp : Int := topExp m e - 23
    let t := shiftRound true m (ulp - e)
    -- f = floor((|z| − |t|) / ulp × 2^16)
    let f := shiftRound true m (ulp - 16 - e) - t * 65536
    let t' := if f ≤ r then t else t + 1
    let q := fp32.encodeFin true false evOc neg t' ulp
    (fp32.decode q.1, q.2)

/-- held + drained, rounded once to FP32 (R85), stochastically with a draw (R87). -/
def accumulate (draw : Option Nat) (held drained : FVal) : FVal × Ev :=
  let z := exactAdd held drained
  match draw, z.1 with
  | some r, .fin n m e => if m = 0 then sat32 z else let q := stochRound r n m e; (q.1, z.2.plus q.2)
  | _, _ => sat32 z

/-- residual + x, exact, rounded once to FP32 with saturation (R86, R110). -/
def resAdd (res x : FVal) : FVal × Ev := sat32 (exactAdd res x)

/-! ### Reading operands -/

/-- Elements of a binary format from bytes. -/
def decodeElems (fmt : Nat) (n : Nat) (b : Bytes) : List FVal :=
  (List.range n).map fun i => decodeFmt fmt (ofLe ((b.drop (i * elemBytes fmt)).take (elemBytes fmt)))

/-- The raw codes of a column (R77), and its scale bytes. -/
def colCodes (fmt rows : Nat) (b : Bytes) : List Nat :=
  let bb := bsiBits fmt
  if bb = 0 then (List.range rows).map fun i => ofLe ((b.drop (i * elemBytes fmt)).take (elemBytes fmt))
  else (List.range rows).map fun i => nbits (ofLe ((b.drop (i / 32 * (4 * bb))).take (4 * bb))) (bb * (i % 32) + bb - 1) (bb * (i % 32))

/-- Bytes of a column in the element plane. -/
def colBytes (fmt rows : Nat) : Nat := if bsiBits fmt = 0 then rows * elemBytes fmt else rows / 32 * (4 * bsiBits fmt)

/-- The stationary tile that a record names, fetched from memory (R77), or the first error met; `cached` where the vector unit reads it,
through the read cache (R117). -/
def State.fetchTile (s : State) (cached : Bool) (a : Acc) (src : Rec) : Except Flt Tile × State :=
  let m := mmOf src
  let r := (List.range m.cols).foldl (fun (acc : Except Flt (List (List Nat) × List (List Nat)) × State) n =>
    match acc.1 with
    | .error e => (.error e, acc.2)
    | .ok t =>
      let q := acc.2.readOp cached a m.statBase (n * m.statStride) (colBytes m.statFmt m.rows)
      match q.1.use (aoAddr m.statBase + n * m.statStride) with
      | .error e => (.error e, q.2)
      | .ok b =>
        if bsiBits m.statFmt = 0 then (.ok (t.1 ++ [colCodes m.statFmt m.rows b], t.2), q.2)
        else
          let q2 := q.2.readOp cached a m.scaleBase (n * m.scaleStride) (m.rows / 32)
          match q2.1.use (aoAddr m.scaleBase + n * m.scaleStride) with
          | .error e => (.error e, q2.2)
          | .ok sb => (.ok (t.1 ++ [colCodes m.statFmt m.rows b], t.2 ++ [sb.map (·.toNat)]), q2.2))
    (.ok ([], []), s)
  match r.1 with
  | .error e => (.error e, r.2)
  | .ok t => (.ok ⟨m.statFmt, m.rows, m.cols, t.1, t.2, src⟩, r.2)

/-! ### Arrays of a core -/

/-- An array of a core. -/
def State.arr (s : State) (k a : Nat) : ArrSt := Tbl.get ArrSt.zero (s.core k).arrs a
def State.modArr (s : State) (k a : Nat) (f : ArrSt → ArrSt) : State :=
  s.modCore k fun c => { c with arrs := Tbl.set c.arrs a (f (Tbl.get ArrSt.zero c.arrs a)) }

/-- Module array ID (R18). -/
def arrayId (k a : Nat) : Nat := 4 * k + a

/-- Bytes of the tile that a load fetches, its scale bytes among them (R77). -/
def MmP.tileBytes (m : MmP) : Nat := m.cols * (colBytes m.statFmt m.rows + if bsiBits m.statFmt = 0 then 0 else m.rows / 32)

/-- A load that the loader holds: queued or landed, not yet decoded into the shadow plane (R89). -/
def MmRun.loading (r : MmRun) : Bool :=
  match r.load with
  | .queued => true
  | .landed _ => true
  | _ => false

/-- Loads that an array's loader holds (FEED.LOADQ), the refetch of R92 among them. -/
def ArrSt.loadq (x : ArrSt) : Nat := (x.ops.filter (·.loading)).length + b2n x.refetch

/-- Bytes of landed tiles in the landing buffer. -/
def ArrSt.landing (x : ArrSt) : Nat :=
  (x.ops.map fun r => match r.load with | .landed _ => (mmOf r.q.bits).tileBytes | _ => 0).sum

/-- The oldest landed tile is decoded into an empty shadow plane (R89). -/
def decodeNext : List MmRun → List MmRun × Option Tile
  | [] => ([], none)
  | r :: l =>
    match r.load with
    | .landed t => ({ r with load := .shadow } :: l, some t)
    | .queued => (r :: l, none)
    | _ => let d := decodeNext l; (r :: d.1, d.2)

def ArrSt.decode (x : ArrSt) : ArrSt :=
  if x.shadow.isSome then x else let d := decodeNext x.ops; { x with ops := d.1, shadow := d.2 }

/-- Whether the attempt of a started record was discarded (R118). -/
def State.staleRec (s : State) (k e : Nat) (q : QRec) : Bool := (s.execs k e).any fun x => x.q == q && x.stale

/-- A started operation of an array ends: its record is done. After the last of a discarded attempt the planes and accumulators hold
nothing (R94). -/
def State.endMm (s : State) (k a : Nat) (q : QRec) (err : Option Flt) : State :=
  let s1 := match err with
    | some f => s.coreFault k f.addr 0x10 a
    | none => s
  let wipe := s.staleRec k a q && !(s.arr k a).ops.any fun r => r.q != q && s.staleRec k a r.q
  let s2 := s1.modArr k a fun x =>
    let y := { x with ops := x.ops.eraseP fun r => r.q == q }
    if wipe then { y with active := none, acc := [], replayed := false, refetch := false } else y
  s2.finishOf k a q (err.map (·.err))

/-- MM (R75, R89, R90): the record starts; with KEEP nothing is fetched, else a load is queued, of which the loader holds 16. KEEP
with no tile held multiplies by zeros (R94, log entry 13). -/
def execMm (core arr : Nat) (s : State) : Out :=
  if 4 ≤ arr then .next s
  else match s.ready core arr with
  | none => .next s
  | some q =>
    let keep := (mmOf q.bits).keep
    if recOpcode q.bits ≠ 0x10 ∨ (!keep && decide (16 ≤ (s.arr core arr).loadq)) = true then .next s
    else .next (s.startRecord core arr q fun s =>
      s.modArr core arr fun x => { x with ops := x.ops ++ [⟨q, 0, if keep then .active else .queued⟩] })

/-- The refetch of the active tile after a parity error (R92): from where it was loaded. -/
def State.refetchTile (s : State) (core arr : Nat) : State :=
  match (s.arr core arr).ops, (s.arr core arr).active with
  | r :: _, some t =>
    let f := s.fetchTile false (s.accOf core r.q) t.src
    match f.1 with
    | .error e => (f.2.modArr core arr fun x => { x with refetch := false }).endMm core arr r.q (some e)
    | .ok t' => (f.2.modArr core arr fun x => { x with active := some t', refetch := false }).progressOf (pk tFEED core) arr 1
  | _, _ => s.modArr core arr fun x => { x with refetch := false }

/-- A queued load's tile lands. -/
def ArrSt.landed (x : ArrSt) (q : QRec) (t : Tile) : ArrSt :=
  { x with ops := x.ops.map fun (y : MmRun) => if y.q = q ∧ y.load = .queued then { y with load := .landed t } else y }

/-- TILE_LOAD (R77, R78, R89, R92): the oldest queued load lands where the 128 KiB landing buffer has room for its whole tile, and is
decoded into the shadow plane once that is free. A refetch comes before it. -/
def execTileLoad (core arr : Nat) (s : State) : Out :=
  let x := s.arr core arr
  if !s.running then .next s
  else if x.refetch then .next (s.refetchTile core arr)
  else match x.ops.find? fun r => r.load == .queued with
  | none => .next s
  | some r =>
    if 131072 < x.landing + (mmOf r.q.bits).tileBytes then .next s
    else
      let t := s.fetchTile false (s.accOf core r.q) r.q.bits
      match t.1 with
      | .error e => .next (t.2.endMm core arr r.q (some e))
      | .ok tile =>
        .next ((t.2.modArr core arr fun x => (x.landed r.q tile).decode).progressOf (pk tFEED core) arr 1)

/-- Layer entry of a record's layer. -/
def State.layerEnt (s : State) (p step layer : Nat) : Option LayerEnt :=
  (s.layersOf p step).find? fun l => l.layer == layer

/-- Whether tile `i` of an array is sampled (R288). -/
def sampleTile (n arrayId step i : Nat) : Bool :=
  decide (4 ≤ n) && ((i + (arrayId * 0x9E37 + step) % 2 ^ n) % 2 ^ n == 0)

/-- A drained tile is sampled into the core's shadow queue of 8, or skipped (R288, R289); a discarded attempt's is not. -/
def State.shadowSample (s : State) (p k a : Nat) (q : QRec) (src : Rec) (x : Bytes) (y : List W32) : State :=
  let i := (s.arr k a).tiles
  if s.staleRec k a q then s
  else
    let s1 := s.modArr k a fun st => { st with tiles := st.tiles + 1 }
    match s.layerEnt p q.step q.layer with
    | none => s1
    | some l =>
      if sampleTile l.shadowLog2 (arrayId k a) q.step i then
        if 8 ≤ (s1.core k).shadowQ.length then s1.bump (pk tVEC k) 0x080 1
        else s1.modCore k fun c =>
          { c with shadowQ := c.shadowQ ++ [⟨a, q.layer, q.opidx, q.step, q.attempt, q.bits, src, x, y, l.relTol, l.absTol⟩] }
      else s1

/-- What a conversion of a row gives: its element bytes, a BSI destination's scale bytes, its events, and the elements that were
output-conversion overflows. -/
structure ConvOut where
  elems : Bytes
  scales : Bytes
  ev : Ev
  ocs : List Nat
deriving DecidableEq, Repr

/-- The places of the output-conversion overflows among results, as often as each counts one. -/
def ocsOf {α : Type} (l : List (α × Ev)) : List Nat := l.zipIdx.flatMap fun x => List.replicate x.1.2.oc x.2

/-- Events of a list of results. -/
def evsOf {α : Type} (l : List (α × Ev)) : Ev := l.foldl (fun e x => e.plus x.2) Ev.zero

/-- The elements of a conversion's destination for a row of values. A BSI destination packs groups of
32; `scales` are the given scales where SCALE_GIVEN is 1 (R66, R72). -/
def convRow (c : Nat) (scales : List Nat) (vs : List FVal) : ConvOut :=
  let b := bsiBits (convDst c)
  if b = 0 then
    let r := vs.map (convTo c)
    ⟨r.flatMap (fun x => leBytes (elemBytes (convDst c)) x.1), [], evsOf r, ocsOf r⟩
  else
    let gs := (chunks 32 (vs.length / 32 + 1) vs).zipIdx.map fun g =>
      bsiPack b (convTz c) (if convScaleGiven c then some ((scales[g.2]?).getD 0) else none) (g.1 ++ List.replicate (32 - g.1.length) (.fin false 0 0))
    ⟨gs.flatMap (fun g => bsiBytes b g.q), gs.map (fun g => BitVec.ofNat 8 g.u), gs.foldl (fun e g => e.plus g.ev) Ev.zero, []⟩

/-- Events of a feeder counted (Table 5.12): array `a`'s slots. -/
def State.feedEvents (s : State) (k a : Nat) (ev : Ev) (az : Nat) : State :=
  let pg := pk tFEED k
  (((s.bumpEv pg (0x058 + 0x30 * a) ev.ovf).bumpEvHi pg (0x058 + 0x30 * a) ev.inv).bumpEv pg (0x060 + 0x30 * a) ev.fl).bumpEvHi
    pg (0x060 + 0x30 * a) az

/-- Overflow triggers of one streamed vector (Table 13.2): its window overflows, then its output-conversion overflows, each with its
column. -/
def State.vecTriggers (s : State) (p k a : Nat) (q : QRec) (v : Nat) (wins ocs : List Nat) : State :=
  let ev := fun axis kind aux => (⟨q.step, q.attempt, kind, axis, q.layer, q.opidx.toNat, arrayId k a, aux, v⟩ : NumEv)
  (s.each wins fun s n => s.overflow p (ev 0 1 n)).each ocs fun s n => s.overflow p (ev 2 2 n)

/-- The accumulator value of column `n` before this vector: the held sum of the edge accumulators or of the core buffer. -/
def heldSum (acc : Tbl W32) (cb : Bytes) (cbuf : Bool) (n : Nat) : FVal :=
  fp32.decode (if cbuf then ofLe ((cb.drop (4 * n)).take 4) else (Tbl.get 0 acc n).toNat)

/-- What accumulation of a vector gives: 128 sums with their events, in column order, draws taken from index `d0` (R85, R88). -/
def accumRow (m : MmP) (seed step arr d0 : Nat) (held : Nat → FVal) (dr : List (FVal × Ev)) : List (FVal × Ev) :=
  (dr.zipIdx).map fun x =>
    if m.accum then
      let draw := if m.long then some (Config.roundDraw seed step arr (d0 + x.2) % 65536) else none
      let r := accumulate draw (held x.2) x.1.1
      (r.1, x.1.2.plus r.2)
    else x.1

/-- What writing a FINAL vector's output gives: its events and output-conversion overflows, with the error met. -/
structure FinalRes where
  err : Option Flt
  ev : Ev
  ocs : List Nat
deriving DecidableEq, Repr

/-- The output of a FINAL vector (R86): the residual updated where there is one, then the sums through OUT_CONV. The residual vectors
follow each other at 512 B, and a BSI output's scales are written nowhere, a given one being 0 (log entry 17). -/
def State.finalOut (s : State) (a : Acc) (m : MmP) (v : Nat) (sums : List FVal) : FinalRes × State :=
  let res : Except Flt (List (FVal × Ev)) × State :=
    if aoSpace m.residBase = 0 then (.ok (sums.map fun x => (x, Ev.zero)), s)
    else
      let q := s.readOp false a m.residBase (v * 512) 512
      match q.1.use (aoAddr m.residBase + v * 512) with
      | .error e => (.error e, q.2)
      | .ok b =>
        let rs := ((decodeElems 0 128 b).zip sums).map fun x => resAdd x.1 x.2
        let w := q.2.writeOp a m.residBase (v * 512) (rs.flatMap fun x => leBytes 4 (enc32 x.1))
        match w.1 with
        | some e => (.error e, w.2)
        | none => (.ok rs, w.2)
  match res.1 with
  | .error e => (⟨some e, Ev.zero, []⟩, res.2)
  | .ok rs =>
    let o := convRow m.outConv [] (rs.map (·.1))
    let w := res.2.writeOp a m.outBase (v * m.outStride) o.elems
    (⟨w.1, (evsOf rs).plus o.ev, ocsOf rs ++ o.ocs⟩, w.2)

/-- The held sums that ACCUM adds to in the core buffer (Table 4.1): the buffer alone is a target (R101, log entry 74). -/
def State.readAcc (s : State) (a : Acc) (m : MmP) (v : Nat) : Except Flt Bytes × State :=
  if m.cbuf ∧ aoSpace m.accBase ≠ 2 then (.error ⟨errRuntime, aoAddr m.accBase⟩, s)
  else if m.cbuf && m.accum then
    let q := s.readOp false a m.accBase (512 * v) 512
    (q.1.use (aoAddr m.accBase + 512 * v), q.2)
  else (.ok [], s)

/-- The sums written to the edge accumulators or the core buffer. -/
def State.writeAcc (s : State) (k arr : Nat) (a : Acc) (m : MmP) (v : Nat) (sums : List FVal) : Option Flt × State :=
  if m.cbuf then s.writeOp a m.accBase (512 * v) (sums.flatMap fun x => leBytes 4 (enc32 x))
  else (none, s.modArr k arr fun x => { x with acc := (sums.zipIdx).map fun y => (y.2, BitVec.ofNat 32 (enc32 y.1)) })

/-- The column sums of a streamed vector: columns that were not fetched hold zero cells. -/
def columnSums (h : Nat) (t : Tile) (xs : List FVal) : List ColRes :=
  let z := columnSum (statS t.fmt) h (List.replicate xs.length (.fin false 0 0)) xs
  (List.range 128).map fun n => if n < t.cols then columnSum (statS t.fmt) h (t.column xs.length n) xs else z

/-- FEED.LAST_OVF keeps the first window overflow since the last step edge (Table 5.12). -/
def State.noteOvf (s : State) (k arr : Nat) (q : QRec) (v : Nat) (wins : List Nat) : State :=
  match wins, Tbl.get none (s.core k).lastOvf arr with
  | n :: _, none => s.modCore k fun c =>
      { c with lastOvf := Tbl.set c.lastOvf arr (some (pack 64 [⟨63, 32, q.opidx.toNat⟩, ⟨22, 7, v⟩, ⟨6, 0, n⟩])) }
  | _, _ => s

/-- The streamed vector `v` of an operation: its bytes, and its elements, zero beyond ROWS (R77), as many as the tile's rows where
those are more. -/
def State.streamed (s : State) (a : Acc) (m : MmP) (t : Tile) (v : Nat) : Except Flt (Bytes × List FVal) × State :=
  let q := s.readOp false a m.strmBase (v * m.strmStride) (m.rows * elemBytes m.strmFmt)
  ((q.1.use (aoAddr m.strmBase + v * m.strmStride)).map fun b =>
    (b, decodeElems m.strmFmt m.rows b ++ List.replicate (t.rows - m.rows) (.fin false 0 0)), q.2)

/-- One streamed vector through the array (R79 to R88): the state it leaves and the error it meets. -/
def State.runVector (s : State) (k arr : Nat) (r : MmRun) (t : Tile) : Option Flt × State :=
  let m := mmOf r.q.bits
  let a := s.accOf k r.q
  let x := s.streamed a m t r.next
  match x.1 with
  | .error e => (some e, x.2)
  | .ok xb =>
    let h := x.2.readAcc a m r.next
    match h.1 with
    | .error e => (some e, h.2)
    | .ok cb =>
      let cols := columnSums (4 + m.whead) t xb.2
      let drained := cols.map fun c => sat32 (c.v, c.ev)
      let ar := h.2.arr k arr
      let stale := s.staleRec k arr r.q
      let d0 := if stale then ar.oldDraw else ar.draw
      let seed := match s.planOfStep a.part r.q.step with | some p => p.seed.toNat | none => 0
      let sums := accumRow m seed r.q.step (arrayId k arr) d0 (heldSum ar.acc cb m.cbuf) drained
      let d1 := if m.long && m.accum then d0 + 128 else d0
      let s1 := h.2.modArr k arr fun x => if stale then { x with oldDraw := d1 } else { x with draw := d1 }
      let w := s1.writeAcc k arr a m r.next (sums.map (·.1))
      let f := if m.final && w.1.isNone then w.2.finalOut a m r.next (sums.map (·.1)) else (⟨w.1, Ev.zero, []⟩, w.2)
      let az := alignZeros xb.2
      let s2 := f.2.feedEvents k arr (((evsOf sums).plus f.1.ev).plus ⟨0, 0, 0, if az = 0 then 0 else 1, 0⟩) az
      let wins := ((cols.zipIdx).filter fun c => c.1.ovf).map (·.2)
      let s3 := (s2.noteOvf k arr r.q r.next wins).vecTriggers a.part k arr r.q r.next wins (ocsOf sums ++ f.1.ocs)
      let s4 := s3.shadowSample a.part k arr r.q t.src xb.1 (drained.map fun d => BitVec.ofNat 32 (enc32 d.1))
      (f.1.err, s4.progressOf (pk tFEED k) arr 1)

/-- The planes swap before the first vector of an operation whose tile is in the shadow plane (R90). -/
def ArrSt.swap (x : ArrSt) : ArrSt :=
  match x.ops with
  | r :: l =>
    if r.load = .shadow then
      ArrSt.decode { x with active := x.shadow, shadow := none, ops := { r with load := .active } :: l, replayed := false }
    else x
  | [] => x

/-- STREAMED_VECTOR (R80, R90, R92): the next vector of the oldest operation, once its tile is in the active plane; a parity error
refetches the tile and replays, a second in the same load ends the operation. -/
def execStreamedVector (core arr : Nat) (parityErr : Bool) (s : State) : Out :=
  let s0 := s.modArr core arr ArrSt.swap
  match (s0.arr core arr).ops with
  | [] => .next s
  | r :: _ =>
    if !s.running || r.load != .active || (s.arr core arr).refetch then .next s
    else if parityErr then
      if (s0.arr core arr).replayed then .next (s0.endMm core arr r.q (some ⟨errUncorr, 0⟩))
      else .next ((s0.modArr core arr fun x => { x with refetch := true, replayed := true }).bump (pk tFEED core) (0x068 + 0x30 * arr) 1)
    else
      let t := ((s0.arr core arr).active).getD ⟨(mmOf r.q.bits).statFmt, 0, 0, [], [], 0⟩
      let v := s0.runVector core arr r t
      match v.1 with
      | some e => .next (v.2.endMm core arr r.q (some e))
      | none =>
        if r.next + 1 = (mmOf r.q.bits).nvec then .next (v.2.endMm core arr r.q none)
        else .next (v.2.modArr core arr fun x => { x with ops := match x.ops with | y :: l => { y with next := y.next + 1 } :: l | [] => [] })

/-! ### Shadow checks (R289, R290) -/

/-- The verdict on a column: agreement, and |y − ref| with the bound, for the worst column. -/
structure ColCheck where
  agree : Bool
  diff : FVal
  bound : FVal
deriving DecidableEq, Repr

/-- ref and mag of a column: rows in order, one rounding a step. -/
def refMag (ws xs : List FVal) : FVal × FVal :=
  (ws.zip xs).foldl (fun a p =>
    ((roundVec fp32 false (exactFma p.1 p.2 a.1)).1, (roundVec fp32 false (exactFma p.1.abs p.2.abs a.2)).1))
    (.fin false 0 0, .fin false 0 0)

/-- The test of one column (R289). -/
def checkCol (relTol absTol : FVal) (y : FVal) (ws xs : List FVal) : ColCheck :=
  let rm := refMag ws xs
  let diff := (fadd y rm.1.neg).1.abs
  let bound := (roundVec fp32 false (exactFma relTol rm.2 absTol)).1
  let special : FVal → Bool := fun v => match v with | .fin _ _ _ => false | _ => true
  let agree :=
    if decide (y = rm.1) && special y then true
    else if special y != special rm.1 then false
    else !bound.isNan && !diff.isNan && !flt bound diff
  ⟨agree, diff, bound⟩

/-- Whether column `a`'s ratio |y − ref| / bound is below column `b`'s, of two that disagree. A ratio that is no number, and one by a
zero bound, rank above the others (log entry 14). -/
def worse (a b : ColCheck) : Bool :=
  match a.diff, a.bound, b.diff, b.bound with
  | .fin _ m1 e1, .fin _ b1 f1, .fin _ m2 e2, .fin _ b2 f2 =>
    if b1 = 0 ∧ b2 = 0 then dyLt m1 e1 m2 e2 else b1 != 0 && (b2 == 0 || dyLt (m1 * b2) (e1 + f2) (m2 * b1) (e2 + f1))
  | .fin _ _ _, .fin _ b1 _, .fin _ _ _, _ => b1 != 0
  | .fin _ _ _, .fin _ _ _, _, _ => true
  | _, _, _, _ => false

/-- The columns of a sampled tile checked against the tile as it reads now (R289). -/
def ShadowEnt.check (e : ShadowEnt) (t : Tile) : List ColCheck :=
  let m := mmOf e.bits
  let xs := decodeElems m.strmFmt m.rows e.x
  (List.range 128).map fun n =>
    checkCol (fp32.decode e.relTol.toNat) (fp32.decode e.absTol.toNat) (fp32.decode ((e.y[n]?).getD 0).toNat) (t.column m.rows n) xs

/-- The worst of the columns that disagree: its place and its check (R290). -/
def worstCol (cs : List ColCheck) : Option (ColCheck × Nat) :=
  (cs.zipIdx.filter fun c => !c.1.agree).foldl (fun (b : Option (ColCheck × Nat)) c =>
    match b with
    | some x => if worse x.1 c.1 then some c else some x
    | none => some c) none

/-- The vector unit has an element to issue: a record started, or one that may start (R111). -/
def State.vecBusy (s : State) (core : Nat) : Bool := (s.ready core 4).isSome || (s.execs core 4).any fun x => !x.done

/-- SHADOW_CHECK (R111, R289 to R291): while no record has an element ready to issue, the oldest sample of the core is checked against
the tile read again from where it was loaded. A sample whose tile cannot be read is skipped. -/
def execShadowCheck (core : Nat) (s : State) : Out :=
  if !s.running || s.vecBusy core then .next s
  else match (s.core core).shadowQ with
  | [] => .next s
  | e :: rest =>
    let s0 := s.modCore core fun c => { c with shadowQ := rest }
    let p := (s.coreOwner core).getD 0
    let t := s0.fetchTile true ⟨p, Tbl.get 0 s.gfe.activeCtx p, some e.step, coreTile core, core, false⟩ e.src
    match t.1 with
    | .error _ => .next (t.2.bump (pk tVEC core) 0x080 1)
    | .ok tile =>
      match worstCol (e.check tile) with
      | none => .next (t.2.bump (pk tVEC core) 0x070 1)
      | some w =>
        .next ((t.2.bump (pk tVEC core) 0x078 1).numEvent p
          ⟨e.step, e.attempt, 6, 0, e.layer, e.opidx.toNat, arrayId core e.arr, w.2, enc32 w.1.diff⟩)

end Sys2Proof.Machine
end

