-- ==== Sys2Proof/Machine/Backing.lean ====
section
/-! DEFINITION. Machine/Backing.lean: who holds the store units and tier pages behind a partition's leaves, and their return
(R122, R145, R348, R353, R361). -/

namespace Sys2Proof.Machine

open Sys2Proof

/-- What the steward hands out, as log2 of its bytes: store units of 64 MiB, allocation pages of 2 MiB. -/
def blockLog (target : Nat) : Nat := if target = 0 then 26 else 21

/-- The key of the unit or allocation page that holds a physical address: the address over the block's size. The store's keys lie
below 512, the tiers' from 2^19 up. -/
def blockKey (target addr : Nat) : Nat := addr / 2 ^ blockLog target

/-- The blocks a leaf lies in; none of a leaf to another module. -/
def Leaf.blocks (l : Leaf) : List Nat :=
  if 4 ≤ l.target then []
  else
    let a := blockKey l.target l.addr
    (List.range (blockKey l.target (l.addr + 2 ^ l.log2 - 1) - a + 1)).map (a + ·)

/-- Leaves of a partition in a block, with those that a KPM still holds. -/
def State.usesOf (s : State) (p key : Nat) : Nat :=
  (((s.part p).leaves ++ (s.part p).held).filter fun l => l.blocks.contains key).length

/-- The target whose blocks a key names. -/
def blockTarget (key : Nat) : Nat :=
  if key < 2 ^ 19 then 0 else if key < 2 ^ 20 then 1 else if key < 2 ^ 21 then 2 else 3

/-- PART.USE_STORE, _NEAR, _MODULE, _SHELF changed. -/
def PartSt.modUse (q : PartSt) (target : Nat) (f : Nat → Nat) : PartSt :=
  match target with
  | 0 => { q with useStore := f q.useStore }
  | 1 => { q with useNear := f q.useNear }
  | 2 => { q with useModule := f q.useModule }
  | _ => { q with useShelf := f q.useShelf }

/-- A block reckoned again after its leaves have changed: with its last mapping gone it returns to the free pool with its contents,
marked with its last owner (R353). -/
def State.settleBlock (s : State) (p key : Nat) : State :=
  let n := s.usesOf p key
  if (s.back key).owner ≠ some p then s
  else if n = 0 then
    (s.modBack key fun b => { b with owner := none, last := some p, uses := 0 }).modPart p fun q => q.modUse (blockTarget key) (· - 1)
  else s.modBack key fun b => { b with uses := n }

def State.settleBlocks (s : State) (p : Nat) (l : List Leaf) : State :=
  s.each (l.flatMap Leaf.blocks).eraseDups fun s k => s.settleBlock p k

/-- A KPM of the module holds a page of a leaf: a descriptor has it, or it waits for reclamation (R249). -/
def State.kpmHolds (s : State) (p : Nat) (l : Leaf) : Bool :=
  let inLeaf := fun a => decide (l.va ≤ a ∧ a < l.va + 2 ^ l.log2)
  s.kpms.any fun k => match k.2.parts.find? fun x => x.1 == p with
    | none => false
    | some x => x.2.descs.any (fun d => inLeaf d.2.addr) || x.2.reclaim.any fun r => inLeaf r.page

/-- Pages that KPMs have released return (R353). -/
def State.releaseHeld (s : State) (p : Nat) : State :=
  let gone := (s.part p).held.filter fun l => !s.kpmHolds p l
  if gone = [] then s
  else (s.modPart p fun q => { q with held := q.held.filter fun l => !gone.contains l }).settleBlocks p gone

end Sys2Proof.Machine
end

