-- ==== Sys2Proof/Machine/Hash.lean ====
section
/-! DEFINITION. Machine/Hash.lean: SHAKE256, which the spec names and does not define: as FIPS 202 gives it (PRESUMED, log
entry 27). -/

namespace Sys2Proof.Machine

open Sys2Proof

/-- Round constants of the permutation. -/
def kRounds : List W64 :=
  [0x0000000000000001, 0x0000000000008082, 0x800000000000808A, 0x8000000080008000, 0x000000000000808B, 0x0000000080000001,
   0x8000000080008081, 0x8000000000008009, 0x000000000000008A, 0x0000000000000088, 0x0000000080008009, 0x000000008000000A]
  ++ [0x000000008000808B, 0x800000000000008B, 0x8000000000008089, 0x8000000000008003, 0x8000000000008002, 0x8000000000000080,
   0x000000000000800A, 0x800000008000000A, 0x8000000080008081, 0x8000000000008080, 0x0000000080000001, 0x8000000080008008]

/-- Rotations of the 25 lanes, lane x of row y at x + 5y. -/
def kRot : List Nat :=
  [0, 1, 62, 28, 27, 36, 44, 6, 55, 20, 3, 10, 43, 25, 39, 41, 45, 15, 21, 8, 18, 2, 61, 56, 14]

def kLane (s : List W64) (i : Nat) : W64 := (s[i]?).getD 0

/-- One round. -/
def kRound (s : List W64) (rc : W64) : List W64 :=
  let c := (List.range 5).map fun x => kLane s x ^^^ kLane s (x + 5) ^^^ kLane s (x + 10) ^^^ kLane s (x + 15) ^^^ kLane s (x + 20)
  let d := (List.range 5).map fun x => kLane c ((x + 4) % 5) ^^^ (kLane c ((x + 1) % 5)).rotateLeft 1
  let a := (List.range 25).map fun i => kLane s i ^^^ kLane d (i % 5)
  let b := (List.range 25).map fun i =>
    let x := i % 5
    let j := (x + 3 * (i / 5)) % 5 + 5 * x
    (kLane a j).rotateLeft ((kRot[j]?).getD 0)
  let e := (List.range 25).map fun i =>
    let y := i / 5 * 5
    kLane b i ^^^ (~~~(kLane b (y + (i % 5 + 1) % 5)) &&& kLane b (y + (i % 5 + 2) % 5))
  match e with
  | l :: r => (l ^^^ rc) :: r
  | [] => []

/-- The permutation of 24 rounds. -/
def keccakF (s : List W64) : List W64 := kRounds.foldl kRound s

/-- One block of 136 bytes absorbed. -/
def kAbsorb (s : List W64) (blk : Bytes) : List W64 :=
  keccakF ((List.range 25).map fun i => if i < 17 then kLane s i ^^^ BitVec.ofNat 64 (ofLe ((blk.drop (8 * i)).take 8)) else kLane s i)

/-- The message with its padding, a multiple of 136 bytes. -/
def kPad (m : Bytes) : Bytes :=
  let q := 136 - m.length % 136
  if q = 1 then m ++ [0x9F] else m ++ [0x1F] ++ List.replicate (q - 2) 0 ++ [0x80]

/-- SHAKE256 with `n` bytes of output, at most 136. -/
def shake256 (m : Bytes) (n : Nat) : Bytes :=
  let p := kPad m
  let s := (chunks 136 (p.length / 136 + 1) p).foldl kAbsorb (List.replicate 25 0)
  ((s.take 17).flatMap fun l => leBytes 8 l.toNat).take n

end Sys2Proof.Machine
end

