-- ==== Sys2Proof/Machine/Ports.lean ====
section
/-! DEFINITION. Machine/Ports.lean: the core's port: posting operations to the mover, the KPM and the TXU, their completion,
and the failing of an attempt (R103, R133, R136, R218, R227). -/

namespace Sys2Proof.Machine

open Sys2Proof

/-- The first error of an attempt fails it (R218): the sequencers place no more of its records, what it staged in regions is
discarded, CSQ.FIRST_ERR keeps the error and ATTEMPT_FAULT is raised (R120). What other blocks staged goes at the edge
(log entry 19). -/
def State.attemptFault (s : State) (p cluster step : Nat) (err : Err) (op : Nat) : State :=
  let s1 := s.modCtx p fun c =>
    { c with fails := if c.fails.any (fun f => f.1 == step) then c.fails else c.fails ++ [(step, err)],
             staged := c.staged.filter fun g => g.step != step }
  (s1.modSeq cluster fun q => { q with firstErr := if q.firstErr.isNone then some (err, op) else q.firstErr }).raise
    (pk tCSQ cluster) 0

/-- Units that a port posts to: a tile's mover, a tile's KPM, a cluster's TXU. -/
def uMover (t : Nat) : Nat := t
def uKpm (t : Nat) : Nat := 64 + t
def uTxu (c : Nat) : Nat := 128 + c

/-- A descriptor accepted by a mover: its number; none where the mover holds 1,024 (R135). -/
def State.postMover (s : State) (t : Nat) (src : Src) (p ctx step attempt layer : Nat) (raw : Desc) : Option (Nat × State) :=
  let m := s.mover t
  if 1024 ≤ m.descs.length then none
  else some (m.nextId, s.modMover t fun m =>
    { m with nextId := m.nextId + 1,
             descs := m.descs ++ [MDesc.new m.nextId src p ctx (s.part p).gen step attempt layer raw] })

/-- An operation accepted by a KPM; none where it holds 8,192 (Table 10.6). -/
def State.postKpm (s : State) (t : Nat) (src : Src) (core p ctx step attempt layer : Nat) (raw : Desc) : Option (Nat × State) :=
  let m := s.kpm t
  if 8192 ≤ m.ops.length then none
  else some (m.nextId, s.modKpm t fun m =>
    { m with nextId := m.nextId + 1,
             ops := m.ops ++ [⟨m.nextId, src, core, p, ctx, (s.part p).gen, step, attempt, layer, raw, .accepted, none, false, [], false⟩] })

/-- An operation accepted by a TXU (R261). -/
def State.postTxu (s : State) (c core : Nat) (ctr : Option Nat) (p step attempt layer : Nat) (raw : Desc) : Nat × State :=
  let m := s.txu c
  (m.nextId, s.modTxu c fun m =>
    { m with nextId := m.nextId + 1,
             ops := m.ops ++ [⟨m.nextId, core, ctr, p, (s.part p).gen, step, attempt, layer, raw, .accepted, 0, 0⟩] })

/-- The KPM an operation names in HOME (Table 11.3). -/
def kpmHome (raw : Desc) : Nat := bits raw 18 16

/-- Post to port 0 the mover, 1 the KPM, 2 the TXU: the unit and the operation's number; none where it has no room. -/
def State.post (s : State) (port k : Nat) (ctr : Option Nat) (q : QRec) (raw : Desc) : Option ((Nat × Nat) × State) :=
  let a := s.accOf k q
  match port with
  | 0 => (s.postMover (coreTile k) (.port k ctr) a.part a.ctx q.step q.attempt q.layer raw).map fun r => ((uMover (coreTile k), r.1), r.2)
  | 1 => (s.postKpm (kpmHome raw) (.port k ctr) k a.part a.ctx q.step q.attempt q.layer raw).map fun r => ((uKpm (kpmHome raw), r.1), r.2)
  | _ => let r := s.postTxu (coreCluster k) k ctr a.part q.step q.attempt q.layer raw
         some ((uTxu (coreCluster k), r.1), r.2)

/-- The completion of an operation reaches who posted it: the port record is done; or the counter that POST named is signalled
by 1 at device scope (R136, Table 5.10), and an error fails the attempt. An operation of a discarded attempt (`stale`) signals
nothing (R138). -/
def State.postDone (s : State) (src : Src) (unit id p step : Nat) (err : Option Err) (stale : Bool) : State :=
  match src with
  | .port k none => s.setExecs k 7 ((s.execs k 7).map fun x =>
      if x.port = some (unit, id) then { x with done := true, err := err } else x)
  | .port k (some ctr) =>
    if stale then s else
    match err with
    | none => s.addDc k (ctr % 64) 1 true
    | some e => s.attemptFault p (coreCluster k) step e 0xFFFFFFFF
  | _ => s

/-- The inline descriptor of a port record: bytes 16 to 79 (R103). -/
def portDesc (r : Rec) : Desc := BitVec.ofNat 512 (bits r 639 128)

/-- A port record posts its inline descriptor, at most 64 at once (R103); without room at the unit it stalls (R227). -/
def State.portRecord (s : State) (k op port : Nat) : Out :=
  match s.ready k 7 with
  | none => .next s
  | some q =>
    if recOpcode q.bits ≠ op ∨ 64 ≤ (s.execs k 7).length then .next s
    else match (s.predOf k q.bits).1, s.post port k none q (portDesc q.bits) with
      | .run, none => .next s
      | .run, some r => .next (((r.2.start k 7 ⟨q, false, none, some r.1, false⟩).predOf k q.bits).2.progressOf (pk tCORE k) 7 1)
      | _, _ => .next (s.startRecord k 7 q id)

/-- PORT_MOVER (R103, R133). -/
def execPortMover (core : Nat) (s : State) : Out := s.portRecord core 0x40 0

/-- PORT_KPM (R103, R238). -/
def execPortKpm (core : Nat) (s : State) : Out := s.portRecord core 0x41 1

/-- PORT_TXU (R103, R261). -/
def execPortTxu (core : Nat) (s : State) : Out := s.portRecord core 0x42 2

end Sys2Proof.Machine
end

