-- ==== Sys2Proof/Machine/Mover.lean ====
section
/-! DEFINITION. Machine/Mover.lean: the movers: descriptors, segments, tier and remote legs, completion, and the steward's
queue (R133 to R141, R146, R152, R154). A steward descriptor's addresses are physical (log entry 24). -/

namespace Sys2Proof.Machine

open Sys2Proof

/-- A mover descriptor's fields (Table 6.3). -/
structure MvP where
  op : Nat
  flags : Nat
  esize : Nat
  rows : Nat
  src : Nat
  dst : Nat
  aux : Nat
  len : Nat
  ss : Nat
  ds : Nat
deriving DecidableEq, Repr

def mvOf (d : Desc) : MvP :=
  { op := byteFld d 0 1, flags := byteFld d 1 1, esize := byteFld d 2 1, rows := byteFld d 4 4, src := byteFld d 8 8,
    dst := byteFld d 16 8, aux := byteFld d 24 8, len := byteFld d 32 4, ss := byteFld d 36 4, ds := byteFld d 40 4 }

/-- Which operations a source may post (Table 6.4). -/
def mvAllowed (src : Src) (op : Nat) : Bool :=
  match src with
  | .port _ _ => decide (1 ≤ op ∧ op ≤ 5)
  | .kpm _ _ => op == 1 || op == 5
  | .steward => decide (1 ≤ op ∧ op ≤ 7)
  | .mover _ _ | .txu _ _ => false

/-- Whether an address operand a descriptor uses is well formed: SPACE 0b10 names a core's buffer, so only a core may use it. -/
def mvAo (src : Src) (ao : Nat) : Bool :=
  match src with
  | .port _ _ => aoSpace ao == 1 || (aoSpace ao == 2 && aoOk ao)
  | _ => aoSpace ao == 1

/-- A descriptor breaks a rule of Table 6.3 or 6.4 as it runs (R133, R134); its reserved fields are ignored (R13). ROWS and LEN outside
their ranges break one (log entry 74). -/
def mvBad (src : Src) (d : Desc) : Bool :=
  let m := mvOf d
  let usesSrc := decide (m.op ≤ 4) || m.op == 7
  !mvAllowed src m.op || (m.op == 4 && decide (2 < m.esize))
    || m.rows == 0 || decide (2 ^ 24 < m.rows) || m.len == 0 || decide (2 ^ 24 < m.len)
    || (m.op == 5 && m.len % 8 != 0) || (usesSrc && !mvAo src m.src) || !mvAo src m.dst
    || ((m.op == 2 || m.op == 3) && !mvAo src m.aux)

/-- Bytes of a source row, segments of a row, and segments of a descriptor: at most 4 KiB each (R135). -/
def MvP.rowBytes (m : MvP) : Nat := if m.op = 4 then m.len * 2 ^ m.esize else m.len
def MvP.perRow (m : MvP) : Nat := (m.rowBytes + 4095) / 4096
def MvP.segs (m : MvP) : Nat := m.rows * m.perRow
/-- Row, offset within the row and length of segment `i`. -/
def MvP.row (m : MvP) (i : Nat) : Nat := i / m.perRow
def MvP.inRow (m : MvP) (i : Nat) : Nat := 4096 * (i % m.perRow)
def MvP.segLen (m : MvP) (i : Nat) : Nat := min 4096 (m.rowBytes - m.inRow i)

/-- The list entry that skips a row of a SCATTER or zeroes one of a GATHER. -/
def listNone : Nat := 0xFFFFFFFF

/-- What a MIGRATE moves whatever its ROWS and LEN: one page of 2 MiB (Table 6.4). -/
def MvP.shape (m : MvP) : MvP := if m.op = 7 then { m with rows := 1, len := 2 ^ 21 } else m

/-- What row `i` of a descriptor moves, by its list entry: nothing, zeros, or the row of an index. -/
inductive RowOf where
  | skip
  | zero
  /-- its list entry read poisoned: a GATHER's destination row is poisoned, a SCATTER's is not known -/
  | lost
  | at (j : Nat)
deriving DecidableEq, Repr

def MvP.rowOf (m : MvP) (list : List (Option Nat)) (r : Nat) : RowOf :=
  if m.op = 2 ∨ m.op = 3 then
    match (list[r]?).getD none with
    | none => .lost
    | some j => if j = listNone then (if m.op = 2 then .zero else .skip) else .at j
  else .at r

/-- Offset of a segment's source from SRC; none where it reads nothing. -/
def MvP.srcOff (m : MvP) (list : List (Option Nat)) (i : Nat) : Option Nat :=
  if m.op = 5 ∨ m.op = 6 then none
  else match m.rowOf list (m.row i) with
    | .at j => some ((if m.op = 2 then j else m.row i) * m.ss + m.inRow i)
    | _ => none

/-- Where a segment's bytes go (Table 6.4): the offset from DST, and which of the segment's bytes, from one up to another. -/
def MvP.dests (m : MvP) (list : List (Option Nat)) (i : Nat) : List (Nat × Nat × Nat) :=
  let n := m.segLen i
  match m.op with
  | 3 => match m.rowOf list (m.row i) with
    | .at j => [(j * m.ds + m.inRow i, 0, n)]
    | _ => []
  | 4 =>
    let es := 2 ^ m.esize
    (List.range (n / es)).map fun e => ((m.inRow i / es + e) * m.ds + m.row i * es, e * es, e * es + es)
  | _ => [(m.row i * m.ds + m.inRow i, 0, n)]

/-- The bytes of a segment with no source: the fill pattern, or zeros. -/
def MvP.fixed (m : MvP) (i : Nat) : Bytes :=
  if m.op = 5 then (List.range (m.segLen i)).map fun b => BitVec.ofNat 8 (nbits m.aux (8 * (b % 8) + 7) (8 * (b % 8)))
  else List.replicate (m.segLen i) 0

/-- Source ranges of a descriptor whose overlap with the destination leaves bytes unspecified (R136): GATHER, SCATTER, TRANSPOSE. -/
def MvP.srcRanges (m : MvP) (list : List (Option Nat)) : List (Nat × Nat) :=
  if decide (2 ≤ m.op ∧ m.op ≤ 4) && aoSpace m.src == aoSpace m.dst then
    (List.range m.segs).filterMap fun i => (m.srcOff list i).map fun o => (aoAddr m.src + o, m.segLen i)
  else []

/-! ### Descriptors of a mover -/

/-- A descriptor of a mover. -/
def State.mdesc (s : State) (t id : Nat) : Option MDesc := (s.mover t).descs.find? fun d => d.id == id
def State.modDesc (s : State) (t id : Nat) (f : MDesc → MDesc) : State :=
  s.modMover t fun m => { m with descs := m.descs.map fun d => if d.id = id then f d else d }

/-- The accesses of a descriptor; one whose signal was dropped is of a discarded attempt (R138). -/
def mvAcc (t : Nat) (d : MDesc) : Acc :=
  let core := match d.src with | .port k _ => k | _ => 0
  ⟨d.part, d.ctx, some d.step, t, core, d.noSignal⟩

def isSteward (d : MDesc) : Bool := match d.src with | .steward => true | _ => false

/-- A descriptor's first error stands, with the segment it arose at. -/
def MDesc.note (e : Err) (seg : Nat) (d : MDesc) : MDesc := if d.err.isSome then d else { d with err := some e, errSeg := seg }

/-- It ends with an error: nothing more of it is issued. -/
def MDesc.fail (e : Err) (seg : Nat) (d : MDesc) : MDesc := { d.note e seg with st := .done }

/-! ### Pieces of work -/

/-- A piece: what it reads goes to `key` of the buffer; `wr` is what it writes, with the poisoned bytes; a row of 32 B or less of a GATHER's
source or a SCATTER's destination may go over the crumb path (R137). -/
structure MvJob where
  key : Nat
  ao : Nat
  off : Nat
  len : Nat
  crumb : Bool
  wr : Option (Bytes × List Nat)
deriving DecidableEq, Repr

/-- What a descriptor's buffer holds from `key` to the end of its segment: bytes and the poisoned among them. -/
def bufAt (b : Tbl (Bytes × List Nat)) (seg : Nat) : Bytes × List Nat :=
  (b.filter fun e => e.1 / 4096 == seg).foldl (fun acc e => (acc.1 ++ e.2.1, acc.2 ++ e.2.2.map (· + acc.1.length))) ([], [])

/-- A list of `n` bytes or more cut at 4 KiB. -/
def bufAll (b : Tbl (Bytes × List Nat)) : Bytes × List Nat :=
  b.foldl (fun acc e => (acc.1 ++ e.2.1, acc.2 ++ e.2.2.map (· + acc.1.length))) ([], [])

/-- The data of segment `i` as it is to be written. -/
def MDesc.dataOf (d : MDesc) (m : MvP) (i : Nat) : Bytes × List Nat :=
  match m.srcOff d.list i with
  | some _ => bufAt d.buf i
  | none => (m.fixed i, if m.rowOf d.list (m.row i) = .lost then List.range (m.segLen i) else [])

/-- The pieces of a descriptor's phase (R135 to R137): its list, its source, its destination, or what a SCRUB reads back. -/
def MDesc.jobs (d : MDesc) (crumbs : Bool) : List MvJob :=
  let m := (mvOf d.raw).shape
  let short := crumbs && decide (m.len ≤ 32)
  match d.phase with
  | 0 =>
    if m.op = 2 ∨ m.op = 3 then
      (List.range ((4 * m.rows + 4095) / 4096)).map fun i => ⟨4096 * i, m.aux, 4096 * i, min 4096 (4 * m.rows - 4096 * i), false, none⟩
    else []
  | 1 => (List.range m.segs).filterMap fun i => (m.srcOff d.list i).map fun o => ⟨4096 * i, m.src, o, m.segLen i, short && m.op == 2, none⟩
  | 2 => (List.range m.segs).flatMap fun i =>
      let x := d.dataOf m i
      (m.dests d.list i).map fun w => ⟨4096 * i, m.dst, w.1, w.2.2 - w.2.1, short && m.op == 3,
        some ((x.1.drop w.2.1).take (w.2.2 - w.2.1), (x.2.filter fun o => decide (w.2.1 ≤ o ∧ o < w.2.2)).map (· - w.2.1))⟩
  | _ => if m.op = 6 then (List.range m.segs).map fun i => ⟨4096 * i, m.dst, m.row i * m.ds + m.inRow i, m.segLen i, false, none⟩ else []

/-- What becomes of a piece: it is done or asked for; it waits for credit or for a page that migrates; or it ends the descriptor. -/
inductive MvRes where
  | ok (s : State)
  | stall
  | fail (e : Err) (s : State)
deriving DecidableEq, Repr

/-- Then the next. -/
def MvRes.andThen (r : MvRes) (f : State → MvRes) : MvRes :=
  match r with
  | .ok s => f s
  | r => r

/-- Where a range of an operand lies: what the mover reaches at once (the store, the poster's core buffer, or an address that fails),
a tier unit, or another module. -/
inductive Spot where
  | here
  | tier (u off : Nat) (encVa : Option Nat)
  | remote (l : Leaf) (home : Nat)
deriving DecidableEq, Repr

def State.spotOf (s : State) (t : Nat) (d : MDesc) (ao at_ n : Nat) (wr : Bool) : Spot :=
  if isSteward d then
    if inTier at_ && inTier (at_ + n - 1) then .tier (tierKeyOf at_) (at_ - unitBase (tierKeyOf at_)) none else .here
  else if aoSpace ao ≠ 1 then .here
  else
    let a := mvAcc t d
    match s.lookup a.part a.ctx at_ wr with
    | .ok l pa =>
      if l.target = 4 then .remote l pa
      else if 1 ≤ l.target ∧ l.target ≤ 3 ∧ inTier pa then
        .tier (tierKeyOf pa) (pa - unitBase (tierKeyOf pa)) (if s.enciphers a.part l then some at_ else none)
      else .here
    | .bad _ => .here

/-- The stream a descriptor's tier requests belong to (R157). -/
def mvStream (t : Nat) (d : MDesc) : Nat := if isSteward d then 0 else 1 + d.part * 8 + t

/-- `n` bytes from `a` cut at multiples of `m`. -/
def cutAt (m : Nat) : Nat → Nat → Nat → List (Nat × Nat)
  | 0, _, _ => []
  | f + 1, a, n =>
    if n = 0 then []
    else
      let k := min n (m - a % m)
      (a, k) :: cutAt m f (a + k) (n - k)

/-- A range asked of a tier unit: one request for each 256 B block it touches, or for each 32 B unit over the crumb path (R148, R154).
All are accepted or none. `data` is what a write sends, as the unit stores it. -/
def State.askTier (s : State) (t : Nat) (d : MDesc) (u off n slot : Nat) (encVa : Option Nat) (crumb : Bool)
    (data : Option (Bytes × List Nat)) : Option State :=
  let c := crumb && decide (16 ≤ u)
  (cutAt (if c then 32 else 256) (n / 32 + 2) off n).foldl (fun (acc : Option State) x =>
    let o := x.1 - off
    let wr := data.map fun w => (w.1.drop o).take x.2
    let bad := (data.map fun w => (w.2.filter fun i => decide (o ≤ i ∧ i < o + x.2)).map (· - o)).getD []
    let r : TReq := ⟨t, d.id, mvStream t d, d.part, slot + o, x.1, x.2, wr, bad, c, encVa.map (· + o)⟩
    acc.bind fun s => s.tierAsk u r) (some (s.bump64 (pk tMOVER t) 0x058 n))

/-- One piece of a read, within 64 KiB. Bytes read at once go to the buffer. -/
def State.mvReadPart (s : State) (t : Nat) (d : MDesc) (j : MvJob) (at_ n slot : Nat) : MvRes :=
  let a := mvAcc t d
  let s0 := s.bump64 (pk tMOVER t) 0x048 n
  let keep := fun (b : Bytes) (bad : List Nat) (s : State) =>
    MvRes.ok (s.modDesc t d.id fun x =>
      let x1 := { x with buf := Tbl.set x.buf slot (b, bad) }
      if bad = [] then x1 else x1.note errUncorr (j.key / 4096))
  match s.spotOf t d j.ao at_ n false with
  | .tier u off enc => match s0.askTier t d u off n slot enc j.crumb none with
    | some s1 => .ok s1
    | none => .stall
  | .remote l h =>
    let f := s0.request (.mover t d.id) 0 true false slot d.part l.module (.read h n)
    match f.1 with
    | .sent => .ok f.2
    | .lost e => .fail e f.2
  | .here =>
    if isSteward d then
      if inStore at_ && inStore (at_ + n - 1) then let q := s0.storeRead t at_ n
                                                  keep q.1.1 q.1.2 q.2
      else .fail (errXlat 5) s
    else if aoSpace j.ao = 2 then
      if at_ + n ≤ 2 ^ 23 then let q := s0.cbGet a.core at_ n
                               keep q.1.1 q.1.2 q.2
      else .fail errRuntime s
    else
      let q := s0.readVa .tiers false a at_ n
      match q.1.err with
      | some e => .fail e.err q.2
      | none => keep q.1.data q.1.bad q.2

/-- The granules that hold the bytes `bad` of a write at `at_` are left poisoned (R130). -/
def State.mvPoison (s : State) (t : Nat) (d : MDesc) (ao at_ : Nat) (bad : List Nat) : State :=
  let a := mvAcc t d
  s.each (bad.map fun o => (at_ + o) / 64 * 64).eraseDups fun s g =>
    if isSteward d then s.poisonGranules [g]
    else if aoSpace ao = 2 then s.cbPoison a.core g ((List.range 8).map (8 * ·))
    else match s.lookupFor .store a.part a.ctx (s.readGran a g) true with
      | .ok _ pa => s.poisonGranules [pa]
      | .bad _ => s

/-- Bytes written at an address, those that lie in one of the ranges `rs` replaced by free ones (R136, log entry 5). -/
def State.openOverlap (s : State) (rs : List (Nat × Nat)) (at_ : Nat) (b : Bytes) : Bytes × State :=
  let hit := fun x => rs.any fun r => decide (r.1 ≤ x ∧ x < r.1 + r.2)
  if (List.range b.length).any fun i => hit (at_ + i) then
    let q := s.freshBytes b.length
    ((b.zip q.1).zipIdx.map fun x => if hit (at_ + x.2) then x.1.2 else x.1.1, q.2)
  else (b, s)

/-- An operand's page is MIGRATING, so writes to it stall (R140). -/
def State.mvMigrating (s : State) (t : Nat) (d : MDesc) (ao at_ : Nat) : Bool :=
  if isSteward d || aoSpace ao != 1 then false
  else match s.leafAt (mvAcc t d).part (mvAcc t d).ctx at_ with
    | some l => l.migrating
    | none => false

/-- One piece of a write, within 64 KiB. -/
def State.mvWritePart (s : State) (t : Nat) (d : MDesc) (j : MvJob) (at_ slot : Nat) (b : Bytes) (bad : List Nat) : MvRes :=
  let a := mvAcc t d
  let s0 := s.bump64 (pk tMOVER t) 0x050 b.length
  let poisoned := fun (s : State) => if bad = [] then s else s.mvPoison t d j.ao at_ bad
  if s.mvMigrating t d j.ao at_ then .stall
  else match s.spotOf t d j.ao at_ b.length true with
  | .tier u off enc =>
    let data := match enc with | some va => s.portCipher d.part va b | none => b
    match s0.askTier t d u off b.length slot enc j.crumb (some (data, bad)) with
    | some s1 => .ok s1
    | none => .stall
  | .remote l h =>
    let f := s0.request (.mover t d.id) 0 false false slot d.part l.module (.write h b bad)
    match f.1 with
    | .sent => .ok f.2
    | .lost e => .fail e f.2
  | .here =>
    if isSteward d then
      if inStore at_ && inStore (at_ + b.length - 1) then .ok (poisoned (s0.storeWrite t at_ b)) else .fail (errXlat 5) s
    else if aoSpace j.ao = 2 then
      if at_ + b.length ≤ 2 ^ 23 then .ok (poisoned (s0.cbWrite a.core at_ b)) else .fail errRuntime s
    else
      let o := s0.writeVa .tiers false a at_ b
      match o.1 with
      | some e => .fail e.err o.2
      | none => .ok (poisoned o.2)

/-- The address of a piece. -/
def State.mvAt (d : MDesc) (ao off : Nat) : Nat :=
  if isSteward d || aoSpace ao == 2 then aoAddr ao + off else (aoAddr ao + off) % 2 ^ 49

/-- A piece of a descriptor, cut at 64 KiB: no leaf ends inside a part. A row that goes over the crumb path is counted (Table 6.7). -/
def State.mvJob (s : State) (t : Nat) (d : MDesc) (rs : List (Nat × Nat)) (j : MvJob) : MvRes :=
  let at_ := State.mvAt d j.ao j.off
  let ps := piecesOf at_ j.len
  let crumbs := j.crumb && ps.any fun x => match s.spotOf t d j.ao x.1 x.2 j.wr.isSome with
    | .tier u _ _ => decide (16 ≤ u)
    | _ => false
  let s0 := if crumbs then s.bump (pk tMOVER t) 0x060 1 else s
  match j.wr with
  | none => ps.foldl (fun r x => r.andThen fun s => s.mvReadPart t d j x.1 x.2 (j.key + (x.1 - at_))) (.ok s0)
  | some w =>
    let q := s0.openOverlap rs (aoAddr j.ao + j.off) w.1
    ps.foldl (fun r x => r.andThen fun s =>
      let o := x.1 - at_
      s.mvWritePart t d j x.1 (j.key + o) ((q.1.drop o).take x.2) ((w.2.filter fun i => decide (o ≤ i ∧ i < o + x.2)).map (· - o))) (.ok q.2)

/-! ### Carrying out a descriptor -/

/-- Tier and remote requests of a descriptor that have not been answered to it. -/
def State.mvOutstanding (s : State) (t id : Nat) : Bool :=
  s.ports.any (fun e => e.2.outReqs.any fun q => q.who == .mover t id)
    || s.tiers.any (fun e => e.2.reqs.any fun r => r.tile == t && r.desc == id)
    || (s.mover t).replies.any fun r => r.desc == id

/-- What is left of a descriptor's phase is issued, as far as credit goes; an error ends it. -/
def State.mvIssue (s : State) (t : Nat) (d : MDesc) : State :=
  let jobs := (d.jobs (s.gfe.level != 1)).drop d.pos
  let rs := if d.phase = 2 then ((mvOf d.raw).shape).srcRanges d.list else []
  let r := jobs.foldl (fun (acc : State × Nat × Bool) j =>
    if acc.2.2 then acc
    else match acc.1.mvJob t d rs j with
      | .ok s1 => (s1, acc.2.1 + 1, false)
      | .stall => (acc.1, acc.2.1, true)
      | .fail e s1 => (s1.modDesc t d.id (MDesc.fail e (j.key / 4096)), acc.2.1, true)) (s, d.pos, false)
  (r.1.progress (pk tMOVER t) (r.2.1 - d.pos)).modDesc t d.id fun x => { x with pos := r.2.1 }

/-- The list entries that a buffer spells. -/
def listEntries (rows : Nat) (b : Bytes × List Nat) : List (Option Nat) :=
  (List.range rows).map fun r =>
    if b.2.any fun o => decide (4 * r ≤ o ∧ o < 4 * r + 4) then none else some (ofLe ((b.1.drop (4 * r)).take 4))

/-- Words that a SCRUB reads back wrong, as offsets: not zero, or poisoned. -/
def wrongWords (b : Bytes × List Nat) : List Nat :=
  (List.range ((b.1.length + 7) / 8)).filter fun w =>
    ((b.1.drop (8 * w)).take 8).any (· != 0) || b.2.any fun o => decide (o / 8 = w)

/-- A read-back is over: words that failed are counted and logged (Table 6.4). -/
def State.scrubCheck (s : State) (t : Nat) (d : MDesc) : State :=
  let m := mvOf d.raw
  s.each (List.range m.segs) fun s i =>
    let l := wrongWords (bufAt d.buf i)
    { s.bump (pk tMOVER t) 0x078 l.length with
      stewLog := s.stewLog ++ l.map fun w => .scrubFail (aoAddr m.dst + (m.row i * m.ds + m.inRow i) + 8 * w) }

/-- The phase after one whose pieces are all issued and answered. -/
def MDesc.nextPhase (d : MDesc) : MDesc :=
  let m := mvOf d.raw
  match d.phase with
  | 0 => { d with phase := 1, pos := 0, buf := [], list := if m.op = 2 ∨ m.op = 3 then listEntries m.rows (bufAll d.buf) else [] }
  | 1 => { d with phase := 2, pos := 0 }
  | 2 => if m.op = 6 then { d with phase := 3, pos := 0, buf := [] } else { d with st := .done }
  | _ => { d with st := .done }

/-- A started descriptor goes on as far as it can: list, source, destination, each whole before the next (R136). -/
def State.mvGo (s : State) (t id : Nat) : Nat → State
  | 0 => s
  | n + 1 => match s.mdesc t id with
    | none => s
    | some d =>
      if d.st ≠ .reading then s
      else
        let s1 := s.mvIssue t d
        match s1.mdesc t id with
        | none => s1
        | some d1 =>
          if d1.st ≠ .reading || s1.mvOutstanding t id || decide (d1.pos < (d1.jobs (s1.gfe.level != 1)).length) then s1
          else
            let s2 := if d1.phase = 3 then s1.scrubCheck t d1 else s1
            (s2.modDesc t id MDesc.nextPhase).mvGo t id n

/-- The generation a descriptor was posted under is no longer its partition's. -/
def State.mvStale (s : State) (d : MDesc) : Bool := !isSteward d && d.gen != (s.part d.part).gen

/-- A descriptor of an old generation is over once its last reply is back. -/
def State.mvOver (s : State) (t id : Nat) : State :=
  if s.mvOutstanding t id then s else s.modDesc t id fun x => { x with st := .done, noSignal := true }

/-- Sources by queue: descriptors of one source start in the order they were posted (R136). -/
def srcSame (a b : Src) : Bool :=
  match a, b with
  | .port k _, .port j _ => k == j
  | .kpm k _, .kpm j _ => k == j
  | .steward, .steward => true
  | _, _ => false

/-- Writes to a page that tier units have accepted and not carried out: a MIGRATE of it waits for them (Table 6.5). -/
def State.writesTo (s : State) (src : Nat) : Bool :=
  s.tiers.any fun e => e.2.reqs.any fun r => r.wr.isSome && decide ((unitBase e.1 + r.off) / 2 ^ 21 = src / 2 ^ 21)

/-- A descriptor may start: it is the first of its source not started, and with ORDERED the first not completed. -/
def State.mvMay (s : State) (t : Nat) (d : MDesc) : Bool :=
  let earlier := (s.mover t).descs.takeWhile fun x => x.id != d.id
  d.st == .accepted && (earlier.all fun x => !srcSame x.src d.src || (x.st != .accepted && !(bitOf d.raw 8)))
    && !((mvOf d.raw).op == 7 && s.writesTo (aoAddr (mvOf d.raw).src))

/-- A descriptor starts: one of the steward's queue leaves its head. -/
def State.mvBegin (s : State) (t : Nat) (d : MDesc) : State :=
  let s1 := if d.queued then s.modMover t fun m => { m with pqHead := (m.pqHead + 1) % max 1 (bits (s.rg (pk tMOVER t) 0x298) 12 0) } else s
  s1.modDesc t d.id fun x => { x with st := .reading }

/-- A mover carries out a descriptor of operation `op` (R133 to R140): it starts where it may, or one that waited for credit or for a
page that migrated goes on. One that breaks a rule is done with RUNTIME. -/
def State.mvStart (s : State) (t id op : Nat) : Out :=
  match s.mdesc t id with
  | none => .next s
  | some d =>
    if !s.running || (mvOf d.raw).op != op then .next s
    else if d.st = .reading then .next (if s.mvStale d then s.mvOver t id else s.mvGo t id 5)
    else if !s.mvMay t d then .next s
    else if mvBad d.src d.raw then .next ((s.mvBegin t d).modDesc t id (MDesc.fail errRuntime 0))
    else .next ((s.mvBegin t d).mvGo t id 5)

/-- COPY, GATHER, SCATTER, TRANSPOSE, FILL (Table 6.4). -/
def execCopy (tile id : Nat) (s : State) : Out := s.mvStart tile id 1
def execGather (tile id : Nat) (s : State) : Out := s.mvStart tile id 2
def execScatter (tile id : Nat) (s : State) : Out := s.mvStart tile id 3
def execTranspose (tile id : Nat) (s : State) : Out := s.mvStart tile id 4
def execFill (tile id : Nat) (s : State) : Out := s.mvStart tile id 5

/-- SCRUB (Table 6.4): FILL with zero, then a read back that finds every word as written. -/
def execScrub (tile id : Nat) (s : State) : Out := s.mvStart tile id 6

/-- MIGRATE (R140): a COPY of one page between tier physical addresses, as ciphertext (R355). -/
def execMigrate (tile id : Nat) (s : State) : Out := s.mvStart tile id 7

/-! ### Replies and completion -/

/-- What a poisoned tier reply makes of a descriptor (R130, R140, R152, Table 7.3): a MIGRATE with POISON_OK carries poison. -/
def tierErr (d : MDesc) (r : TRep) : Option Err :=
  if r.down then some errBridgeDown
  else if r.bad = [] then none
  else if (mvOf d.raw).op = 7 then (if bitOf d.raw 9 then none else some ⟨stUNCORR, 0x0103⟩)
  else some errTierPoison

/-- A tier's reply at its descriptor: a read's data, or a write's acknowledgement. -/
def MDesc.takeReply (d : MDesc) (r : TRep) : MDesc :=
  let d1 := match r.data with
    | some b => { d with buf := Tbl.set d.buf r.slot (b, r.bad) }
    | none => d
  match tierErr d r with
  | some e => d1.note e (r.slot / 4096)
  | none => d1

/-- TIER_REPLY (R139, R166): the oldest reply for a descriptor arrives, and the descriptor goes on; under an old generation a read's
data is dropped and counted. -/
def execTierReply (tile id : Nat) (s : State) : Out :=
  match (s.mover tile).replies.find? (·.desc == id) with
  | none => .next s
  | some r =>
    if !s.up then .next s
    else
      let s1 := s.modMover tile fun m => { m with replies := removeFirst (·.desc == id) m.replies }
      match s1.mdesc tile id with
      | none => .next s1
      | some d =>
        if s1.mvStale d then
          .next ((if r.data.isSome then s1.bump (pk tMOVER tile) 0x070 1 else s1).mvOver tile id)
        else .next ((s1.modDesc tile id fun x => x.takeReply r).mvGo tile id 5)

/-- A descriptor has nothing more to do. -/
def State.mvSettled (s : State) (t : Nat) (d : MDesc) : Bool := d.st == .done && !s.mvOutstanding t d.id

/-- A leaf that maps part of the 2 MiB page at tier physical address `src`. -/
def Leaf.inPage (src : Nat) (l : Leaf) : Bool := decide (1 ≤ l.target ∧ l.target ≤ 3 ∧ src ≤ l.addr ∧ l.addr < src + 2 ^ 21)

/-- Every XLAT.MIG register of every translation unit: its page and its offset (Table 16.9). -/
def migRegs : List (Nat × Nat) := (List.range 8).flatMap fun t => (List.range 8).map fun n => (pk tXLAT t, 0x210 + 16 * n)

/-- A page that migrates takes the lowest free XLAT.MIG register of each translation unit (R354). -/
def State.migShow (s : State) (pa : Nat) : State :=
  s.each (List.range 8) fun s t =>
    match (List.range 8).find? fun n => !bitOf (s.rg (pk tXLAT t) (0x210 + 16 * n)) 63 with
    | some n => s.setRg (pk tXLAT t) (0x210 + 16 * n) (pack 64 [⟨42, 21, pa / 2 ^ 21⟩, ⟨63, 63, 1⟩])
    | none => s

/-- The registers that show a page are free again. -/
def State.migClear (s : State) (pa : Nat) : State :=
  s.each migRegs fun s r =>
    if bitOf (s.rg r.1 r.2) 63 && bits (s.rg r.1 r.2) 42 21 == pa / 2 ^ 21 then s.setRg r.1 r.2 0 else s

/-- The page tables point at the new page of a completed MIGRATE, cached translations go, and writes to it are released
(Table 6.5); of one that failed, they stay at the old page. -/
def State.repoint (s : State) (src dst : Nat) : State :=
  let s := s.migClear src
  let fix := fun (l : Leaf) => if l.inPage src then { l with addr := dst + (l.addr - src), migrating := false } else l
  { s with parts := s.parts.map fun e => (e.1, { e.2 with leaves := e.2.leaves.map fix }),
           xlats := s.xlats.map fun e => (e.1, { e.2 with cache := e.2.cache.filter fun x => !(x.leaf.any fun l => l.inPage src) }) }

/-- A tier physical address's page in its unit. -/
def pageAt (pa : Nat) : Nat := (pa - unitBase (tierKeyOf pa)) / 2 ^ 21

/-- The end of a MIGRATE (Table 6.5): the tables point at the new page and the old one is retired and logged. One that failed leaves
the old page in service, its new page free again, and asks for retirement anew (log entry 75). -/
def State.migrated (s : State) (d : MDesc) (err : Option Err) : State :=
  let m := mvOf d.raw
  let src := aoAddr m.src
  let dst := aoAddr m.dst
  match err with
  | none =>
    let s1 := (s.repoint src dst).retirePage (tierKeyOf src) (pageAt src)
    { s1 with stewLog := s1.stewLog ++ [.retirement src] }
  | some e =>
    let s1 := (s.repoint src src).modBack (backKey (tierKeyOf dst) (pageAt dst)) fun _ => Backing.zero
    let s2 := s1.modTier (tierKeyOf src) fun t => { t with retireReq := t.retireReq ++ [1024 * pageAt src] }
    if e.st = stUNCORR then { s2 with stewLog := s2.stewLog ++ [.migratePoison src] } else s2

/-- A copy that a KPM posted is complete: the operation that waits for it keeps the first error. -/
def State.kpmCopyDone (s : State) (t op : Nat) (err : Option Err) : State :=
  s.modKpm t fun k => { k with ops := k.ops.map fun o => if o.id = op && o.err.isNone then { o with err := err } else o }

/-! ### The steward's queue (R133, R135, Table 6.7) -/

/-- Entries of the steward queue from the first not posted up to the tail, accepted while the mover has room. -/
def State.pqPost (s : State) (t : Nat) : Nat → State
  | 0 => s
  | n + 1 =>
    let size := max 1 (bits (s.rg (pk tMOVER t) 0x298) 12 0)
    let at_ := (s.mover t).pqNext
    if at_ = bits (s.rg (pk tMOVER t) 0x2A0) 12 0 then s
    else
      let q := s.storeRead t (64 * bits (s.rg (pk tMOVER t) 0x290) 34 6 + 64 * at_) 64
      match q.2.postMover t .steward 32 0 0 0 0 (BitVec.ofNat 512 (ofLe q.1.1)) with
      | none => s
      | some r => ((r.2.modDesc t r.1 fun d => { d with queued := true }).modMover t fun m => { m with pqNext := (at_ + 1) % size }).pqPost t n

/-- PQ_TAIL (Table 6.7): a tail within the queue posts the entries up to it; another is ignored (R440). -/
def execPqTail (tile : Nat) (v : W64) (s : State) : Out :=
  let pg := pk tMOVER tile
  let size := bits (s.rg pg 0x298) 12 0
  let tail := bits v 12 0
  if !s.up || decide (8 ≤ tile) then .next s
  else if size ≤ tail then .next s
  else .next ((s.setRg pg 0x2A0 (BitVec.ofNat 64 tail)).pqPost tile size)

/-- DESCRIPTOR_COMPLETE (R136): the descriptor leaves the mover and signals whoever posted it, as a release at device scope. A
posted descriptor that breaks a rule, and so starts under no operation, completes here with RUNTIME. Room in the mover lets the
steward's queue go on (R135). -/
def execDescriptorComplete (tile id : Nat) (s : State) : Out :=
  match s.mdesc tile id with
  | none => .next s
  | some d =>
    let malformed := s.mvMay tile d && mvBad d.src d.raw
    if !s.up || !(s.mvSettled tile d || malformed) then .next s
    else
      let err := if malformed && d.err.isNone then some errRuntime else d.err
      let pg := pk tMOVER tile
      let done := if isSteward d then 1 else 0
      let s0 := if malformed then s.mvBegin tile d else s
      let s1 := (s0.modMover tile fun m =>
        { m with descs := m.descs.filter (fun x => x.id != id), pqDone := m.pqDone + done }).bump pg 0x040 1
      let s2 := match err with
        | none => s1
        | some e =>
          let c := if e.st = stTRANSLATION then s1.bump pg 0x068 1 else if e.st = stUNCORR then s1.bumpHi pg 0x068 1 else s1
          c.modMover tile fun m => if m.errSet then m else
            { m with errSet := true, firstErr := pack 64 [⟨39, 8, 4096 * d.errSeg⟩, ⟨4, 0, d.part⟩], firstStat := pack 64 [⟨15, 0, e.st.toNat⟩] }
      let s3 := if (mvOf d.raw).op = 7 && !malformed then s2.migrated d err else s2
      let s4 := match d.src with
        | .kpm t op => s3.kpmCopyDone t op err
        | _ => s3.postDone d.src (uMover tile) id d.part d.step err d.noSignal
      .next (s4.pqPost tile (bits (s.rg pg 0x298) 12 0))

end Sys2Proof.Machine
end

