-- ==== Sys2Proof/Machine/Vector.lean ====
section
/-! DEFINITION. Machine/Vector.lean: the vector unit: element operations, functions, reductions, selection, draws,
conversions, the fused residual add and sampling (R102 to R112). -/

namespace Sys2Proof.Machine

open Sys2Proof

/-- The body of a vector record (Table 5.6). -/
structure VecP where
  srcA : Nat
  srcB : Nat
  srcC : Nat
  dst : Nat
  dst2 : Nat
  strA : Nat
  strB : Nat
  strC : Nat
  strD : Nat
  strD2 : Nat
  len : Nat
  rows : Nat
  fmtA : Nat
  fmtB : Nat
  fmtC : Nat
  conv : Nat
  sub : Nat
  imm0 : Nat
  imm1 : Nat
deriving DecidableEq, Repr

def vecOf (r : Rec) : VecP :=
  { srcA := byteFld r 16 8, srcB := byteFld r 24 8, srcC := byteFld r 32 8, dst := byteFld r 40 8, dst2 := byteFld r 48 8,
    strA := byteFld r 56 4, strB := byteFld r 60 4, strC := byteFld r 64 4, strD := byteFld r 68 4, strD2 := byteFld r 72 4,
    len := byteFld r 76 4, rows := byteFld r 80 4, fmtA := byteFld r 84 1 % 16, fmtB := byteFld r 84 1 / 16,
    fmtC := byteFld r 85 1 % 16, conv := byteFld r 86 1, sub := byteFld r 87 1, imm0 := byteFld r 88 4, imm1 := byteFld r 92 4 }

/-- What a row gives: the events it counted, and the places of the elements whose conversion overflowed. -/
structure RowEv where
  ev : Ev
  ocs : List Nat
deriving DecidableEq, Repr

/-- What a row of a record gives: an error, or its events. -/
abbrev RowRes := Except Flt RowEv

/-- Events of a row's arithmetic beside those of its conversion. -/
def RowEv.with (r : RowEv) (e : Ev) (ocs : List Nat) : RowEv := ⟨e.plus r.ev, ocs ++ r.ocs⟩

/-- A row that counted nothing. -/
def RowEv.none : RowEv := ⟨Ev.zero, []⟩

/-- Bytes at an operand, poison and translation turned into errors (R130). -/
def State.vread (s : State) (a : Acc) (ao off n : Nat) : Except Flt Bytes × State :=
  let q := s.readOp true a ao off n
  (q.1.use (aoAddr ao + off), q.2)

/-- A row of a binary-format operand, widened to FP32 exactly (R67, R102). Only operand A has a scale plane, so a BSI format here ends
the record (log entry 74). -/
def State.vrow (s : State) (a : Acc) (ao stride fmt r len : Nat) : Except Flt (List FVal) × State :=
  if bsiBits fmt ≠ 0 then (.error ⟨errRuntime, aoAddr ao⟩, s) else
  let q := s.vread a ao (r * stride) (len * elemBytes fmt)
  (q.1.map (decodeElems fmt len), q.2)

/-- A row of operand A: a binary format, or BSI with SRC_B as its scale plane (R102). A BSI element outside the FP32 normal range is
kept as it is (log entry 77). -/
def State.vrowA (s : State) (a : Acc) (v : VecP) (r : Nat) : Except Flt (List FVal) × State :=
  let b := bsiBits v.fmtA
  if b = 0 then s.vrow a v.srcA v.strA v.fmtA r v.len
  else
    let q := s.vread a v.srcA (r * v.strA) (v.len / 32 * (4 * b))
    match q.1 with
    | .error e => (.error e, q.2)
    | .ok eb =>
      let q2 := q.2.vread a v.srcB (r * v.strB) (v.len / 32)
      match q2.1 with
      | .error e => (.error e, q2.2)
      | .ok sb =>
        let vals := (List.range v.len).map fun i =>
          bsiDecode (bsiElem b (ofLe ((eb.drop (i / 32 * (4 * b))).take (4 * b))) (i % 32)) ((sb[i / 32]?).getD 0).toNat
        (.ok vals, q2.2)

/-- A row written through CONV at DST; a BSI destination's scales go to DST2, and given scales come from SRC_B, or from
SRC_C where SRC_B holds the source's scales (log entry 15). -/
def State.vput (s : State) (a : Acc) (v : VecP) (r : Nat) (vals : List FVal) : RowRes × State :=
  let given : Except Flt Bytes × State :=
    if bsiBits (convDst v.conv) ≠ 0 ∧ convScaleGiven v.conv then
      (if bsiBits v.fmtA = 0 then s.vread a v.srcB (r * v.strB) ((vals.length + 31) / 32)
       else s.vread a v.srcC (r * v.strC) ((vals.length + 31) / 32))
    else (.ok [], s)
  match given.1 with
  | .error e => (.error e, given.2)
  | .ok sc =>
    let o := convRow v.conv (sc.map (·.toNat)) vals
    let w := given.2.writeOp a v.dst (r * v.strD) o.elems
    match w.1 with
    | some e => (.error e, w.2)
    | none =>
      if o.scales = [] then (.ok ⟨o.ev, o.ocs⟩, w.2)
      else
        let w2 := w.2.writeOp a v.dst2 (r * v.strD2) o.scales
        match w2.1 with
        | some e => (.error e, w2.2)
        | none => (.ok ⟨o.ev, o.ocs⟩, w2.2)

/-- Numeric events of the vector unit counted (Table 5.13). -/
def State.vecEvents (s : State) (k : Nat) (e : Ev) : State :=
  let pg := pk tVEC k
  (((s.bumpEv pg 0x060 e.inv).bumpEvHi pg 0x060 e.dz).bumpEv pg 0x068 e.ovf).bumpEvHi pg 0x068 e.fl

/-- A record whose overflowing conversions are triggers on the output axis: VEC_ELT, VEC_CONV and VEC_RESADD (Table 13.2). -/
def vecTriggering (op : Nat) : Bool := op == 0x20 || op == 0x25 || op == 0x26

/-- The overflow triggers of a row (Table 13.2), one for each element that overflowed. -/
def State.rowTriggers (s : State) (a : Acc) (q : QRec) (r : Nat) (ocs : List Nat) : State :=
  if vecTriggering (recOpcode q.bits) then
    s.each ocs fun s i => s.overflow a.part ⟨q.step, q.attempt, 2, 2, q.layer, q.opidx.toNat, 0x8000 + a.core, i % 65536, r⟩
  else s

/-- A record whose LEN, ROWS or formats Table 5.6 does not allow, or BSI input of a LEN that is no multiple of 32, ends when it runs
(R102, R203, log entry 74). -/
def VecP.rangeOk (v : VecP) : Bool :=
  decide (1 ≤ v.len ∧ v.len ≤ 2 ^ 24) && decide (1 ≤ v.rows ∧ v.rows ≤ 2 ^ 20) && (bsiBits v.fmtA == 0 || v.len % 32 == 0)

/-- Each row in order; the first error ends the record. Elements count in the statistic at `slot` (Table 5.13), and
progress advances by one for each group of 2,048 (R400). -/
def State.eachRow (s : State) (a : Acc) (q : QRec) (slot : Nat) (f : Nat → State → RowRes × State) : Option Flt × State :=
  let v := vecOf q.bits
  if !v.rangeOk then (some ⟨errRuntime, 0⟩, s)
  else (List.range v.rows).foldl (fun acc r =>
    match acc.1 with
    | some e => (some e, acc.2)
    | none =>
      let x := f r acc.2
      match x.1 with
      | .error e => (some e, x.2)
      | .ok ev => (none, (x.2.vecEvents a.core ev.ev).rowTriggers a q r ev.ocs))
    (none, (if slot = 0 then s else s.bump64 (pk tVEC a.core) slot (v.rows * v.len)).progress (pk tVEC a.core) ((v.rows * v.len + 2047) / 2048))

/-- Values and events of a list of element results. -/
def sumEv (l : List (FVal × Ev)) : List FVal × Ev := (l.map (·.1), evsOf l)

/-! ### VEC_ELT (Table 5.4, R105) -/

/-- One element of a VEC_ELT function in FP32. -/
def eltFn (sub : Nat) (imm0 imm1 a b c : FVal) : FVal × Ev :=
  match sub with
  | 0x00 => fadd a b
  | 0x01 => fadd a b.neg
  | 0x02 => fmul a b
  | 0x03 => roundVec fp32 false (exactFma a b c)
  | 0x04 => (fmin a b, Ev.zero)
  | 0x05 => (fmax a b, Ev.zero)
  | 0x06 => (a.abs, Ev.zero)
  | 0x07 => (a.neg, Ev.zero)
  | 0x08 => roundVec fp32 false (exactFma a imm0 imm1)
  | 0x09 => (if flt a b then .fin false 1 0 else .fin false 0 0, Ev.zero)
  | _ => (if c.isZero then b else a, Ev.zero)

/-- One element of a packed function: exact, rounded once to BF16 in the mode RND selects (R105). -/
def packedFn (sub : Nat) (tz : Bool) (a b c : FVal) : FVal × Ev :=
  match sub with
  | 0x00 => roundVec bf16 tz (exactAdd a b)
  | 0x01 => roundVec bf16 tz (exactAdd a b.neg)
  | 0x02 => roundVec bf16 tz (exactMul a b)
  | 0x03 => roundVec bf16 tz (exactFma a b c)
  | 0x04 => (fmin a b, Ev.zero)
  | _ => (fmax a b, Ev.zero)

/-- Whether a function reads B, and C. -/
def eltUsesB (sub : Nat) : Bool := decide (sub ≤ 5) || sub == 9 || sub == 10
def eltUsesC (sub : Nat) : Bool := sub == 3 || sub == 10

/-- A record runs packed (R105). -/
def eltPacked (v : VecP) : Bool :=
  decide (v.sub ≤ 5) && v.fmtA == 1 && (!eltUsesB v.sub || v.fmtB == 1) && (!eltUsesC v.sub || v.fmtC == 1) && convDst v.conv == 1

/-- One row of a VEC_ELT record. -/
def State.eltRow (s : State) (a : Acc) (v : VecP) (r : Nat) : RowRes × State :=
  let qa := s.vrowA a v r
  match qa.1 with
  | .error e => (.error e, qa.2)
  | .ok as =>
    let qb := if !eltUsesB v.sub then (.ok as, qa.2)
      else if bsiBits v.fmtA ≠ 0 then (.error ⟨errRuntime, aoAddr v.srcB⟩, qa.2)
      else qa.2.vrow a v.srcB v.strB v.fmtB r v.len
    match qb.1 with
    | .error e => (.error e, qb.2)
    | .ok bs =>
      let qc := if eltUsesC v.sub then qb.2.vrow a v.srcC v.strC v.fmtC r v.len else (.ok as, qb.2)
      match qc.1 with
      | .error e => (.error e, qc.2)
      | .ok cs =>
        let abc := as.zip (bs.zip cs)
        let f := fun (x : FVal × FVal × FVal) =>
          if eltPacked v then packedFn v.sub (convTz v.conv) x.1 x.2.1 x.2.2
          else eltFn v.sub (fp32.decode v.imm0) (fp32.decode v.imm1) x.1 x.2.1 x.2.2
        let o := sumEv (abc.map f)
        let w := qc.2.vput a v r o.1
        (w.1.map fun e => e.with o.2 [], w.2)

/-- VEC_ELT (R102, R105, R106). A SUB with no function is a record that breaks a rule when it runs (R203, log entry 74). -/
def execVecElt (core : Nat) (s : State) : Out :=
  s.runRecord core 4 0x20 fun q s =>
    let v := vecOf q.bits
    if 0x0A < v.sub then (some ⟨errRuntime, 0⟩, s)
    else s.eachRow (s.accOf core q) q (if eltPacked v then 0x048 else 0x040) fun r s => s.eltRow (s.accOf core q) v r

/-! ### VEC_FN, VEC_RED -/

/-- One row of a VEC_FN record (R106). -/
def State.fnRow (s : State) (a : Acc) (v : VecP) (r : Nat) : RowRes × State :=
  let qa := s.vrowA a v r
  match qa.1 with
  | .error e => (.error e, qa.2)
  | .ok as =>
    let o := sumEv (as.map (vecFn v.sub))
    let w := qa.2.vput a v r o.1
    (w.1.map fun e => e.with o.2 [], w.2)

/-- VEC_FN (R106, Table 5.8). -/
def execVecFn (core : Nat) (s : State) : Out :=
  s.runRecord core 4 0x21 fun q s =>
    let v := vecOf q.bits
    if 4 < v.sub then (some ⟨errRuntime, 0⟩, s)
    else s.eachRow (s.accOf core q) q 0x050 fun r s => s.fnRow (s.accOf core q) v r

/-- A sum whose order is not specified (R107): the two values to add next, and so the whole order, are free. -/
def sumAny (pick : Nat → Nat) : Nat → List FVal → Ev → FVal × Ev
  | 0, l, ev => (l.headD (.fin false 0 0), ev)
  | f + 1, l, ev =>
    match l with
    | [] => (.fin false 0 0, ev)
    | [x] => (x, ev)
    | _ =>
      let i := pick (2 * f) % l.length
      let x := (l[i]?).getD .nan
      let l1 := l.eraseIdx i
      let j := pick (2 * f + 1) % l1.length
      let y := (l1[j]?).getD .nan
      let z := fadd x y
      sumAny pick f (z.1 :: l1.eraseIdx j) (ev.plus z.2)

/-- A row's reduction: 0 sum, 1 max, 2 min, 3 Σ exp(a − IMM0) (R107). -/
def redRow (pick : Nat → Nat) (sub : Nat) (imm0 : FVal) (l : List FVal) : FVal × Ev :=
  match sub with
  | 0 => sumAny pick l.length l Ev.zero
  | 1 => (l.foldl fmax .nan, Ev.zero)
  | 2 => (l.foldl fmin .nan, Ev.zero)
  | _ =>
    let es := l.map fun x => let d := fadd x imm0.neg; let e := vecFn 0 d.1; (e.1, d.2.plus e.2)
    let c := sumEv es
    sumAny pick l.length c.1 c.2

/-- One row of a VEC_RED record. -/
def State.redRowAt (s : State) (a : Acc) (v : VecP) (r : Nat) : RowRes × State :=
  let qa := s.vrowA a v r
  match qa.1 with
  | .error e => (.error e, qa.2)
  | .ok as =>
    let ctr := qa.2.freeCtr
    let o := redRow (fun i => Config.freeBits i ctr) v.sub (fp32.decode v.imm0) as
    let w := { qa.2 with freeCtr := ctr + 1 }.vput a v r [o.1]
    (w.1.map fun e => e.with o.2 [], w.2)

/-- VEC_RED (R107). -/
def execVecRed (core : Nat) (s : State) : Out :=
  s.runRecord core 4 0x22 fun q s =>
    let v := vecOf q.bits
    if 3 < v.sub then (some ⟨errRuntime, 0⟩, s)
    else s.eachRow (s.accOf core q) q (if v.sub = 3 then 0x050 else 0x040)
        fun r s => s.redRowAt (s.accOf core q) v r

/-! ### VEC_TOPK (R108) -/

/-- Insert into a list in descending order; of equal values the earlier comes first. -/
def insertDesc (x : FVal × Nat) : List (FVal × Nat) → List (FVal × Nat)
  | [] => [x]
  | y :: r => if fltTotal y.1 x.1 then x :: y :: r else y :: insertDesc x r

/-- The k largest elements with their indices, NaNs never chosen; a short row fills with −∞ and index all ones. -/
def topK (k : Nat) (l : List (FVal × Nat)) : List (FVal × Nat) :=
  let srt := (l.filter fun x => !x.1.isNan).foldl (fun a x => insertDesc x a) []
  (srt ++ List.replicate k (FVal.inf true, 0xFFFFFFFF)).take k

/-- One row of a VEC_TOPK record: values to DST as FP32, 32-bit indices to DST2. -/
def State.topkRow (s : State) (a : Acc) (v : VecP) (r : Nat) : RowRes × State :=
  let qa := s.vrowA a v r
  match qa.1 with
  | .error e => (.error e, qa.2)
  | .ok as =>
    let qi := if !v.sub.testBit 0 then (.ok [], qa.2)
      else if bsiBits v.fmtA ≠ 0 then (.error ⟨errRuntime, aoAddr v.srcB⟩, qa.2)
      else qa.2.vread a v.srcB (r * v.strB) (4 * v.len)
    match qi.1 with
    | .error e => (.error e, qi.2)
    | .ok ib =>
      let ids := as.zipIdx.map fun x => (x.1, if v.sub.testBit 0 then ofLe ((ib.drop (4 * x.2)).take 4) else x.2)
      let o := topK v.imm1 ids
      let w := qi.2.writeOp a v.dst (r * v.strD) (o.flatMap fun x => leBytes 4 (enc32 x.1))
      match w.1 with
      | some e => (.error e, w.2)
      | none =>
        let w2 := w.2.writeOp a v.dst2 (r * v.strD2) (o.flatMap fun x => leBytes 4 x.2)
        match w2.1 with
        | some e => (.error e, w2.2)
        | none => (.ok RowEv.none, w2.2)

/-- VEC_TOPK (R108): k from 1 to 16; another k is a record that breaks a rule when it runs (R203, log entry 74). -/
def execVecTopk (core : Nat) (s : State) : Out :=
  s.runRecord core 4 0x23 fun q s =>
    let v := vecOf q.bits
    if v.imm1 = 0 ∨ 16 < v.imm1 then (some ⟨errRuntime, 0⟩, s)
    else s.eachRow (s.accOf core q) q 0x040 fun r s => s.topkRow (s.accOf core q) v r

/-! ### VEC_RAND (R109) -/

/-- A draw as FP32 in [0, 1): its top 24 bits × 2^−24, as R112 forms u (log entry 16). -/
def drawUnit (r : Nat) : FVal := .fin false (r / 256 % 2 ^ 24) (-24)

/-- One row of a VEC_RAND record: the key at SRC_B, the counter's base at SRC_C. The element index counts on from row to row, and the
counter is the base, the index and 0 (log entry 16). -/
def State.randRow (s : State) (a : Acc) (v : VecP) (r : Nat) : RowRes × State :=
  let qk := s.vread a v.srcB 0 8
  match qk.1 with
  | .error e => (.error e, qk.2)
  | .ok kb =>
    let qc := qk.2.vread a v.srcC 0 8
    match qc.1 with
    | .error e => (.error e, qc.2)
    | .ok cb =>
      let ds := (List.range v.len).map fun i => Config.sampleDraw (ofLe kb) a.part (ofLe cb) (r * v.len + i) 0 % 2 ^ 32
      if v.sub = 0 then
        let w := qc.2.writeOp a v.dst (r * v.strD) (ds.flatMap (leBytes 4))
        match w.1 with
        | some e => (.error e, w.2)
        | none => (.ok RowEv.none, w.2)
      else qc.2.vput a v r (ds.map drawUnit)

/-- VEC_RAND (R109). -/
def execVecRand (core : Nat) (s : State) : Out :=
  s.runRecord core 4 0x24 fun q s =>
    let v := vecOf q.bits
    if 1 < v.sub then (some ⟨errRuntime, 0⟩, s)
    else s.eachRow (s.accOf core q) q 0 fun r s => s.randRow (s.accOf core q) v r

/-! ### VEC_CONV, VEC_RESADD -/

/-- One row of a conversion. -/
def State.convRowAt (s : State) (a : Acc) (v : VecP) (r : Nat) : RowRes × State :=
  let qa := s.vrowA a v r
  match qa.1 with
  | .error e => (.error e, qa.2)
  | .ok as => qa.2.vput a v r as

/-- VEC_CONV (R66 to R72). -/
def execVecConv (core : Nat) (s : State) : Out :=
  s.runRecord core 4 0x25 fun q s =>
    let v := vecOf q.bits
    s.eachRow (s.accOf core q) q 0x040 fun r s => s.convRowAt (s.accOf core q) v r

/-- One row of a fused residual add (R110): the residual at SRC_C updated in place, then through CONV to DST. -/
def State.resaddRow (s : State) (a : Acc) (v : VecP) (r : Nat) : RowRes × State :=
  let qa := s.vrowA a v r
  match qa.1 with
  | .error e => (.error e, qa.2)
  | .ok as =>
    let qc := qa.2.vrow a v.srcC v.strC 0 r v.len
    match qc.1 with
    | .error e => (.error e, qc.2)
    | .ok cs =>
      let l := (cs.zip as).map fun x => resAdd x.1 x.2
      let o := sumEv l
      let w := qc.2.writeOp a v.srcC (r * v.strC) (o.1.flatMap fun x => leBytes 4 (enc32 x))
      match w.1 with
      | some e => (.error e, w.2)
      | none =>
        let w2 := w.2.vput a v r o.1
        (w2.1.map fun e => e.with o.2 (ocsOf l), w2.2)

/-- VEC_RESADD (R110). -/
def execVecResadd (core : Nat) (s : State) : Out :=
  s.runRecord core 4 0x26 fun q s =>
    let v := vecOf q.bits
    s.eachRow (s.accOf core q) q 0x040 fun r s => s.resaddRow (s.accOf core q) v r

/-! ### VEC_SAMPLE (R112, Table 5.9) -/

/-- A sample context. -/
structure SampleCtx where
  key : Nat
  stream : Nat
  pos : Nat
  d : Nat
  greedy : Bool
  temp : FVal
  draft : List Nat
deriving DecidableEq, Repr

def sampleCtxOf (b : Bytes) : SampleCtx :=
  let f := fun o n => ofLe ((b.drop o).take n)
  { key := f 0 8, stream := f 8 4, pos := f 12 6, d := f 18 1, greedy := (f 19 1).testBit 0, temp := fp32.decode (f 20 4),
    draft := (List.range 16).map fun i => f (32 + 4 * i) 4 }

/-- The partial sums c_i of a row, each one FP32 addition, with its events. -/
def partials : List FVal → Option FVal → List (FVal × Ev)
  | [], _ => []
  | w :: r, none => (w, Ev.zero) :: partials r (some w)
  | w :: r, some a => let c := fadd a w; c :: partials r (some c.1)

/-- The weight w_i of a candidate (R112), and the events of its three operations. -/
def sampleWeight (temp v0 v : FVal) : FVal × Ev :=
  let d := fadd v v0.neg
  let t := fdiv d.1 temp
  let w := vecFn 0 t.1
  (w.1, (d.2.plus t.2).plus w.2)

/-- The candidate a row samples (R112): the index into its candidates, and the events counted. -/
def sampleIdx (temp : FVal) (draw : Nat) (vs : List FVal) : Nat × Ev :=
  let ws := vs.map (sampleWeight temp (vs.headD .nan))
  let cs := partials (ws.map (·.1)) none
  let ck := ((cs.getLast?).map (·.1)).getD .nan
  let u := fmul (drawUnit draw) ck
  let i := if ck.isNan then 0
    else match cs.findIdx? fun c => flt u.1 c.1 with
      | some i => i
      | none => (cs.findIdx? fun c => c.1 == ck).getD 0
  (i, ((evsOf ws).plus (evsOf cs)).plus u.2)

/-- The token of row `j`, and the events counted: a GREEDY row computes nothing. -/
def sampleRow (c : SampleCtx) (part j : Nat) (vs : List FVal) (ids : List Nat) : Nat × Ev :=
  let i := if c.greedy then (0, Ev.zero)
    else sampleIdx c.temp (Config.sampleDraw c.key part c.stream (c.pos + j) 0 % 2 ^ 32) vs
  ((ids[i.1]?).getD 0, i.2)

/-- How many leading drafts the sampled tokens accept. -/
def accepted : List Nat → List Nat → Nat
  | y :: ys, d :: ds => if y = d then accepted ys ds + 1 else 0
  | _, _ => 0

/-- Candidates of every row, in order. -/
def State.sampleRows (s : State) (a : Acc) (v : VecP) (rows : Nat) : Except Flt (List (List FVal × List Nat)) × State :=
  (List.range rows).foldl (fun acc j =>
    match acc.1 with
    | .error e => (.error e, acc.2)
    | .ok l =>
      let qv := acc.2.vrow a v.srcA v.strA 0 j v.len
      match qv.1 with
      | .error e => (.error e, qv.2)
      | .ok vs =>
        let qi := qv.2.vread a v.srcB (j * v.strB) (4 * v.len)
        match qi.1 with
        | .error e => (.error e, qi.2)
        | .ok ib => (.ok (l ++ [(vs, (List.range v.len).map fun i => ofLe ((ib.drop (4 * i)).take 4))]), qi.2)) (.ok [], s)

/-- VEC_SAMPLE (R112): the emitted tokens to DST, the count word to DST2. A context of more than 16 drafts, or no candidate, breaks a
rule when it runs (Table 5.9, log entry 74). -/
def execVecSample (core : Nat) (s : State) : Out :=
  s.runRecord core 4 0x27 fun q s =>
    let v := vecOf q.bits
    let a := s.accOf core q
    let qc := s.vread a v.srcC 0 96
    match qc.1 with
    | .error e => (some e, qc.2)
    | .ok cb =>
      let c := sampleCtxOf cb
      if 16 < c.d ∨ v.len = 0 then (some ⟨errRuntime, aoAddr v.srcC⟩, qc.2)
      else
        let qr := qc.2.sampleRows a v (c.d + 1)
        match qr.1 with
        | .error e => (some e, qr.2)
        | .ok rows =>
          let ys := rows.zipIdx.map fun x => sampleRow c a.part x.2 x.1.1 x.1.2
          let n := accepted (ys.map (·.1)) (c.draft.take c.d)
          let toks := c.draft.take n ++ ((ys[n]?).map (·.1)).toList
          let w := (qr.2.vecEvents core (evsOf ys)).writeOp a v.dst 0 (toks.flatMap (leBytes 4))
          match w.1 with
          | some e => (some e, w.2)
          | none =>
            let w2 := w.2.writeOp a v.dst2 0 (leBytes 4 (packNat [⟨4, 0, toks.length⟩, ⟨12, 8, n⟩]))
            let pg := pk tVEC core
            (w2.1, (((w2.2.bump pg 0x088 (c.d + 1)).bump pg 0x090 c.d).bump pg 0x098 n).progress pg (((c.d + 1) * v.len + 2047) / 2048))

end Sys2Proof.Machine
end

