-- ==== Sys2Proof/Machine/Rules.lean ====
section
/-! DEFINITION. Machine/Rules.lean: the rules that a plan's records keep, which LOAD checks (R55, R62, R66, R76, R99, R101, R134,
R198, R276, R287; Table 9.6, RECORD). -/

namespace Sys2Proof.Machine

open Sys2Proof

/-! ### One record -/

/-- Whether an opcode is one of Table 5.4 that an engine runs. -/
def opcodeOk (op eng : Nat) : Bool :=
  match op with
  | 0x00 => true
  | 0x10 => decide (eng ≤ 3)
  | 0x20 | 0x21 | 0x22 | 0x23 | 0x24 | 0x25 | 0x26 | 0x27 => eng == 4
  | 0x30 => eng == 5 || eng == 6
  | 0x40 | 0x41 | 0x42 | 0x43 => eng == 7
  | _ => false

/-- The address operands of a record's body, by opcode (Tables 5.5, 5.6, R103, R113, R115). -/
def operandsOf (r : Rec) : List Nat :=
  match recOpcode r with
  | 0x10 => (List.range 6).map fun i => byteFld r (16 + 8 * i) 8
  | 0x20 | 0x21 | 0x22 | 0x23 | 0x24 | 0x25 | 0x26 | 0x27 => (List.range 5).map fun i => byteFld r (16 + 8 * i) 8
  | 0x30 => [byteFld r 16 8]
  | 0x43 => (List.range 3).map fun i => byteFld r (16 + 8 * i) 8
  | _ => []

/-- The roles that formats may take in an array (Table 3.6). -/
def statRole (f : Nat) : Bool := decide (1 ≤ f ∧ f ≤ 4) || bsiBits f != 0
def strmRole (f : Nat) : Bool := decide (f ≤ 4)

/-- An array record (R55, R62, R66, R76, R101); `deep` where its tensor's declared K exceeds 65,536. -/
def mmRuleOk (r : Rec) (deep : Bool) : Bool :=
  let m := mmOf r
  fmtKnown m.statFmt && (m.keep || statRole m.statFmt) && strmRole m.strmFmt && (!m.final || convOk m.outConv)
    && (m.cbuf || m.nvec == 1) && (!deep || m.long) && (!m.cbuf || aoSpace m.accBase == 2)

/-- A vector record (R55, R66). -/
def vecRuleOk (r : Rec) : Bool :=
  let v := vecOf r
  fmtKnown v.fmtA && fmtKnown v.fmtB && fmtKnown v.fmtC && convOk v.conv

/-- An inline mover descriptor (R134). -/
def mvRuleOk (r : Rec) : Bool :=
  let d := portDesc r
  let m := mvOf d
  mvAllowed (.port 0 none) m.op && (m.op != 4 || decide (m.esize ≤ 2)) && (m.op != 5 || m.len % 8 == 0)
    && aoOk m.src && aoOk m.dst && ((m.op != 2 && m.op != 3) || aoOk m.aux)

/-- The signals of a record that are enabled: target core, counter and increment (Table 5.2). -/
def signalsOf (r : Rec) : List (Nat × Nat × Nat) :=
  ([(recSig0 r, recSig0Inc r), (recSig1 r, recSig1Inc r)].filter fun x => x.1.testBit 15).map fun x => (nbits x.1 12 6, x.1 % 64, x.2)

/-- A record that the load takes (R99): `inPart` says which cores are the partition's. -/
def recRuleOk (inPart : Nat → Bool) (x : PlanRec) : Bool :=
  let op := recOpcode x.bits
  inPart x.core && opcodeOk op (recEngine x.bits) && (operandsOf x.bits).all aoOk && (signalsOf x.bits).all (fun g => inPart g.1)
    && (op != 0x10 || mmRuleOk x.bits x.deep) && (!(decide (0x20 ≤ op ∧ op ≤ 0x27)) || vecRuleOk x.bits)
    && (op != 0x40 || mvRuleOk x.bits)

/-! ### The records of a layer -/

/-- A record that no widenable layer may hold (R287): PORT_EMIT, or a KPM operation that stages: OPEN, CLOSE, RESERVE, ACCEPT or
SHARE (Table 11.4). -/
def bansRewind (kpmBanned : Nat → Bool) (x : PlanRec) : Bool :=
  recOpcode x.bits == 0x43 || (recOpcode x.bits == 0x41 && kpmBanned (byteFld (portDesc x.bits) 0 1))

/-- The TXU stage that a record's operation uses: SLOTS and DISPATCH (Table 12.5). -/
def stageUsed (x : PlanRec) : Option Nat :=
  let d := portDesc x.bits
  if recOpcode x.bits = 0x42 ∧ (byteFld d 0 1 = 1 ∨ byteFld d 0 1 = 2 ∨ byteFld d 0 1 = 3) then some (byteFld d 2 2) else none

/-- The records of a list that lie in a layer. -/
def recsIn (ls : List LayerEnt) (l : LayerEnt) (rs : List PlanRec) : List PlanRec :=
  rs.filter fun x => layerOf ls x.opidx.toNat == l.layer

/-- Every list of records that a layer may run: its base records and its replacements in a bucket. -/
def layerBlocks (vs : List Variant) (bi : Nat) (b : Bucket) (l : LayerEnt) : List (List PlanRec) :=
  recsIn b.layers l b.recs :: (vs.filter fun v => v.layer == l.layer).flatMap fun v => v.blocks.map fun k => (k[bi]?).getD []

/-- The rules of a layer's records: its stages at or above STAGE_FIRST (R276), and no barred record where it is widenable (R287). -/
def layerRecsOk (kpmBanned : Nat → Bool) (vs : List Variant) (bi : Nat) (b : Bucket) (l : LayerEnt) : Bool :=
  let all := (layerBlocks vs bi b l).flatten
  all.all (fun x => match stageUsed x with | some t => decide (l.stageFirst ≤ t) | none => true)
    && (!(vs.any fun v => v.layer == l.layer) || !all.any (bansRewind kpmBanned))

/-- What a list of records adds to a counter of a core. -/
def incSum (rs : List PlanRec) (core ctr : Nat) : Nat :=
  ((rs.flatMap fun x => signalsOf x.bits).map fun g => if g.1 = core ∧ g.2.1 = ctr then g.2.2 else 0).sum

/-- The most that a step may add to a counter, whichever of a layer's blocks it runs. -/
def incMost (vs : List Variant) (bi : Nat) (b : Bucket) (core ctr : Nat) : Nat :=
  (b.layers.map fun l => (layerBlocks vs bi b l).foldl (fun a k => max a (incSum k core ctr)) 0).sum

/-- No counter's increments can sum past 0xFFFF in a step (R99). -/
def incsOk (vs : List Variant) (bi : Nat) (b : Bucket) : Bool :=
  let gs := (b.layers.flatMap fun l => (layerBlocks vs bi b l).flatten.flatMap fun x => signalsOf x.bits)
  gs.all fun g => decide (incMost vs bi b g.1 g.2.1 ≤ 0xFFFF)

/-! ### Variant chains (R198) -/

/-- Where a stationary format stands in its chain: FP8, BF16, FP16. A BSI format stands in none. -/
def statPos (f : Nat) : Option Nat := if f = 3 ∨ f = 4 then some 0 else if f = 1 then some 1 else if f = 2 then some 2 else none

/-- Where an output format stands in its chain: narrow, BF16, FP32. -/
def outPos (f : Nat) : Option Nat := if f = 0 then some 2 else if f = 1 then some 1 else some 0

/-- The widest place of a chain that a list of records shows on an axis; none where no record of it shows one (log entry 78). -/
def chainPos (axis : Nat) (rs : List PlanRec) : Option Nat :=
  (rs.filterMap fun x =>
    if recOpcode x.bits ≠ 0x10 then none
    else
      let m := mmOf x.bits
      if axis = 0 then (if m.keep then none else statPos m.statFmt)
      else if axis = 2 then (if m.final then outPos (convDst m.outConv) else none) else none).foldl
    (fun (a : Option Nat) n => some (max n (a.getD 0))) none

/-- Each block of a chain stands where its place in the chain says, one step past the one before (R198). -/
def chainOk (bi : Nat) (b : Bucket) (v : Variant) : Bool :=
  match b.layers.find? fun l => l.layer == v.layer with
  | none => true
  | some l =>
    ((recsIn b.layers l b.recs :: v.blocks.map fun k => (k[bi]?).getD []).zipIdx).all fun x =>
      match chainPos v.axis x.1 with
      | some n => n == v.base + x.2
      | none => true

/-- The records of a bucket and of the variants that replace them. -/
def bucketRecsOk (inPart : Nat → Bool) (kpmBanned : Nat → Bool) (vs : List Variant) (bi : Nat) (b : Bucket) : Bool :=
  b.recs.all (recRuleOk inPart) && vs.all (fun v => v.blocks.all fun k => ((k[bi]?).getD []).all (recRuleOk inPart))
    && b.layers.all (layerRecsOk kpmBanned vs bi b) && incsOk vs bi b && vs.all (chainOk bi b)

end Sys2Proof.Machine
end

