-- ==== Sys2Proof/Machine/Scalar.lean ====
section
/-! DEFINITION. Machine/Scalar.lean: the scalar pipes: fetch, the instructions of Table 5.10, atomics and fences
(R115, R171 to R189), and the flush of the store read cache (R117). -/

namespace Sys2Proof.Machine

open Sys2Proof

/-! ### Registers and state of a pipe -/

/-- A scalar pipe of a core. -/
def State.pipe (s : State) (k j : Nat) : ScPipe := Tbl.get ScPipe.zero (s.core k).pipes j
def State.modPipe (s : State) (k j : Nat) (f : ScPipe → ScPipe) : State :=
  s.modCore k fun c => { c with pipes := Tbl.set c.pipes j (f (Tbl.get ScPipe.zero c.pipes j)) }

/-- A register of a pipe; g0 reads as zero (R115). -/
def State.gpr (s : State) (k j : Nat) (g : BitVec 5) : W64 := if g = 0 then 0 else Tbl.get 0 (s.pipe k j).g g.toNat

/-- A register written; g0 stays zero. -/
def State.setGpr (s : State) (k j : Nat) (g : BitVec 5) (v : W64) : State :=
  if g = 0 then s else s.modPipe k j fun p => { p with g := Tbl.set p.g g.toNat v }

/-- An instruction completes: it is counted (Table 5.11), and the pipe's changes are made. -/
def State.executed (s : State) (k j : Nat) (f : ScPipe → ScPipe) : State :=
  (s.bump (pk tCORE k) (0x0D0 + 8 * j) 1).modPipe k j fun p => { f p with pass := false }

/-- The pipe goes to an address. -/
def State.goto (s : State) (k j : Nat) (pc : Nat) : State := s.executed k j fun p => { p with pc := pc }

/-- The pipe goes to the next instruction. -/
def State.next4 (s : State) (k j : Nat) : State := s.executed k j fun p => { p with pc := p.pc + 4 }

/-- The record a pipe runs. -/
def State.scRec (s : State) (k j : Nat) : Option QRec := ((s.execs k (5 + j)).getLast?).map (·.q)

/-- The accesses of a pipe. -/
def State.scAcc (s : State) (k j : Nat) : Acc :=
  match s.scRec k j with
  | some q => s.accOf k q
  | none => ⟨(s.coreOwner k).getD 0, 0, none, coreTile k, k, false⟩

/-- The program ends with an error: the record is done with it (R115). -/
def State.scFail (s : State) (k j : Nat) (f : Flt) : State :=
  ((s.modPipe k j fun p => { p with running := false, wait := .none }).finish k (5 + j) (some f.err)).coreFault k f.addr 0x30 (5 + j)

/-! ### Instruction words (R115) -/

def iOp (w : Nat) : Nat := nbits w 31 26
def iGd (w : Nat) : BitVec 5 := BitVec.ofNat 5 (nbits w 25 21)
def iGa (w : Nat) : BitVec 5 := BitVec.ofNat 5 (nbits w 20 16)
def iGb (w : Nat) : BitVec 5 := BitVec.ofNat 5 (nbits w 15 11)
def iFn (w : Nat) : BitVec 11 := BitVec.ofNat 11 (nbits w 10 0)
def iImm (w : Nat) : W16 := BitVec.ofNat 16 (nbits w 15 0)

/-- OPs of Table 5.10. -/
def opDefined (op : Nat) : Bool :=
  decide (op ≤ 0x05) || decide (0x08 ≤ op ∧ op ≤ 0x10) || decide (0x14 ≤ op ∧ op ≤ 0x19) || decide (0x1C ≤ op ∧ op ≤ 0x20) || op == 0x3F

/-- A sign-extended immediate. -/
def sext (imm : W16) : W64 := imm.signExtend 64

/-- The word of an instruction with gb and FN. -/
def wordR (op : Nat) (gd ga gb : BitVec 5) (fn : BitVec 11) : Nat :=
  packNat [⟨31, 26, op⟩, ⟨25, 21, gd.toNat⟩, ⟨20, 16, ga.toNat⟩, ⟨15, 11, gb.toNat⟩, ⟨10, 0, fn.toNat⟩]

/-- The word of an instruction with an immediate. -/
def wordI (op : Nat) (gd ga : BitVec 5) (imm : W16) : Nat :=
  packNat [⟨31, 26, op⟩, ⟨25, 21, gd.toNat⟩, ⟨20, 16, ga.toNat⟩, ⟨15, 0, imm.toNat⟩]

/-- Bits of a word that an instruction uses: those of `w` outside its unused fields. -/
def useR : Nat := 0xFFFFFFFF
/-- All fields but FN. -/
def useNoFn : Nat := 0xFFFFF800
/-- OP, ga and gb. -/
def useAB : Nat := 0xFC1FF800
/-- OP, gd and ga. -/
def useDA : Nat := 0xFFFF0000
/-- OP, gd and the immediate. -/
def useDI : Nat := 0xFFE0FFFF
/-- OP, ga and the immediate. -/
def useAI : Nat := 0xFC1FFFFF
/-- OP and the immediate. -/
def useI : Nat := 0xFC00FFFF
/-- OP alone. -/
def useOp : Nat := 0xFC000000

/-! ### Fetch and issue -/

/-- A breakpoint of the pipe names its pc (R471). -/
def ScPipe.atBreak (p : ScPipe) : Bool := !p.pass && p.bps.any fun b => b.2 == some p.pc

/-- The pipe can issue: the module runs, the pipe runs, waits for nothing and is not halted. -/
def State.scReady (s : State) (k j : Nat) : Bool :=
  decide (k < 128 ∧ j < 2) && s.running && (s.pipe k j).running && (s.pipe k j).wait == .none && !(s.pipe k j).halted

/-- What a fetch at the pc gives: the instruction's word, or why there is none (R115). -/
def State.scFetch (s : State) (k j : Nat) : Except Flt Nat × State :=
  let pc := (s.pipe k j).pc
  if pc % 4 ≠ 0 then (.error ⟨errRuntime, pc⟩, s)
  else
    let r := s.readVa .store true (s.scAcc k j) pc 4
    (match r.1.use pc with
      | .error e => .error e
      | .ok b => if opDefined (iOp (ofLe b)) then .ok (ofLe b) else .error ⟨errRuntime, pc⟩, r.2)

/-- A command of the pipe's program: at a breakpoint the pipe halts (R471); a fetch that gives no instruction ends the record
(R115); else the instruction runs where the word at the pc, in the bits it uses, is the command's. -/
def State.scCmd (s : State) (k j use word : Nat) (body : State → State) : Out :=
  if !s.scReady k j then .next s
  else if (s.pipe k j).atBreak then
    .next (((s.modPipe k j fun p => { p with halted := true }).attn 1).debugEvent 14 (s.scAcc k j).part)
  else
    let f := s.scFetch k j
    match f.1 with
    | .error e => .next (f.2.scFail k j e)
    | .ok w => if w &&& use = word &&& use then .next (body f.2) else .next s

/-! ### Arithmetic (Table 5.10) -/

/-- An ALU function; a shift by 64 or more has no stated result and takes the free value `free` (log entry 5). None for an
undefined FN. -/
def aluFn (fn : Nat) (a b free : W64) : Option W64 :=
  let n := b.toNat
  match fn with
  | 0x000 => some (a + b)
  | 0x001 => some (a - b)
  | 0x002 => some (a &&& b)
  | 0x003 => some (a ||| b)
  | 0x004 => some (a ^^^ b)
  | 0x005 => some (if n < 64 then a <<< n else free)
  | 0x006 => some (if n < 64 then a >>> n else free)
  | 0x007 => some (if n < 64 then a.sshiftRight n else free)
  | 0x008 => some (a * b)
  | 0x009 => some (BitVec.ofNat 64 (a.toNat * b.toNat / 2 ^ 64))
  | 0x00A => some (if a.slt b then a else b)
  | 0x00B => some (if a.slt b then b else a)
  | 0x00C => some (if a.ult b then a else b)
  | 0x00D => some (if a.ult b then b else a)
  | 0x00E => some (if a.slt b then 1 else 0)
  | 0x00F => some (if a.ult b then 1 else 0)
  | _ => none

/-- The pc of an instruction, to report where a record failed. -/
def State.scFailHere (s : State) (k j : Nat) : State := s.scFail k j ⟨errRuntime, (s.pipe k j).pc⟩

def opAlu (k j : Nat) (fn : BitVec 11) (gd ga gb : BitVec 5) (s : State) : State :=
  let a := s.gpr k j ga
  let b := s.gpr k j gb
  let shift := decide (5 ≤ fn.toNat ∧ fn.toNat ≤ 7 ∧ 64 ≤ b.toNat)
  let q := if shift then s.fresh 64 else (0, s)
  match aluFn fn.toNat a b (BitVec.ofNat 64 q.1) with
  | some v => (q.2.setGpr k j gd v).next4 k j
  | none => q.2.scFailHere k j

/-- gd takes a function of ga and an immediate. -/
def opImm (k j : Nat) (gd ga : BitVec 5) (f : W64 → W64) (s : State) : State :=
  (s.setGpr k j gd (f (s.gpr k j ga))).next4 k j

/-! ### Loads and stores -/

/-- The address ga + immediate. -/
def State.ea (s : State) (k j : Nat) (ga : BitVec 5) (imm : W16) : Nat := (s.gpr k j ga + sext imm).toNat

/-- What becomes of a request to another module: the pipe waits for a read's answer, goes on after a write, or
ends with LINK_PEER_LOST (R187, R309). -/
def State.scRemote (s : State) (k j : Nat) (gd : BitVec 5) (half : Bool) (va : Nat) (l : Leaf) (op : RemOp) : State :=
  let isW := match op with | .write _ _ _ => true | _ => false
  let a := s.scAcc k j
  let r := s.request (.port k none) j (!isW) half (s.pipe k j).prog a.part l.module op
  match r.1 with
  | .sent =>
    if isW then (r.2.modPipe k j fun p => { p with remote := p.remote + 1 }).next4 k j
    else (r.2.modPipe k j fun p => { p with wait := .remote, dest := gd.toNat, remote := p.remote + 1 }).next4 k j
  | .lost e => r.2.scFail k j ⟨e, va⟩

/-- The leaf of a remote target that covers an address, and the address at its home (Table 16.2). -/
def State.remoteLeaf (s : State) (a : Acc) (va : Nat) (wr : Bool) : Option (Leaf × Nat) :=
  match s.lookup a.part a.ctx va wr with
  | .ok l h => if l.target = 4 then some (l, h) else none
  | .bad _ => none

/-- A load of `n` bytes from the store or from another module's store (R115, R187). `err` strikes the first word first. -/
def opLoad (n : Nat) (k j : Nat) (gd ga : BitVec 5) (imm : W16) (err : MemErr) (s : State) : State :=
  let va := s.ea k j ga imm
  let a := s.scAcc k j
  match s.remoteLeaf a va false with
  | some x => s.scRemote k j gd (n == 4) va x.1 (.read x.2 n)
  | none =>
    let s1 := match s.lookupFor .store a.part a.ctx va false with
      | .ok _ pa => s.strike (.store (pa / 8) err)
      | .bad _ => s
    let r := s1.readVa .store true a va n
    match r.1.use va with
    | .error e => r.2.scFail k j e
    | .ok b => (r.2.setGpr k j gd (BitVec.ofNat 64 (ofLe b))).next4 k j

/-- A store of `n` bytes. -/
def opStore (n : Nat) (k j : Nat) (gd ga : BitVec 5) (imm : W16) (s : State) : State :=
  let va := s.ea k j ga imm
  let a := s.scAcc k j
  let b := leBytes n (s.gpr k j gd).toNat
  match s.remoteLeaf a va true with
  | some x => s.scRemote k j gd false va x.1 (.write x.2 b [])
  | none =>
    let r := s.writeVa .store true a va b
    match r.1 with
    | some e => r.2.scFail k j e
    | none => r.2.next4 k j

/-- A load from the core buffer. `err` strikes the first word first. -/
def opCload (n : Nat) (k j : Nat) (gd ga : BitVec 5) (imm : W16) (err : MemErr) (s : State) : State :=
  let o := s.ea k j ga imm
  if 2 ^ 23 < o + n then s.scFail k j ⟨errRuntime, o⟩
  else
    let g := (s.strike (.core k (o / 8) err)).cbGet k o n
    if g.1.2 = [] then (g.2.setGpr k j gd (BitVec.ofNat 64 (ofLe g.1.1))).next4 k j else g.2.scFail k j ⟨errUncorr, o⟩

/-- A store to the core buffer. -/
def opCstore (n : Nat) (k j : Nat) (gd ga : BitVec 5) (imm : W16) (s : State) : State :=
  let o := s.ea k j ga imm
  if 2 ^ 23 < o + n then s.scFail k j ⟨errRuntime, o⟩
  else (s.cbWrite k o (leBytes n (s.gpr k j gd).toNat)).next4 k j

/-! ### Atomics (R183 to R186) -/

/-- Smaller and larger by two's complement in `n` bits. -/
def smin (n a b : Nat) : Nat := if signedOf n b < signedOf n a then b else a
def smax (n a b : Nat) : Nat := if signedOf n a < signedOf n b then b else a

/-- What an atomic does to its word of `n` bits: the value it writes, none where a compare-exchange does not match, and the OVERFLOW
events (Table 8.4, R185). None for a reserved operation, or a floating-point one with WIDTH 1. -/
def atomNew (op n old b cmp : Nat) : Option (Option Nat × Nat) :=
  let m := 2 ^ n
  let f32 := fun (x y : Nat) => let r := fadd (fp32.decode x) (fp32.decode y); (enc32 r.1, r.2.ovf)
  let b16 := fun (x y : Nat) => let r := fadd (fp32.decode (x * 65536)) (fp32.decode (y * 65536))
                                let h := roundVec bf16 false (exactAdd (fp32.decode (x * 65536)) (fp32.decode (y * 65536)))
                                (enc32 h.1 / 65536, min 1 (h.2.ovf + r.2.ovf))
  match op with
  | 0x0 => some (some ((old + b) % m), 0)
  | 0x1 => some (some (old &&& b), 0)
  | 0x2 => some (some (old ||| b), 0)
  | 0x3 => some (some (old ^^^ b), 0)
  | 0x4 => some (some (smin n old b), 0)
  | 0x5 => some (some (smax n old b), 0)
  | 0x6 => some (some (min old b), 0)
  | 0x7 => some (some (max old b), 0)
  | 0x8 => some (some b, 0)
  | 0x9 => some (if old = cmp then some b else none, 0)
  | 0xA => if n = 64 then none else let r := f32 old b
                                    some (some r.1, r.2)
  | 0xB =>
    if n = 64 then none
    else
      let lo := b16 (old % 65536) (b % 65536)
      let hi := b16 (old / 65536) (b / 65536)
      some (some (lo.1 + 65536 * hi.1), lo.2 + hi.2)
  | _ => none

/-- Width in bits, scope and ORDER of an atomic's FN. -/
def atomW (fn : Nat) : Nat := if fn.testBit 4 then 64 else 32
def atomScope (fn : Nat) : Nat := nbits fn 6 5
def atomAcq (fn : Nat) : Bool := fn.testBit 7
def atomRel (fn : Nat) : Bool := fn.testBit 8

/-- An acquire of a pipe at a scope (R177). -/
def State.acquireAt (s : State) (k scope : Nat) : State := if scope = 0 then s else s.acquire k

/-- The result of an atomic: the old value to gd, the OVERFLOW counted (R185), then its acquire. -/
def State.atomDone (s : State) (k j fn : Nat) (gd : BitVec 5) (old ovf : Nat) : State :=
  let s1 := ((s.bumpEv (pk tVEC k) 0x068 ovf).setGpr k j gd (BitVec.ofNat 64 old)).next4 k j
  if atomAcq fn then s1.acquireAt k (atomScope fn) else s1

/-- ATOM at the core buffer port. -/
def atomCore (k j fn : Nat) (gd : BitVec 5) (o b cmp : Nat) (s : State) : State :=
  let n := atomW fn
  if 2 ^ 23 < o + n / 8 then s.scFail k j ⟨errRuntime, o⟩
  else
    let g := s.cbGet k o (n / 8)
    let old := ofLe g.1.1
    if g.1.2 ≠ [] then g.2.scFail k j ⟨errUncorr, o⟩
    else match atomNew (fn % 16) n old (b % 2 ^ n) (cmp % 2 ^ n) with
    | none => s.scFailHere k j
    | some (some v, ev) => (g.2.cbWrite k o (leBytes (n / 8) v)).atomDone k j fn gd old ev
    | some (none, ev) => g.2.atomDone k j fn gd old ev

/-- ATOM at the home slice of this module's store. -/
def atomStore (k j fn : Nat) (gd : BitVec 5) (va b cmp : Nat) (s : State) : State :=
  let n := atomW fn
  let a := s.scAcc k j
  match s.lookupFor .store a.part a.ctx va true with
  | .bad sub => (s.noteFault a.part a.tile va sub).scFail k j ⟨errXlat sub, va⟩
  | .ok _ pa =>
    let r := s.readVa .store false a va (n / 8)
    match r.1.use va with
    | .error e => r.2.scFail k j e
    | .ok ob =>
      match atomNew (fn % 16) n (ofLe ob) (b % 2 ^ n) (cmp % 2 ^ n) with
      | none => s.scFailHere k j
      | some (none, ev) => (r.2.bump (pk tSTORE (sliceOf pa)) 0x078 1).atomDone k j fn gd (ofLe ob) ev
      | some (some v, ev) =>
        let w := (r.2.bump (pk tSTORE (sliceOf pa)) 0x078 1).writeVa .store true a va (leBytes (n / 8) v)
        match w.1 with
        | some e => w.2.scFail k j e
        | none => w.2.atomDone k j fn gd (ofLe ob) ev

/-- ATOM (R183, R184, Table 8.5). A release waits, at fabric scope, for the pipe's remote writes (R188). -/
def opAtom (k j : Nat) (fn : BitVec 11) (gd ga gb : BitVec 5) (s : State) : State :=
  let f := fn.toNat
  let va := (s.gpr k j ga).toNat
  let b := (s.gpr k j gb).toNat
  let cmp := (s.gpr k j gd).toNat
  let n := atomW f
  if va % (n / 8) ≠ 0 ∨ (atomNew (f % 16) n 0 0 0).isNone then s.scFailHere k j
  else if atomRel f && atomScope f == 3 && (s.pipe k j).remote != 0 then s
  else if atomScope f = 0 then atomCore k j f gd va b cmp s
  else
    match s.remoteLeaf (s.scAcc k j) va true with
    | some x =>
      if atomScope f = 3 then s.scRemote k j gd (n == 32) va x.1 (.atom x.2 fn (BitVec.ofNat 64 b) (BitVec.ofNat 64 cmp))
      else (s.noteFault (s.scAcc k j).part (coreTile k) va 3).scFail k j ⟨errXlat 3, va⟩
    | none => atomStore k j f gd va b cmp s

/-! ### Control flow -/

/-- A branch by immediate × 4 bytes from the branch itself (log entry 20). -/
def opBranch (k j : Nat) (taken : W64 → W64 → Bool) (gd ga : BitVec 5) (imm : W16) (s : State) : State :=
  let pc := (s.pipe k j).pc
  if taken (s.gpr k j gd) (s.gpr k j ga) then s.goto k j (BitVec.ofNat 64 pc + 4 * sext imm).toNat else s.next4 k j

def opJal (k j : Nat) (gd : BitVec 5) (imm : W16) (s : State) : State :=
  let pc := (s.pipe k j).pc
  (s.setGpr k j gd (BitVec.ofNat 64 (pc + 4))).goto k j (BitVec.ofNat 64 pc + 4 * sext imm).toNat

def opJr (k j : Nat) (gd ga : BitVec 5) (s : State) : State :=
  let pc := (s.pipe k j).pc
  let t := (s.gpr k j ga).toNat
  (s.setGpr k j gd (BitVec.ofNat 64 (pc + 4))).goto k j t

/-! ### Counters, ports, system -/

/-- WAITC: the pipe stays at the instruction until the counter is at least ga; then an acquire at the signal's scope. -/
def opWaitc (k j : Nat) (ga : BitVec 5) (imm : W16) (s : State) : State :=
  let c := imm.toNat % 64
  if (s.gpr k j ga).toNat ≤ s.dc k c then
    let s1 := s.next4 k j
    if (s1.core k).dcWide.contains c then s1.acquire k else s1
  else s

/-- SIGC: gb names the counter as a record's SIG field does, [12:6] core and [5:0] counter (log entry 21). A core of another
partition is refused (R99). A program whose attempt was discarded signals nothing (R118, log entry 31). -/
def opSigc (k j : Nat) (ga gb : BitVec 5) (s : State) : State :=
  let t := (s.gpr k j gb).toNat
  let tk := nbits t 12 6
  if (s.scAcc k j).stale then s.next4 k j
  else if s.coreOwner tk = s.coreOwner k then
    ((s.addDc tk (t % 64) (s.gpr k j ga).toNat (tk != k)).bump (pk tCORE k) 0x0C8 1).next4 k j
  else s.scFailHere k j

/-- POST: ports 0 mover, 1 KPM, 2 TXU (log entry 21); a unit with no room stalls the pipe (R227). A program whose attempt was
discarded posts nothing (log entry 31). -/
def opPost (k j : Nat) (gd ga gb : BitVec 5) (s : State) : State :=
  let o := (s.gpr k j ga).toNat
  let port := (s.gpr k j gb).toNat
  if 2 ^ 23 < o + 64 ∨ 2 < port then s.scFailHere k j
  else match s.scRec k j with
  | none => s
  | some q =>
    let g := s.cbGet k o 64
    if g.1.2 ≠ [] then g.2.scFail k j ⟨errUncorr, o⟩
    else if (s.scAcc k j).stale then g.2.next4 k j
    else match g.2.post port k (some ((s.gpr k j gd).toNat % 256)) q (BitVec.ofNat 512 (ofLe g.1.1)) with
    | none => s
    | some r => (r.2.progressOf (pk tCORE k) 7 1).next4 k j

/-- RDSYS: 0 house time, 1 step number, 2 attempt, 3 partition, 4 core ID. -/
def opRdsys (k j : Nat) (gd : BitVec 5) (imm : W16) (s : State) : State :=
  let q := s.scRec k j
  let put := fun (v : Nat) => (s.setGpr k j gd (BitVec.ofNat 64 v)).next4 k j
  match imm.toNat with
  | 0 => put s.now
  | 1 => put (match q with | some r => r.step | none => 0)
  | 2 => put (match q with | some r => r.attempt | none => 0)
  | 3 => put (s.scAcc k j).part
  | 4 => put k
  | _ => s.scFailHere k j

/-- FENCE (R179): a fabric release waits for every remote write and atomic of the pipe; an acquire discards the cached lines. -/
def opFence (k j : Nat) (imm : W16) (s : State) : State :=
  let kind := bits imm 1 0
  let scope := bits imm 3 2
  if kind = 0 then s.scFailHere k j
  else if kind.testBit 0 && scope == 3 && (s.pipe k j).remote != 0 then s
  else
    let s1 := if kind.testBit 1 then s.acquireAt k scope else s
    s1.next4 k j

/-- HALT: the program ends; the record is done once its remote stores are complete. -/
def opHalt (k j : Nat) (s : State) : State :=
  let s1 := s.executed k j fun p => { p with running := false }
  if (s.pipe k j).remote = 0 then s1.finish k (5 + j) none else s1

/-! ### The commands -/

/-- SC_RUN (R115): the pipe starts at its program's address, which must name the store, with its arguments in g1 to g4. The other
registers keep what the program before left in them (log entry 76). -/
def execScRun (core pipe : Nat) (s : State) : Out :=
  if 2 ≤ pipe then .next s
  else match s.ready core (5 + pipe) with
  | none => .next s
  | some q =>
    if recOpcode q.bits ≠ 0x30 then .next s
    else
      let ao := byteFld q.bits 16 8
      .next (s.startRecord core (5 + pipe) q fun s1 =>
        if aoSpace ao ≠ 1 then s1.scFail core pipe ⟨errRuntime, aoAddr ao⟩
        else s1.modPipe core pipe fun p =>
        { p with running := true, pc := aoAddr ao, prog := p.prog + 1,
                 g := (List.range 4).foldl (fun g i => Tbl.set g (i + 1) (BitVec.ofNat 64 (byteFld q.bits (24 + 8 * i) 8))) p.g })

def execAlu (core pipe : Nat) (fn : BitVec 11) (gd ga gb : BitVec 5) (s : State) : Out :=
  s.scCmd core pipe useR (wordR 0x00 gd ga gb fn) (opAlu core pipe fn gd ga gb)

def execAddi (core pipe : Nat) (gd ga : BitVec 5) (imm : W16) (s : State) : Out :=
  s.scCmd core pipe useR (wordI 0x01 gd ga imm) (opImm core pipe gd ga fun a => a + sext imm)

def execAndi (core pipe : Nat) (gd ga : BitVec 5) (imm : W16) (s : State) : Out :=
  s.scCmd core pipe useR (wordI 0x02 gd ga imm) (opImm core pipe gd ga fun a => a &&& sext imm)

def execOri (core pipe : Nat) (gd ga : BitVec 5) (imm : W16) (s : State) : Out :=
  s.scCmd core pipe useR (wordI 0x03 gd ga imm) (opImm core pipe gd ga fun a => a ||| sext imm)

def execXori (core pipe : Nat) (gd ga : BitVec 5) (imm : W16) (s : State) : Out :=
  s.scCmd core pipe useR (wordI 0x04 gd ga imm) (opImm core pipe gd ga fun a => a ^^^ sext imm)

def execShli16 (core pipe : Nat) (gd ga : BitVec 5) (imm : W16) (s : State) : Out :=
  s.scCmd core pipe useR (wordI 0x05 gd ga imm) (opImm core pipe gd ga fun a => (a <<< 16) ||| imm.zeroExtend 64)

def execLd (core pipe : Nat) (gd ga : BitVec 5) (imm : W16) (err : MemErr) (s : State) : Out :=
  s.scCmd core pipe useR (wordI 0x08 gd ga imm) (opLoad 8 core pipe gd ga imm err)

def execLdw (core pipe : Nat) (gd ga : BitVec 5) (imm : W16) (err : MemErr) (s : State) : Out :=
  s.scCmd core pipe useR (wordI 0x09 gd ga imm) (opLoad 4 core pipe gd ga imm err)

def execSt (core pipe : Nat) (gd ga : BitVec 5) (imm : W16) (s : State) : Out :=
  s.scCmd core pipe useR (wordI 0x0A gd ga imm) (opStore 8 core pipe gd ga imm)

def execStw (core pipe : Nat) (gd ga : BitVec 5) (imm : W16) (s : State) : Out :=
  s.scCmd core pipe useR (wordI 0x0B gd ga imm) (opStore 4 core pipe gd ga imm)

def execCld (core pipe : Nat) (gd ga : BitVec 5) (imm : W16) (err : MemErr) (s : State) : Out :=
  s.scCmd core pipe useR (wordI 0x0C gd ga imm) (opCload 8 core pipe gd ga imm err)

def execCldw (core pipe : Nat) (gd ga : BitVec 5) (imm : W16) (err : MemErr) (s : State) : Out :=
  s.scCmd core pipe useR (wordI 0x0D gd ga imm) (opCload 4 core pipe gd ga imm err)

def execCst (core pipe : Nat) (gd ga : BitVec 5) (imm : W16) (s : State) : Out :=
  s.scCmd core pipe useR (wordI 0x0E gd ga imm) (opCstore 8 core pipe gd ga imm)

def execCstw (core pipe : Nat) (gd ga : BitVec 5) (imm : W16) (s : State) : Out :=
  s.scCmd core pipe useR (wordI 0x0F gd ga imm) (opCstore 4 core pipe gd ga imm)

def execAtom (core pipe : Nat) (fn : BitVec 11) (gd ga gb : BitVec 5) (s : State) : Out :=
  s.scCmd core pipe useR (wordR 0x10 gd ga gb fn) (opAtom core pipe fn gd ga gb)

def execBeq (core pipe : Nat) (gd ga : BitVec 5) (imm : W16) (s : State) : Out :=
  s.scCmd core pipe useR (wordI 0x14 gd ga imm) (opBranch core pipe (fun d a => d == a) gd ga imm)

def execBne (core pipe : Nat) (gd ga : BitVec 5) (imm : W16) (s : State) : Out :=
  s.scCmd core pipe useR (wordI 0x15 gd ga imm) (opBranch core pipe (fun d a => d != a) gd ga imm)

/-- BLT compares as two's complement (log entry 20). -/
def execBlt (core pipe : Nat) (gd ga : BitVec 5) (imm : W16) (s : State) : Out :=
  s.scCmd core pipe useR (wordI 0x16 gd ga imm) (opBranch core pipe (fun d a => d.slt a) gd ga imm)

/-- BGE compares as two's complement (log entry 20). -/
def execBge (core pipe : Nat) (gd ga : BitVec 5) (imm : W16) (s : State) : Out :=
  s.scCmd core pipe useR (wordI 0x17 gd ga imm) (opBranch core pipe (fun d a => !d.slt a) gd ga imm)

def execJal (core pipe : Nat) (gd : BitVec 5) (imm : W16) (s : State) : Out :=
  s.scCmd core pipe useDI (wordI 0x18 gd 0 imm) (opJal core pipe gd imm)

def execJr (core pipe : Nat) (gd ga : BitVec 5) (s : State) : Out :=
  s.scCmd core pipe useDA (wordI 0x19 gd ga 0) (opJr core pipe gd ga)

def execWaitc (core pipe : Nat) (ga : BitVec 5) (imm : W16) (s : State) : Out :=
  s.scCmd core pipe useAI (wordI 0x1C 0 ga imm) (opWaitc core pipe ga imm)

def execSigc (core pipe : Nat) (ga gb : BitVec 5) (s : State) : Out :=
  s.scCmd core pipe useAB (wordR 0x1D 0 ga gb 0) (opSigc core pipe ga gb)

def execPost (core pipe : Nat) (gd ga gb : BitVec 5) (s : State) : Out :=
  s.scCmd core pipe useNoFn (wordR 0x1E gd ga gb 0) (opPost core pipe gd ga gb)

def execRdsys (core pipe : Nat) (gd : BitVec 5) (imm : W16) (s : State) : Out :=
  s.scCmd core pipe useDI (wordI 0x1F gd 0 imm) (opRdsys core pipe gd imm)

def execFence (core pipe : Nat) (imm : W16) (s : State) : Out :=
  s.scCmd core pipe useI (wordI 0x20 0 0 imm) (opFence core pipe imm)

def execHalt (core pipe : Nat) (s : State) : Out :=
  s.scCmd core pipe useOp (wordI 0x3F 0 0 0) (opHalt core pipe)

/-- Any instruction by its word: what a debug STEP runs (R471). ECC outcomes of a stepped load are clean. -/
def scExec (k j w : Nat) (s : State) : State :=
  let gd := iGd w
  let ga := iGa w
  let gb := iGb w
  let fn := iFn w
  let imm := iImm w
  match iOp w with
  | 0x00 => opAlu k j fn gd ga gb s
  | 0x01 => opImm k j gd ga (fun a => a + sext imm) s
  | 0x02 => opImm k j gd ga (fun a => a &&& sext imm) s
  | 0x03 => opImm k j gd ga (fun a => a ||| sext imm) s
  | 0x04 => opImm k j gd ga (fun a => a ^^^ sext imm) s
  | 0x05 => opImm k j gd ga (fun a => (a <<< 16) ||| imm.zeroExtend 64) s
  | 0x08 => opLoad 8 k j gd ga imm .clean s
  | 0x09 => opLoad 4 k j gd ga imm .clean s
  | 0x0A => opStore 8 k j gd ga imm s
  | 0x0B => opStore 4 k j gd ga imm s
  | 0x0C => opCload 8 k j gd ga imm .clean s
  | 0x0D => opCload 4 k j gd ga imm .clean s
  | 0x0E => opCstore 8 k j gd ga imm s
  | 0x0F => opCstore 4 k j gd ga imm s
  | 0x10 => opAtom k j fn gd ga gb s
  | 0x14 => opBranch k j (fun d a => d == a) gd ga imm s
  | 0x15 => opBranch k j (fun d a => d != a) gd ga imm s
  | 0x16 => opBranch k j (fun d a => d.slt a) gd ga imm s
  | 0x17 => opBranch k j (fun d a => !d.slt a) gd ga imm s
  | 0x18 => opJal k j gd imm s
  | 0x19 => opJr k j gd ga s
  | 0x1C => opWaitc k j ga imm s
  | 0x1D => opSigc k j ga gb s
  | 0x1E => opPost k j gd ga gb s
  | 0x1F => opRdsys k j gd imm s
  | 0x20 => opFence k j imm s
  | _ => opHalt k j s

/-- RC_FLUSH (R117, Table 5.14): bit 0 of a write to CBUF.RC_FLUSH. It is no acquire and no step edge, so RC_INVAL stays. -/
def execRcFlush (core : Nat) (v : W64) (s : State) : Out :=
  whenOk (s.up && decide (core < 128) && bitOf v 0) (s.modCore core fun c => { c with rc := [] }) s

end Sys2Proof.Machine
end

