-- ==== Sys2Proof/Machine/Records.lean ====
section
/-! DEFINITION. Machine/Records.lean: the cluster sequencers place records, records retire, and the emit gate takes token
records (R95, R97, R100, R113, R218, R280). -/

namespace Sys2Proof.Machine

open Sys2Proof

/-! ### Placement (R95, R100, R227) -/

/-- The launch a sequencer places records of: `ahead` launches after its oldest. -/
def State.seqLaunch (s : State) (c ahead : Nat) : Option Entry :=
  match (s.seq c).launches[ahead]? with
  | some u => s.ents.find? fun e => e.uid == u
  | none => none

/-- The run-ahead limit of the plan a step runs (R48). -/
def State.runAheadOf (s : State) (p step : Nat) : Nat :=
  match s.planOfStep p step with
  | some q => q.runAhead
  | none => 0

/-- Every widenable layer among the first `n` of a step's table has its mark (R280). -/
def State.marksMade (s : State) (p step n : Nat) : Bool :=
  ((s.layersOf p step).take n).all fun l => !s.widenable p step l.layer || (s.ctx p).marks.any fun m => m.step == step && m.layer == l.layer

/-- Whether a record of a layer may be placed now: no rewind in progress holds it back (R281), and every widenable layer up to its own
has its mark in the step's attempt, where the partition's sequencers wait for it (R280). -/
def State.layerOpen (s : State) (p step layer : Nat) : Bool :=
  let c := s.ctx p
  let ls := s.layersOf p step
  let held := match c.rewind with
    | some r => !r.absent && (decide (c.cur < step) || decide (layerRank ls r.layer ≤ layerRank ls layer))
    | none => false
  !held && s.marksMade p step (layerRank ls layer + 1)

/-- A cluster's cores hold no record queued or started. -/
def State.clusterIdle (s : State) (c : Nat) : Bool :=
  (List.range 4).all fun i =>
    let k := s.core (4 * c + i)
    k.queues.all (fun e => e.2.isEmpty) && k.exec.all (fun e => e.2.isEmpty)

/-- An array when an attempt begins: its counts restart (R88, R288), and it holds nothing of what came before (R94) but what operations
of a discarded attempt, still running, use. -/
def ArrSt.begin (a : ArrSt) : ArrSt :=
  if a.ops.isEmpty then ArrSt.zero
  else { a with draw := 0, tiles := 0, oldDraw := if a.draw = 0 then a.oldDraw else a.draw }

/-- An attempt begins on a cluster: the 64 counters of its cores are set to zero (R100). -/
def State.beginOn (s : State) (c : Nat) : State :=
  s.each (List.range 4) fun s i => s.modCore (4 * c + i) fun k =>
    { k with dc := [], dcWide := [], arrs := k.arrs.map fun a => (a.1, a.2.begin) }

/-- The place of a sequencer in the stream of the launch it places. -/
def SeqSt.at (q : SeqSt) : Nat := q.nextOff / 128

/-- How many records of a step a cluster's sequencer has placed in the step's attempt. -/
def State.placedOf (s : State) (p step c : Nat) : Nat :=
  let q := s.seq c
  let d := step - (s.ctx p).cur
  if d < q.runAheadDepth then (s.clusterStream p step c).length
  else if d = q.runAheadDepth ∧ q.begun then q.at
  else 0

/-- The clusters that a step's launch runs on: the first CLUSTERS of its partition (R215). -/
def State.stepClusters (s : State) (p step : Nat) : List Nat :=
  match s.planOfStep p step with
  | some q => (s.clustersOf p).take q.clusters
  | none => []

/-- Every record of a step is placed. -/
def State.streamsDone (s : State) (p step : Nat) : Bool :=
  (s.stepClusters p step).all fun c => decide ((s.clusterStream p step c).length ≤ s.placedOf p step c)

/-- The records that a sequencer has yet to place of the step that it is placing. -/
def State.seqLeft (s : State) (p c : Nat) : List PlanRec :=
  (s.clusterStream p ((s.ctx p).cur + (s.seq c).runAheadDepth) c).drop (s.seq c).at

/-- The record that comes next of the launch `ahead` places after a sequencer's oldest: a step that has not begun starts with its
first (R95). -/
def State.nextRec (s : State) (p c ahead : Nat) : Option PlanRec :=
  (s.clusterStream p ((s.ctx p).cur + ahead) c)[if ahead = (s.seq c).runAheadDepth then (s.seq c).at else 0]?

/-- A breakpoint of a sequencer names an operation index (R471). -/
def SeqSt.atBreak (q : SeqSt) (op : Nat) : Bool := !q.pass && q.bps.any fun b => b.2 == some op

/-- What must hold for the sequencer of a core's cluster to place a record of the launch `ahead` places after its oldest. It runs ahead
into the next step once it has placed every record of the step before and they have retired, and every layer mark there has been made
(R48, R280). -/
def State.placeOk (s : State) (k ahead : Nat) (e : Entry) (q : QRec) : Bool :=
  let c := coreCluster k
  let sq := s.seq c
  let x := s.ctx e.part
  s.running && decide (k < 128) && sq.placing && !sq.halted && x.bound && !x.frozen && !x.coordLost && x.running
    && e.step == some (x.cur + ahead) && decide (ahead ≤ s.runAheadOf e.part (x.cur + ahead))
    && sq.begun && (ahead == sq.runAheadDepth || (ahead == sq.runAheadDepth + 1 && s.clusterIdle c && (s.seqLeft e.part c).isEmpty))
    && decide (s.engineHeld k (recEngine q.bits) < 64) && !(x.fails.any fun f => f.1 == x.cur + ahead)
    && s.layerOpen e.part (x.cur + ahead) q.layer
    && (ahead == 0 || s.marksMade e.part (x.cur + ahead - 1) (s.layersOf e.part (x.cur + ahead - 1)).length)

/-- RECORD_PLACE (R95, R194): the next record of the launch, as its plan's streams hold it, goes to the queue of the engine it names. The
command names the record; another than the next one is not placed. The first record of a run-ahead step begins its attempt on the
cluster (R100). -/
def execRecordPlace (core : Nat) (opidx : W32) (rec : Rec) (ahead : Nat) (s : State) : Out :=
  let c := coreCluster core
  match s.seqLaunch c ahead with
  | none => .next s
  | some e =>
    let step := (s.ctx e.part).cur + ahead
    let attempt := if ahead = 0 then (s.ctx e.part).attempt else 0
    let q : QRec := ⟨rec, opidx, step, attempt, layerOf (s.layersOf e.part step) opidx.toNat, e.uid⟩
    let next := (s.nextRec e.part c ahead).any fun x => x.core == core && x.opidx == opidx && x.bits == rec
    if !next || !s.placeOk core ahead e q then .next s
    else if (s.seq c).atBreak opidx.toNat then
      .next (((s.modSeq c fun q => { q with halted := true }).attn 1).debugEvent 14 e.part)
    else
      let s1 := if (s.seq c).runAheadDepth < ahead then (s.beginOn c).modSeq c fun q => { q with runAheadDepth := ahead, nextOff := 0 } else s
      let s2 := s1.setQueue core (recEngine rec) (s1.queue core (recEngine rec) ++ [q])
      let one := (s.seq c).step1
      let s2 := if one then (s2.attn 2).debugEvent 14 e.part else s2
      let s3 := s2.modSeq c fun q =>
        { q with nextOff := q.nextOff + 128, bucket := e.bucket, pass := false, step1 := false, halted := q.halted || one }
      .next (((s3.bump (pk tCSQ c) 0x048 1).bump64 (pk tCSQ c) 0x050 128).progress (pk tCSQ c) 1)

/-! ### Retirement (R97, R218) -/

/-- A core holds no record of a step and its sequencer has none left for it: the last of the attempt has retired. -/
def State.coreFinished (s : State) (p step k : Nat) : Bool :=
  let c := coreCluster k
  let left := if (s.ctx p).cur + (s.seq c).runAheadDepth = step then s.seqLeft p c else []
  left.all (fun x => x.core != k) && (s.core k).queues.all (fun e => e.2.all fun q => q.step != step)
    && (s.core k).exec.all fun e => e.2.all fun x => x.stale || x.q.step != step

/-- The sampling window of a core's samples of a step closes when the last record of the attempt retires: those not checked are dropped
and counted (R291). -/
def State.endSamples (s : State) (p step k : Nat) : State :=
  let n := ((s.core k).shadowQ.filter fun x => x.step == step).length
  if n = 0 ∨ s.coreFinished p step k = false then s
  else (s.modCore k fun c => { c with shadowQ := c.shadowQ.filter fun x => x.step != step }).bump (pk tVEC k) 0x080 n

/-- The engine of Table 18.1 whose progress a retirement advances: scalar pipes and the port. -/
def State.retireProgress (s : State) (k e : Nat) : State :=
  if 5 ≤ e then s.progressOf (pk tCORE k) e 1 else s

/-- RECORD_RETIRE (R97): a record whose writes are complete leaves its engine, in queue order but for the port (R103), and its
signals fire. A record that ended with an error fails its attempt and signals nothing (R218, log entry 19); nor does one whose
attempt was discarded while it ran (R118, log entry 31). -/
def execRecordRetire (core eng idx : Nat) (s : State) : Out :=
  if eng ≠ 7 ∧ idx ≠ 0 then .next s
  else match (s.execs core eng)[idx]? with
  | none => .next s
  | some x =>
    if !s.running || !x.done then .next s
    else
      let s1 := (s.setExecs core eng ((s.execs core eng).eraseIdx idx)).bump (pk tCORE core) (0x040 + 8 * eng) 1
      let s2 := (s1.retireProgress core eng).endSamples ((s.coreOwner core).getD 0) x.q.step core
      if x.stale then .next s2
      else match x.err with
      | none => .next (s2.fireSignals core x.q.bits)
      | some e =>
        let p := (s.coreOwner core).getD 0
        .next ((s2.noteErr (pk tCORE core) e.st.toNat e.sub.toNat).attemptFault p (coreCluster core) x.q.step e x.q.opidx.toNat)

/-! ### The emit gate (R113, Table 17.1) -/

/-- A token record as the emit gate holds it: REPEATED and the edge time are set at release. -/
def tokenRec (stream pos part : Nat) (draft : Bool) (tok step : Nat) : Msg32 :=
  pack 256 [bfld 0 4 stream, bfld 4 6 pos, ⟨84, 80, part⟩, ⟨88, 88, b2n draft⟩, bfld 12 4 tok, bfld 16 8 step]

/-- PORT_EMIT (R113): one token record for each of the count's tokens, token i at POS + i, held until the step edge. A
discarded attempt's are dropped. -/
def State.emitBody (s : State) (k : Nat) (q : QRec) : Option Flt × State :=
  let a := s.accOf k q
  let ctxA := byteFld q.bits 16 8
  let tokA := byteFld q.bits 24 8
  let cntA := byteFld q.bits 32 8
  let rc := s.readOp false a ctxA 0 96
  match rc.1.use (aoAddr ctxA) with
  | .error e => (some e, rc.2)
  | .ok cb =>
    let rn := rc.2.readOp false a cntA 0 4
    match rn.1.use (aoAddr cntA) with
    | .error e => (some e, rn.2)
    | .ok nb =>
      let n := ofLe nb % 32
      let acc := nbits (ofLe nb) 12 8
      let d := ofLe ((cb.drop 18).take 1)
      if d + 1 < n then (some ⟨errRuntime, aoAddr cntA⟩, rn.2)
      else
        let rt := rn.2.readOp false a tokA 0 (4 * n)
        match rt.1.use (aoAddr tokA) with
        | .error e => (some e, rt.2)
        | .ok tb =>
          let stream := ofLe ((cb.drop 8).take 4)
          let pos := ofLe ((cb.drop 12).take 6)
          let recs := (List.range n).map fun i =>
            (⟨a.part, q.uid, q.step, q.opidx.toNat,
              tokenRec stream (pos + i) a.part (decide (i < acc)) (ofLe ((tb.drop (4 * i)).take 4)) q.step⟩ : HeldTok)
          (none, if a.stale then rt.2 else rt.2.modEmit fun g => { g with held := g.held ++ recs })

/-- PORT_EMIT: at most 64 port records at once (R103); the record is done when the emit gate holds its records. -/
def execPortEmit (core : Nat) (s : State) : Out :=
  if 64 ≤ (s.execs core 7).length then .next s
  else s.runRecord core 7 0x43 fun q s => (s.progressOf (pk tCORE core) 7 1).emitBody core q

end Sys2Proof.Machine
end

