-- ==== Sys2Proof/Machine/Queues.lean ====
section
/-! DEFINITION. Machine/Queues.lean: submission and completion queues: entries, fetch, fences and semaphores, completion,
broken queues, notices, the deadlock walk (R208 to R228, R431, R448, R452, R453). -/

namespace Sys2Proof.Machine

open Sys2Proof

/-! ### Configuration (Tables 20.13, 20.14) -/

def State.sqEntries (s : State) (fn : Fn) (q : Nat) : Nat := bits (s.rg (sqPage fn) (0x208 + 0x20 * q)) 12 0
def State.sqCq (s : State) (fn : Fn) (q : Nat) : Nat := bits (s.rg (sqPage fn) (0x208 + 0x20 * q)) 21 16
def State.sqCtx (s : State) (fn : Fn) (q : Nat) : Nat := bits (s.rg (sqPage fn) (0x208 + 0x20 * q)) 26 24
def State.sqBase (s : State) (fn : Fn) (q : Nat) : Nat := 4096 * bits (s.rg (sqPage fn) (0x200 + 0x20 * q)) 63 12
def State.cqEntries (s : State) (fn : Fn) (q : Nat) : Nat := bits (s.rg (cqPage fn) (0x208 + 0x20 * q)) 12 0
def State.cqVector (s : State) (fn : Fn) (q : Nat) : Nat :=
  match fn with
  | .pf => bits (s.rg (cqPage fn) (0x208 + 0x20 * q)) 26 16
  | .vf _ => bits (s.rg (cqPage fn) (0x208 + 0x20 * q)) 21 16
def State.cqBase (s : State) (fn : Fn) (q : Nat) : Nat := 4096 * bits (s.rg (cqPage fn) (0x200 + 0x20 * q)) 63 12
def State.trBase (s : State) (fn : Fn) (q : Nat) : Nat := 4096 * bits (s.rg (cqPage fn) (0x210 + 0x20 * q)) 63 12
def State.trEntries (s : State) (fn : Fn) (q : Nat) : Nat := bits (s.rg (cqPage fn) (0x218 + 0x20 * q)) 20 0

/-- The GFE's page. -/
def pgGFE : Nat := pk tGFE 0

/-! ### SQ entries (Tables 10.1 to 10.3) -/

def entOpc (r : Desc) : Nat := byteFld r 0 1
def entFlag (r : Desc) (i : Nat) : Bool := bitOf r (8 + i)
def entWaits (r : Desc) : Nat := bits r 18 16
def entSigs (r : Desc) : Nat := bits r 20 19
def entPrio (r : Desc) : Nat := bits r 25 24
def entPartF (r : Desc) : Nat := bits r 30 26
def entSlot (r : Desc) (i : Nat) : Nat := byteFld r (16 + 8 * i) 8
/-- The slot of operand `i`: operands follow the waits and the signals. -/
def entOperand (r : Desc) (i : Nat) : Nat := entSlot r (entWaits r + entSigs r + i)

/-- A wait or signal slot (Table 10.2). -/
structure WSlot where
  sem : Bool
  idx : Nat
  val : Nat
deriving DecidableEq, Repr

def wslotOf (w : Nat) : WSlot := ⟨nbits w 62 62 == 1, nbits w 61 46, nbits w 45 0⟩

/-- A slot in the ranges of Table 10.2. -/
def wslotOk (w : Nat) : Bool :=
  nbits w 63 63 == 0 && (nbits w 62 62 == 0 || (decide (nbits w 61 46 < 4096) && decide (1 ≤ nbits w 45 0 ∧ nbits w 45 0 ≤ 0xFFFFFFFF)))

def entWaitL (r : Desc) : List WSlot := (List.range (entWaits r)).map fun i => wslotOf (entSlot r i)
def entSigL (r : Desc) : List WSlot := (List.range (entSigs r)).map fun i => wslotOf (entSlot r (entWaits r + i))

/-- Operand slots that an entry's kind takes. A LAUNCH without inline constants takes a pointer slot where one is left and is
not zero (log entry 28). -/
def entOperands (r : Desc) : Nat :=
  match entOpc r with
  | 1 => if entFlag r 0 then 4 else 0
  | 3 => 2
  | 4 => 1
  | _ => 0

/-- The constant pointer of a LAUNCH: none where INLINE is set, no slot is left, or the slot is zero (log entry 28). -/
def entPointer (r : Desc) : Option Nat :=
  if entFlag r 0 || decide (6 ≤ entWaits r + entSigs r) then none
  else if entOperand r 0 = 0 then none else some (entOperand r 0)

/-- The form of an entry (R211). -/
def entOk (fn : Fn) (r : Desc) : Bool :=
  let opc := entOpc r
  let slots := (List.range (entWaits r + entSigs r)).all fun i => wslotOk (entSlot r i)
  let body := match opc with
    | 0 => byteFld r 4 12 == 0
    | 1 => decide (1 ≤ byteFld r 12 2 ∧ byteFld r 12 2 ≤ 4096) && byteFld r 14 2 != 0
    | 2 => byteFld r 4 12 == 0
    | 3 => byteFld r 8 8 == 0
    | 4 => byteFld r 4 12 == 0
    | _ => true
  let ptr := match entPointer r with
    | some w => opc != 1 || nbits w 63 61 == 0
    | none => true
  decide (opc ≤ 6) && byteFld r 1 1 / 8 == 0 && bits r 23 21 == 0 && decide (entWaits r ≤ 4) && decide (entSigs r ≤ 2)
    && !bitOf r 31 && (match fn with | .pf => true | .vf _ => entPartF r == 0)
    && decide (entWaits r + entSigs r + entOperands r ≤ 6) && slots && body && ptr

/-- The partition an entry acts for. -/
def entPart (fn : Fn) (r : Desc) : Nat := match fn with | .pf => entPartF r | .vf p => p

/-! ### Fences and semaphores (R220) -/

def syncKey (p ctx i : Nat) : Nat := (p * 8 + ctx) * 65536 + i
def State.fence (s : State) (p ctx i : Nat) : Nat := (Tbl.get 0 s.fences (syncKey p ctx i)).toNat
def State.sem (s : State) (p ctx i : Nat) : Nat := Tbl.get 0 s.sems (syncKey p ctx i)

/-- Whether a wait of an entry is met: a semaphore's count covers the sum of the entry's waits on it. -/
def State.slotMet (s : State) (p ctx : Nat) (l : List WSlot) (w : WSlot) : Bool :=
  if w.sem then decide (((l.filter fun x => x.sem && x.idx == w.idx).map (·.val)).sum ≤ s.sem p ctx w.idx)
  else decide (w.val ≤ s.fence p ctx w.idx)

/-- Every wait of an entry is met at one instant. -/
def State.entMet (s : State) (e : Entry) : Bool := (entWaitL e.raw).all (s.slotMet e.part e.ctx (entWaitL e.raw))

/-- Placement subtracts what the semaphore waits name. -/
def State.takeWaits (s : State) (e : Entry) : State :=
  s.each (entWaitL e.raw) fun s w =>
    if w.sem then { s with sems := Tbl.set s.sems (syncKey e.part e.ctx w.idx) (s.sem e.part e.ctx w.idx - w.val) } else s

/-- One signal: a fence takes the larger value; a semaphore's sum saturates, and a saturation is counted. -/
def State.signalSlot (s : State) (p ctx : Nat) (w : WSlot) : State :=
  let k := syncKey p ctx w.idx
  if w.sem then
    let n := s.sem p ctx w.idx + w.val
    let s1 := { s with sems := Tbl.set s.sems k (min n 0xFFFFFFFF) }
    if 0xFFFFFFFF < n then s1.countErr pgGFE else s1
  else { s with fences := Tbl.set s.fences k (BitVec.ofNat 64 (max (s.fence p ctx w.idx) w.val)) }

/-- Statuses that count as success for HOLD_ON_ERROR (R221). -/
def stGood (st : W16) : Bool := decide (st.toNat ≤ 2)

/-- A completing entry makes its signals, in slot order (R221). -/
def State.signalEnt (s : State) (e : Entry) : State :=
  if e.noSig || (entFlag e.raw 1 && !stGood e.status.st) then s
  else s.each (entSigL e.raw) fun s w => s.signalSlot e.part e.ctx w

/-! ### Entries in hand -/

def State.ent (s : State) (uid : Nat) : Option Entry := s.ents.find? fun e => e.uid == uid
def State.modEnt (s : State) (uid : Nat) (f : Entry → Entry) : State :=
  { s with ents := s.ents.map fun e => if e.uid = uid then f e else e }

/-- The head of an SQ: its oldest entry not yet placed; none while a SIGNAL, HOST_COPY, LOAD, UNLOAD, PATCH or NOP ahead of it
has not completed (R213). -/
def State.sqHead (s : State) (fn : Fn) (q : Nat) : Option Entry :=
  let mine := s.ents.filter fun e => e.fn == fn && e.sq == q
  match mine.find? fun e => e.st == .fetched with
  | none => none
  | some e => if mine.any fun x => x.st == .done && entOpc x.raw != 1 && decide (x.uid < e.uid) then none else some e

/-- An entry completes with a status: it waits for its CQ entry to be written, behind those that completed before. -/
def State.entDone (s : State) (uid : Nat) (err : Err) : State :=
  match s.ent uid with
  | none => s
  | some e =>
    let s := if entOpc e.raw = 1 then s.bump (pk tPART e.part) 0x040 1 else s
    let s := if err.st = stTRANSLATION then s.bump (pk tPART e.part) 0x048 1 else s
    { s with ents := (s.ents.filter fun x => x.uid != uid) ++
        [{ e with st := .done, busy := false, status := err, endT := s.time.now, start := if e.st = .fetched ∧ e.busy = false then s.time.now else e.start }] }

/-- PLAN_INVALID with a sub-status of Table 9.6. -/
def errPlan (sub : Nat) : Err := ⟨stPLAN, BitVec.ofNat 16 sub⟩
def errOk : Err := ⟨0, 0⟩

/-! ### Notices (R224, R414, R448) -/

/-- A CQ entry of 64 B less its phase, as the 32 B of contract level 1 (R225). -/
def cqe32 (d : Desc) : Nat :=
  packNat [bfld 0 2 (byteFld d 0 2), bfld 2 2 (byteFld d 2 2), bfld 4 4 (byteFld d 4 4), bfld 8 2 (byteFld d 8 2),
    bfld 10 2 (byteFld d 10 2), bfld 12 4 (byteFld d 40 4), bfld 16 8 (byteFld d 32 8), bfld 24 1 (byteFld d 52 1),
    bfld 25 1 (byteFld d 53 1), bfld 26 2 (byteFld d 48 2), bfld 28 3 (min (byteFld d 44 4) 0xFFFFFF),
    ⟨250, 249, byteFld d 56 1⟩]

/-- The bytes of a CQ entry: 64 B at contract level 2, 32 B at level 1, with the phase in the last byte. -/
def State.cqeBytes (s : State) (phase : Bool) (d : Desc) : Bytes :=
  if s.gfe.level = 1 then leBytes 32 (cqe32 d ||| (b2n phase <<< 248)) else leBytes 64 (d.toNat ||| (b2n phase <<< 504))

def State.cqeSize (s : State) : Nat := if s.gfe.level = 1 then 32 else 64

/-- Entries fetched and not completed that are bound to a CQ: each holds a slot (R209). -/
def State.cqReserved (s : State) (fn : Fn) (q : Nat) : Nat := (s.ents.filter fun e => e.fn == fn && e.cq == q).length

/-- A CQ has a free slot (R209). -/
def State.cqRoom (s : State) (fn : Fn) (q : Nat) : Bool :=
  decide ((s.cq (qKey fn q)).used + s.cqReserved fn q < s.cqEntries fn q)

/-- A CQ entry written at the tail, and the CQ's message unless `quiet`. -/
def State.cqPush (s : State) (fn : Fn) (q : Nat) (d : Desc) (quiet : Bool) : State :=
  let c := s.cq (qKey fn q)
  let n := s.cqEntries fn q
  let s1 := s.hostWrite fn (s.cqBase fn q + s.cqeSize * c.tail) (s.cqeBytes c.phase d)
  let wrap := decide (n ≤ c.tail + 1)
  let s2 := s1.modCq (qKey fn q) fun c =>
    { c with tail := if wrap then 0 else c.tail + 1, phase := if wrap then !c.phase else c.phase, used := c.used + 1,
             lastId := BitVec.ofNat 32 (byteFld d 4 4) }
  let s3 := (s2.bump pgGFE 0x050 1).progress pgGFE 1
  if quiet then s3 else s3.msix fn (s3.cqVector fn q)

/-- One more notice held; the 257th overwrites the oldest (R448). -/
def State.holdNotice (s : State) (n : Notice) : State :=
  if s.gfe.notices.length < 256 then s.modGfe fun g => { g with notices := g.notices ++ [n] }
  else (s.modGfe fun g => { g with notices := g.notices.drop 1 ++ [n] }).noteErr pgGFE 0x50 0

/-- A QUEUE_BROKEN notice (R228, R431). -/
def brokenNotice (fn : Fn) (q sub : Nat) (now : W64) : Notice :=
  let pf := match fn with | .pf => 1 | .vf _ => 0
  let part := match fn with | .pf => 0 | .vf p => 0x80 + p
  pack 512 [⟨5, 0, q⟩, ⟨15, 15, pf⟩, bfld 8 2 0x61, bfld 10 2 sub, bfld 24 8 now.toNat, bfld 32 8 0, bfld 56 1 2, bfld 57 1 part]

/-- A CQ becomes BROKEN: its flags, QUEUE_BROKEN, and the failure recorded. -/
def State.markBroken (s : State) (fn : Fn) (q : Nat) (ring : Bool) (addr : Nat) : State :=
  let s1 := s.modCq (qKey fn q) fun c =>
    { c with broken := true, trFault := c.trFault || ring, cqFault := c.cqFault || !ring, overflow := c.overflow || !ring }
  (s1.raise pgGFE 0).hostFault fn addr 1 (if ring then 1 else 0)

/-- The PF CQ that notices go to, where it is named, enabled, whole and has room. -/
def State.noticeCq (s : State) : Option Nat :=
  let w := s.rg pgGFE 0x208
  let q := bits w 3 0
  let c := s.cq (qKey .pf q)
  if bitOf w 7 && c.enabled && !c.broken && s.cqRoom .pf q then some q else none

/-- Held notices written, oldest first (R448). -/
def State.flushNotices : Nat → State → State
  | 0, s => s
  | f + 1, s =>
    match s.gfe.notices, s.noticeCq with
    | n :: rest, some q =>
      if s.writeFaults .pf false then
        (s.markBroken .pf q false (s.cqBase .pf q)).holdNotice (brokenNotice .pf q 1 s.time.now)
      else
        State.flushNotices f ((s.modGfe fun g => { g with notices := rest }).cqPush .pf q n false)
    | _, _ => s

/-- Notices that can be written are; NOTICE_WAIT is raised while any is held. -/
def State.drainNotices (s : State) : State :=
  let s1 := s.flushNotices (s.gfe.notices.length + 1)
  if s1.gfe.notices = [] then s1 else s1.raise pgGFE 2

/-- A notice for the PF notice CQ. -/
def State.notice (s : State) (n : Notice) : State := (s.holdNotice n).drainNotices

/-- A queue broke: the notice, and for a VF one message on its vector 0 (R228, R431). -/
def State.tellBroken (s : State) (fn : Fn) (q sub : Nat) : State :=
  let s1 := s.notice (brokenNotice fn q sub s.time.now)
  match fn with
  | .pf => s1
  | .vf _ => s1.msix fn 0

/-- A CQ breaks on a write (R228). -/
def State.breakCq (s : State) (fn : Fn) (q : Nat) (ring : Bool) (addr : Nat) : State :=
  let n := (s.emit.rel.filter fun h => s.ents.any fun e => e.uid == h.uid && e.fn == fn && e.cq == q).length
  ((s.markBroken fn q ring addr).bump (pk tEMIT 0) 0x058 n).tellBroken fn q 1

/-! ### Completion (R221, R224 to R228) -/

/-- The CQ entry of a completed entry (Table 10.4), less its phase. -/
def State.cqeOf (s : State) (e : Entry) : Desc :=
  let pf := match e.fn with | .pf => 1 | .vf _ => 0
  let step := match e.step with | some n => n | none => 0xFFFFFFFFFFFFFFFF
  pack 512 [⟨5, 0, e.sq⟩, ⟨15, 15, pf⟩, bfld 2 2 (s.sq (qKey e.fn e.sq)).head, bfld 4 4 e.launchId.toNat,
    bfld 8 2 e.status.st.toNat, bfld 10 2 e.status.sub.toNat, bfld 12 2 e.fault.st.toNat, bfld 14 2 e.fault.sub.toNat,
    bfld 16 8 e.start.toNat, bfld 24 8 e.endT.toNat, bfld 32 8 step, bfld 40 4 e.tokens, bfld 44 4 e.numEv,
    bfld 48 2 e.planH, bfld 50 2 e.bucket, bfld 52 1 e.repeats, bfld 53 1 e.outcome, bfld 54 2 e.abSub.toNat]

/-- Released token records of an entry, in order. -/
def State.relOf (s : State) (uid : Nat) : List HeldTok := s.emit.rel.filter fun h => h.uid == uid

/-- One token record written to the ring of a CQ (R190, R228). -/
def State.writeTok (s : State) (fn : Fn) (q : Nat) (h : HeldTok) : State :=
  let c := s.cq (qKey fn q)
  let n := s.trEntries fn q
  let s1 := s.hostWrite fn (s.trBase fn q + 32 * c.trTail) (leBytes 32 h.bits.toNat)
  let s2 := s1.modCq (qKey fn q) fun c =>
    { c with trTail := if n ≤ c.trTail + 1 then 0 else c.trTail + 1, trUsed := c.trUsed + 1 }
  ((s2.modEmit fun g => { g with rel := removeFirst (· == h) g.rel }).bump (pk tEMIT 0) 0x050 1).progress (pk tEMIT 0) 1

/-- An entry leaves: its token records are written, its signals made, its CQ entry written. A fault at write `faultAt` of these
breaks the CQ, and what was not written stays held (R228). Answers whether it broke. -/
def State.completeEnt (s : State) (e : Entry) (faultAt : Option Nat) : Bool × State :=
  let toks := s.relOf e.uid
  let cut := match faultAt with | some n => min n toks.length | none => toks.length
  let s1 := s.each (toks.take cut) fun s h => s.writeTok e.fn e.cq h
  if cut < toks.length then (true, s1.breakCq e.fn e.cq true (s1.trBase e.fn e.cq + 32 * (s1.cq (qKey e.fn e.cq)).trTail))
  else
    let s2 := s1.signalEnt e
    if faultAt.isSome then
      (true, (s2.modEnt e.uid fun x => { x with noSig := true }).breakCq e.fn e.cq false
        (s2.cqBase e.fn e.cq + s2.cqeSize * (s2.cq (qKey e.fn e.cq)).tail))
    else
      (false, ({ s2 with ents := s2.ents.filter fun x => x.uid != e.uid }).cqPush e.fn e.cq (s2.cqeOf e) (entFlag e.raw 2))

/-- The oldest completed entry of a CQ. -/
def State.doneOf (s : State) (fn : Fn) (q : Nat) : Option Entry :=
  s.ents.find? fun e => e.st == .done && e.fn == fn && e.cq == q

/-- COMPLETION_ENTRY (R224): the oldest completed entry of a CQ that is not BROKEN. -/
def execCompletionEntry (fn : Fn) (q : Nat) (fault : WrFault) (s : State) : Out :=
  let c := s.cq (qKey fn q)
  if !s.up || s.sage.fatal.isSome || !qOk fn q || !c.enabled || c.broken then .next s
  else match s.doneOf fn q with
    | none => .next s
    | some e =>
      let toks := (s.relOf e.uid).length
      let at_ := match fault with
        | .none => none
        | .tokenRing => if toks = 0 then none else some 0
        | .cqEntry => some toks
      let eff := if s.writeFaults fn at_.isSome then some (at_.getD 0) else none
      .next (s.completeEnt e eff).2

/-- The replay of a REARM: held entries in order, until one faults; `n` counts the writes made. -/
def State.replayCq (fn : Fn) (q : Nat) (faultAt : Option Nat) : Nat → Nat → State → Bool × State
  | 0, _, s => (false, s)
  | f + 1, n, s =>
    match s.doneOf fn q with
    | none => (false, s)
    | some e =>
      let k := (s.relOf e.uid).length + 1
      let at_ := match faultAt with
        | some x => if x < n + k then some (x - n) else none
        | none => none
      let r := s.completeEnt e at_
      if r.1 then r else State.replayCq fn q faultAt f (n + k) r.2

/-- REARM (R228, R453): held token records and completions are written in order, and BROKEN clears; a fault leaves the CQ BROKEN
with a new notice. -/
def execRearm (fn : Fn) (q : Nat) (faultAt : Option Nat) (s : State) : Out :=
  let c := s.cq (qKey fn q)
  if !s.up || !qOk fn q || !c.broken then .next s
  else
    let eff := if s.writeFaults fn faultAt.isSome then some (faultAt.getD 0) else none
    let s1 := s.modCq (qKey fn q) fun c => { c with broken := false, cqFault := false, trFault := false, overflow := false }
    let r := State.replayCq fn q eff s1.ents.length 0 s1
    .next (if r.1 then r.2 else r.2.drainNotices)

/-! ### Doorbells (R452) -/

/-- A submission doorbell. A write that takes effect crosses the FMU's doorbell tap (R378). -/
def execSqTail (fn : Fn) (q : Nat) (v : W64) (s : State) : Out :=
  let k := qKey fn q
  if !s.up || !qOk fn q then .next s
  else
    let t := bits v 12 0
    if (s.sq k).state = .disabled ∨ s.sqEntries fn q ≤ t then .next (s.countErr (dbPage fn))
    else
      .next ((s.modFmu fun f => { f with tapOrd := f.tapOrd + 1, doorTap := f.doorTap ++ [⟨fn, q, (s.sq k).tail, t, s.time.now, f.tapOrd + 1⟩] }).modSq k
        fun x => { x with tail := t })

/-- Slots that a head write frees, going round a ring of `n`; none where the value lies outside the span. -/
def freedBy (n used head v : Nat) : Option Nat :=
  let d := (v + n - head) % n
  if n ≤ v then none
  else if d = 0 then some (if used = n then n else 0)
  else if d ≤ used then some d else none

/-- CQ_HEAD (R452). -/
def execCqHead (fn : Fn) (q : Nat) (v : W64) (s : State) : Out :=
  let k := qKey fn q
  let c := s.cq k
  if !s.up || !qOk fn q then .next s
  else match (if c.enabled then freedBy (s.cqEntries fn q) c.used c.head (bits v 12 0) else none) with
    | none => .next (s.countErr (dbPage fn))
    | some d => .next (s.modCq k fun c => { c with head := bits v 12 0, used := c.used - d }).drainNotices

/-- TR_HEAD (R452). -/
def execTrHead (fn : Fn) (q : Nat) (v : W64) (s : State) : Out :=
  let k := qKey fn q
  let c := s.cq k
  if !s.up || !qOk fn q then .next s
  else match (if c.enabled then freedBy (s.trEntries fn q) c.trUsed c.trHead (bits v 19 0) else none) with
    | none => .next (s.countErr (dbPage fn))
    | some d => .next (s.modCq k fun c => { c with trHead := bits v 19 0, trUsed := c.trUsed - d })

/-! ### Fetch (R209, R211, R431) -/

/-- A partition that the GFE serves: ACTIVE and not being quarantined, in a module in service (R417, R418). -/
def State.served (s : State) (p : Nat) : Bool := decide (p < 32) && (s.part p).state == .active && !s.sage.oos

/-- The active tenant context of a partition (R229). -/
def State.activeCtx (s : State) (p : Nat) : Nat := Tbl.get 0 s.gfe.activeCtx p

/-- Entries of a partition fetched and not completed (Table 10.6). -/
def State.inFlight (s : State) (p : Nat) : Nat := (s.ents.filter fun e => e.part == p).length

/-- The GFE may fetch from an SQ now. -/
def State.mayFetch (s : State) (fn : Fn) (q : Nat) : Bool :=
  let x := s.sq (qKey fn q)
  let c := s.cq (qKey fn (s.sqCq fn q))
  let vf := match fn with
    | .pf => !s.sage.oos
    | .vf p => s.served p && s.sqCtx fn q == s.activeCtx p && decide (s.inFlight p < 256)
  s.running && !s.power.idle && qOk fn q && x.state == .normal && !x.draining && x.head != x.tail && c.enabled && !c.broken
    && s.cqRoom fn (s.sqCq fn q) && s.bme fn && vf

/-- An SQ entry fetch fails: the SQ becomes BROKEN (R431). -/
def State.breakSq (s : State) (fn : Fn) (q sub : Nat) : State :=
  let x := s.sq (qKey fn q)
  let s1 := (s.modSq (qKey fn q) fun x => { x with state := .broken }).raise pgGFE 0
  (s1.hostFault fn (s.sqBase fn q + 64 * x.head) sub 0).tellBroken fn q sub

/-- The LAUNCH_ID of an index of an SQ (R224). -/
def launchIdOf (wraps idx : Nat) : W32 := pack 32 [⟨31, 12, wraps⟩, ⟨11, 0, idx⟩]

/-- An entry fetched: it takes its place in its SQ, or, malformed, completes at once (R211). -/
def State.takeEntry (s : State) (fn : Fn) (q : Nat) (raw : Desc) : State :=
  let x := s.sq (qKey fn q)
  let n := s.sqEntries fn q
  let p := entPart fn raw
  let ctx := match fn with | .pf => s.activeCtx p | .vf _ => s.sqCtx fn q
  let uid := s.gfe.nextUid
  let e : Entry :=
    { uid := uid, fn := fn, sq := q, cq := s.sqCq fn q, part := p, ctx := ctx, raw := raw, idx := x.head,
      launchId := launchIdOf x.wraps x.head, st := .fetched, step := none, bucket := 0,
      planH := if entOpc raw = 1 ∨ entOpc raw = 5 ∨ entOpc raw = 6 then byteFld raw 4 2 else 0, start := s.time.now,
      endT := 0, status := errOk, fault := errOk, tokens := 0, numEv := 0, repeats := 0, outcome := 0, abSub := 0,
      noSig := false, busy := false, wrFault := false, consts := [] }
  let wrap := decide (n ≤ x.head + 1)
  let s1 := (s.modSq (qKey fn q) fun x =>
    { x with head := if wrap then 0 else x.head + 1, wraps := if wrap then x.wraps + 1 else x.wraps }).modGfe fun g =>
      { g with nextUid := uid + 1 }
  let ik := qKey fn q * 4096 + e.idx
  let ord := s.fmu.tapOrd + 1
  let tap : FetchTap := ⟨fn, p, q, e.idx, BitVec.ofNat 32 (byteFld raw 8 4), byteFld raw 12 2, s.time.now, ord,
    max (Tbl.get 0 s.fmu.lastFetch ik) (Tbl.get 0 s.fmu.lastEnable (qKey fn q))⟩
  let s2 := s1.modFmu fun f => { f with tapOrd := ord, lastFetch := Tbl.set f.lastFetch ik ord,
                                        fetchTap := if entOpc raw = 1 then f.fetchTap ++ [tap] else f.fetchTap }
  let s3 := (({ s2 with ents := s2.ents ++ [e] }).bump pgGFE 0x040 1).progress pgGFE 1
  if entOk fn raw then s3 else s3.entDone uid (errPlan 0x0D)

/-- ENTRY_FETCH (R209, R211). -/
def execEntryFetch (fn : Fn) (q : Nat) (rd : HostRd) (s : State) : Out :=
  if !s.mayFetch fn q then .next s
  else match rd with
    | .data b => .next ((s.hostGet fn (s.sqBase fn q + 64 * (s.sq (qKey fn q)).head) 64).takeEntry fn q (BitVec.ofNat 512 (ofLe (b.take 64))))
    | .refused => .next (s.breakSq fn q 2)
    | .timeout => .next (s.breakSq fn q 3)

/-! ### SQ and CQ control (R453) -/

/-- SQ_ENABLE: the configuration and the bound CQ are checked. -/
def execSqEnable (fn : Fn) (q : Nat) (s : State) : Out :=
  let k := qKey fn q
  if !s.up || !qOk fn q || (s.sq k).state != .disabled then .next s
  else
    let n := s.sqEntries fn q
    if 16 ≤ n ∧ n ≤ 4096 ∧ qOk fn (s.sqCq fn q) ∧ (s.cq (qKey fn (s.sqCq fn q))).enabled then
      .next ((s.modSq k fun _ => ⟨.normal, false, 0, 0, 0⟩).modFmu fun f =>
        { f with tapOrd := f.tapOrd + 1, lastEnable := Tbl.set f.lastEnable k (f.tapOrd + 1) })
    else .next (s.noteErr (sqPage fn) 0x70 0)

/-- SQ_DISABLE: fetching stops at once. -/
def execSqDisable (fn : Fn) (q : Nat) (s : State) : Out :=
  whenOk (s.up && qOk fn q && (s.sq (qKey fn q)).state != .disabled) (s.modSq (qKey fn q) fun x => { x with draining := true }) s

/-- SQ_DRAINED: a draining SQ whose fetched entries have all completed. -/
def execSqDrained (fn : Fn) (q : Nat) (s : State) : Out :=
  let x := s.sq (qKey fn q)
  whenOk (s.up && qOk fn q && x.draining && !(s.ents.any fun e => e.fn == fn && e.sq == q))
    (s.modSq (qKey fn q) fun x => { x with state := .disabled, draining := false }) s

/-- SQ_RESUME (R223, R431). -/
def execSqResume (fn : Fn) (q : Nat) (s : State) : Out :=
  let x := s.sq (qKey fn q)
  whenOk (s.up && qOk fn q && (x.state == .failed || x.state == .broken)) (s.modSq (qKey fn q) fun x => { x with state := .normal }) s

/-- DEADLOCK (R223). -/
def errDeadlock (sub : Nat) : Err := ⟨0x0040, BitVec.ofNat 16 sub⟩

/-- An entry of a failed SQ completes with DEADLOCK and makes no signal (R221). -/
def State.deadEntry (s : State) (sub : Nat) (e : Entry) : State :=
  (s.modEnt e.uid fun x => { x with noSig := true }).entDone e.uid (errDeadlock sub)

/-- SQ_FLUSH (R223): every entry that a FAILED SQ holds unplaced completes with DEADLOCK, and the SQ serves again (log entry 28). -/
def execSqFlush (fn : Fn) (q : Nat) (s : State) : Out :=
  let x := s.sq (qKey fn q)
  if !s.up || !qOk fn q || x.state != .failed then .next s
  else
    let l := s.ents.filter fun e => e.fn == fn && e.sq == q && e.st == .fetched
    .next ((s.each l (State.deadEntry · 2)).modSq (qKey fn q) fun x => { x with state := .normal })

/-- CQ_ENABLE. -/
def execCqEnable (fn : Fn) (q : Nat) (s : State) : Out :=
  let k := qKey fn q
  if !s.up || !qOk fn q || (s.cq k).enabled then .next s
  else
    let n := s.cqEntries fn q
    let t := s.trEntries fn q
    if 16 ≤ n ∧ n ≤ 4096 ∧ (t = 0 ∨ (16 ≤ t ∧ t ≤ 1048576)) then
      .next (s.modCq k fun _ => { CqSt.zero with enabled := true }).drainNotices
    else .next (s.noteErr (cqPage fn) 0x70 0)

/-- An enabled SQ is bound to a CQ. -/
def State.cqBound (s : State) (fn : Fn) (q : Nat) : Bool :=
  s.sqs.any fun e => e.2.state != .disabled && e.1 / 64 == fnKey fn && s.sqCq fn (e.1 % 64) == q

/-- CQ_DISABLE. -/
def execCqDisable (fn : Fn) (q : Nat) (s : State) : Out :=
  let k := qKey fn q
  if !s.up || !qOk fn q || !(s.cq k).enabled then .next s
  else if s.cqBound fn q then .next (s.countErr (cqPage fn))
  else .next (s.modCq k fun c => { c with enabled := false })

/-- NOTICE_CQ (R448): names the PF notice CQ, and held notices are written. -/
def execNoticeCq (v : W64) (s : State) : Out :=
  whenOk s.up (s.setRg pgGFE 0x208 (v &&& 0x8F)).drainNotices s

/-! ### The deadlock walk (R223) -/

/-- The SQs that hold entries. -/
def State.heldSqs (s : State) : List (Fn × Nat) := (s.ents.map fun e => (e.fn, e.sq)).eraseDups

/-- The SQs whose wait-for state the walk of a partition looks at: its own, and PF SQs that hold an entry naming it. -/
def State.walkSqs (s : State) (p : Nat) : List (Fn × Nat) :=
  s.heldSqs.filter fun x => s.ents.any fun e => e.fn == x.1 && e.sq == x.2 && e.part == p

/-- The waits of an SQ's head that are not met, with the partition and tenant context they are of. A head that is placed waits for
nothing. -/
def State.unmet (s : State) (x : Fn × Nat) : List (Nat × Nat × WSlot) :=
  match s.sqHead x.1 x.2 with
  | none => []
  | some e =>
    if (s.sq (qKey x.1 x.2)).state ≠ .failed ∧ e.busy = false then
      ((entWaitL e.raw).filter fun w => !s.slotMet e.part e.ctx (entWaitL e.raw) w).map fun w => (e.part, e.ctx, w)
    else []

/-- An SQ is a helper of a wait: it is not failed and holds an entry not yet completed whose signal could meet it. -/
def State.helps (s : State) (w : Nat × Nat × WSlot) (x : Fn × Nat) : Bool :=
  (s.sq (qKey x.1 x.2)).state != .failed && s.ents.any fun e =>
    e.fn == x.1 && e.sq == x.2 && e.part == w.1 && e.ctx == w.2.1 && !e.noSig && (entSigL e.raw).any fun g =>
      g.sem == w.2.2.sem && g.idx == w.2.2.idx && (g.sem || decide (w.2.2.val ≤ g.val))

/-- Blocked SQs whose every unmet wait has a helper and no helper outside the set, by repeated removal. -/
def State.deadSet (s : State) (all : List (Fn × Nat)) : Nat → List (Fn × Nat) → List (Fn × Nat)
  | 0, d => d
  | f + 1, d =>
    State.deadSet s all f (d.filter fun x => (s.unmet x).all fun w =>
      let hs := all.filter (s.helps w)
      !hs.isEmpty && hs.all d.contains)

/-- The SQs of `d` that the waits of `m` lead to through their helpers. -/
def State.deadFrom (s : State) (d : List (Fn × Nat)) : Nat → List (Fn × Nat) → List (Fn × Nat)
  | 0, m => m
  | f + 1, m => State.deadFrom s d f (d.filter fun x => m.contains x || m.any fun y => (s.unmet y).any fun w => s.helps w x)

/-- The deadlocked sets that hold an SQ of a partition's walk. -/
def State.deadlocked (s : State) (p : Nat) : List (Fn × Nat) :=
  let all := s.heldSqs
  let d := s.deadSet all (all.length + 1) (all.filter fun x => !(s.unmet x).isEmpty)
  s.deadFrom d (all.length + 1) (d.filter (s.walkSqs p).contains)

/-- A partition has an engine halted by the debug port (R403). -/
def State.partHalted (s : State) (p : Nat) : Bool :=
  (s.clustersOf p).any (fun c => (s.seq c).halted) || (s.coresOf p).any fun k => (s.core k).pipes.any fun e => e.2.halted

/-- The proof window of a partition, in µs (R402). -/
def State.partWindow (s : State) (p : Nat) : Nat :=
  let w := bits (s.rg (pk tSAGE 0) (0x300 + 4 * p)) 25 0
  if w = 0 then bits (s.rg (pk tSAGE 0) 0x208) 25 0 else w

/-- A partition's walk is due: once per proof window (R223). -/
def State.walkDue (s : State) (p : Nat) : Bool :=
  match s.sage.lastWalk.find? fun x => x.1 == p with
  | some t => decide (t.2.toNat + 1000 * s.partWindow p ≤ s.now)
  | none => true

/-- DEADLOCK_WALK (R223, R403, R419): once per proof window of the partition, every SQ of a deadlocked set fails and its head completes with DEADLOCK. The union of the
deadlocked sets is itself one, and counts as one (log entry 28). -/
def execDeadlockWalk (p : Nat) (s : State) : Out :=
  if !s.running || !s.served p || s.partHalted p || s.sage.stewardRst || !s.walkDue p then .next s
  else
    let d := s.deadlocked p
    let s1 := (s.bump pgGFE 0x060 1).modSage fun g => { g with lastWalk := Tbl.set g.lastWalk p s.time.now }
    if d = [] then .next s1
    else
      let s2 := s1.each d fun s x =>
        match s.sqHead x.1 x.2 with
        | none => s
        | some e => (s.deadEntry 1 e).modSq (qKey x.1 x.2) fun q => { q with state := .failed }
      .next (((s2.bumpHi pgGFE 0x060 1).bump (pk tSAGE 0) 0x068 1).raise pgGFE 1)

/-! ### The heads of SQs (R213) -/

/-- An SQ's head that may be placed now: the module runs, the partition is served, its waits are met, its SQ and CQ serve. -/
def State.placeHead (s : State) (fn : Fn) (q : Nat) : Option Entry :=
  match s.sqHead fn q with
  | none => none
  | some e =>
    if s.running && qOk fn q && s.served e.part && (s.part e.part).rst != 2 && !e.busy && s.entMet e
        && (s.sq (qKey fn q)).state == .normal && !(s.cq (qKey fn e.cq)).broken && s.bme fn
        && e.ctx == s.activeCtx e.part then some e else none

/-- The accesses of the GFE for an entry: no attempt's, through tile 0's translation unit. -/
def entAcc (e : Entry) : Acc := ⟨e.part, e.ctx, none, 0, 0, false⟩

def errHost (sub : Nat) : Err := ⟨0x0061, BitVec.ofNat 16 sub⟩

end Sys2Proof.Machine
end

