-- ==== Sys2Proof/Machine/Slots.lean ====
section
/-! DEFINITION. Machine/Slots.lean: slots, launches of a context, and how a decision reaches it (R30 to R38, R216, R218). -/

namespace Sys2Proof.Machine

open Sys2Proof

/-- The plan of a handle among those of a partition's active tenant context, as it stands. -/
def State.planOf (s : State) (p h : Nat) : Option Plan :=
  s.plans.find? fun q => q.part == p && q.ctx == s.activeCtx p && q.handle == h && q.steps == []

/-- The launch of a step of a partition: placed or running. -/
def State.stepLaunch (s : State) (p step : Nat) : Option Entry := s.launchOf p step

/-- A launch leaves the sequencers that hold it (Table 10.6). -/
def State.dropLaunch (s : State) (uid : Nat) : State :=
  { s with seqs := s.seqs.map fun e => (e.1, { e.2 with launches := e.2.launches.filter (· != uid) }) }

/-- A launch completes with a status, the GFE's first error of its last attempt in FAULT (R219), and the attempt's counts. -/
def State.launchDone (s : State) (e : Entry) (err : Err) (f : Entry → Entry) : State :=
  ((s.dropLaunch e.uid).modEnt e.uid f).entDone e.uid err

/-- The start of slot `n` of a slot length in µs (R31). -/
def slotAt (epoch lenUs n : Nat) : Nat := epoch + n * (lenUs * 1000)

/-- The number of the first slot that starts at or after a time. -/
def slotFrom (epoch lenUs t : Nat) : Nat :=
  if t ≤ epoch ∨ lenUs = 0 then 0 else (t - epoch + lenUs * 1000 - 1) / (lenUs * 1000)

/-- A plan agrees with an OPEN: in A0, and in the slot start that its own L gives for the announced number, whose low 32 bits the message
carries (R32). -/
def slotAgrees (epoch : Nat) (q : Plan) (start : W64) (num allow : Nat) : Bool :=
  let t := start.toNat
  let l := 1000 * q.slotUs
  q.allowUs == allow && decide (epoch ≤ t) && (t - epoch) % l == 0 && (t - epoch) / l % 2 ^ 32 == num % 2 ^ 32

/-- A placed launch of the current step that disagrees with the OPEN received for it completes with SLOT, and its participant is absent
from the step (R32). -/
def State.checkSlot (s : State) (p : Nat) : State :=
  let c := s.ctx p
  match s.stepLaunch p c.cur, c.openSlot, c.firstStart with
  | some e, some (num, allow), some t =>
    match s.planOf p e.planH with
    | none => s
    | some q =>
      if slotAgrees (s.epoch p) q t num allow then s
      else ((s.launchDone e (errPlan 9) id).modCtx p fun c => { c with slotClash := true })
  | _, _, _ => s

/-- A decision reaches a participant, which acts on it once (R38). An OPEN announces the slot of the first attempt; the others
wait for their edge. One of a later attempt than the participant's own is acted on too, the repeats between having been missed; one of
an attempt already decided is not (log entry 70). A context that is not bound, or in COORDINATOR_LOST, ignores every decision (R40). -/
def State.acceptDecision (s : State) (p : Nat) (d : Decision) : State :=
  let c := s.ctx p
  let key := (d.step, d.attempt, d.kind)
  if !c.bound || c.coordLost || d.step != c.cur || decide (d.attempt < c.attempt) || c.acted.contains key then s
  else if d.kind = .opn then
    (s.modCtx p fun c =>
      { c with acted := c.acted ++ [key], slotStart := some d.edge, firstStart := some d.edge, openSlot := some (d.nextSlot, d.allowUs),
               allowUs := d.allowUs }).checkSlot p
  else s.modCtx p fun c => { c with acted := c.acted ++ [key], pend := some d }

/-- The coordinator sends a decision to every participant, itself among them, and repeats it from then on (R38). -/
def State.sendDecision (s : State) (p : Nat) (d : Decision) : State :=
  ((s.modCoord p fun k => { k with last := some d }).send (.job p (decisionMsg (s.jobId p) s.moduleId d))).acceptDecision p d

/-- The coordinator announces the slot of the next step's first attempt once its own launch for it is placed and the edge before
it has passed (R33). -/
def State.openIfDue (s : State) (p : Nat) : State :=
  let k := s.coord p
  if !s.isCoord p || k.open_ || (s.ctx p).coordLost || (s.ctx p).pend.isSome then s
  else match s.stepLaunch p k.step with
    | none => s
    | some e =>
      match s.planOf p e.planH with
      | none => s
      | some q =>
        let t := max k.prevEdge.toNat (e.start.toNat + s.marginNs p)
        let n := slotFrom (s.epoch p) q.slotUs t
        let st : W64 := BitVec.ofNat 64 (slotAt (s.epoch p) q.slotUs n)
        (s.modCoord p fun k => { k with open_ := true, attempt := 0, slotStart := st, slotUs := q.slotUs, allowUs := q.allowUs,
                                        baseUs := q.allowUs, beacons := [], positions := [], order := none, drained := [], seq := 0, lastResume := none,
                                        resume := none }).sendDecision p
          ⟨.opn, k.step, 0, 0, st, n, q.allowUs⟩

/-- The context at whose step edges the shared blocks latch (R52): the one TIME.STAT_REF names, else the lowest-numbered bound
one; none while no context is bound. -/
def State.statRef (s : State) : Option Nat :=
  let ref := s.rg pgTIME 0x238
  match (List.range 32).find? fun x => (s.ctx x).bound with
  | none => none
  | some x => if bitOf ref 5 then some (bits ref 4 0) else some x

/-- First-error registers of the shared blocks restart with a step edge of the context of R52 (Tables 6.7, 11.11, 14.8). -/
def State.clearShared (s : State) : State :=
  { s with kpms := s.kpms.map fun e => (e.1, { e.2 with firstErr := 0, firstInfo := 0, errSet := false }),
           movers := s.movers.map fun e => (e.1, { e.2 with firstErr := 0, firstStat := 0, errSet := false }),
           ports := s.ports.map fun e => (e.1, { e.2 with lostPeer := 0, lostSet := false }) }

/-- The shared blocks latch and restart (R52). -/
def State.latchShared (s : State) : State := (s.latch pageShared).clearShared

/-- At a meter window edge the shared blocks latch while no context is bound (R52). -/
def State.latchUnbound (s : State) : State := if s.statRef = none then s.latchShared else s

/-- First-fault registers of a partition's own blocks restart at its step edges (Tables 5.11, 5.12, 5.15, 12.8, 16.7). -/
def State.clearPart (s : State) (p : Nat) : State :=
  let s1 := s.each (s.coresOf p) fun s k => s.modCore k fun c => { c with fault := 0, faultSet := false, lastOvf := [] }
  let s2 := s1.each (s.clustersOf p) fun s c =>
    (s.modSeq c fun q => { q with firstErr := none }).modTxu c fun t => { t with firstErr := 0, errSet := false }
  s2.modPart p fun q => { q with fault := 0, faultSet := false }

/-- A step edge of the context: the per-partition blocks of `p` latch and restart, and the shared blocks where `p` is the context
of R52 (R51 to R53); the cores' read caches are emptied (R117). -/
def State.latchEdge (s : State) (p : Nat) : State :=
  let s1 := ((s.each (s.coresOf p) State.acquire).latch (s.pageOf p)).clearPart p
  if s.statRef = some p then s1.latchShared else s1

end Sys2Proof.Machine
end

