-- ==== Sys2Proof/Machine/Plans.lean ====
section
/-! DEFINITION. Machine/Plans.lean: baked plans, their load checks, patches, unloading, contract levels, and the placement of
launches (R193 to R207, R212 to R217, R367, R474). -/

namespace Sys2Proof.Machine

open Sys2Proof

/-! ### Measurements (R367) -/

/-- A measurement chain extended: SHAKE256 of the value before and the request. -/
def State.measure (s : State) (idx : Nat) (req : Bytes) : State :=
  s.modSec fun x => { x with meas := Tbl.set x.meas idx (shake256 (Tbl.get (List.replicate 64 0) x.meas idx ++ req) 64) }

/-- A measurement chain extended with a request whose bytes the spec does not lay out (log entry 30): what it is, and its values. -/
def State.measureOpen (s : State) (idx what : Nat) (vals : List Nat) : State := s.measure idx (Config.measBytes what vals)

def measConfig (p : Nat) : Nat := 0x10 + p
def measPlan (p : Nat) : Nat := 0x30 + p

/-! ### The image (Tables 9.1 to 9.5, 9.9, 13.1, 15.4) -/

/-- The field of `n` bytes at `o` of an image. -/
def fld (b : Bytes) (o n : Nat) : Nat := ofLe ((b.drop o).take n)
/-- Bytes `o` to `o + n - 1` are zero. -/
def zeroAt (b : Bytes) (o n : Nat) : Bool := fld b o n == 0
/-- Entries of a table: `n` of `sz` bytes at `o`. -/
def tableAt (b : Bytes) (o n sz : Nat) : List Bytes := (List.range n).map fun i => (b.drop (o + i * sz)).take sz
def pairwiseB {α : Type} (f : α → α → Bool) : List α → Bool
  | [] => true
  | x :: r => r.all (f x) && pairwiseB f r

/-- Check 1 of Table 9.6, of the header alone. -/
def hdrImageOk (h : Bytes) : Bool :=
  let len := fld h 40 8
  let inside := fun (o n sz : Nat) => decide (fld h o 4 + fld h n 4 * sz ≤ len)
  fld h 0 4 == 0x4B424C48 && fld h 4 2 == 0x0840 && fld h 6 1 == 1 && decide (256 ≤ len ∧ len ≤ 2 ^ 35)
    && inside 48 52 16 && inside 56 60 8 && inside 64 68 16 && inside 72 76 32 && inside 80 84 32

/-- Check 2: the digest of the image with its own 64 bytes taken as zero. -/
def digestOk (b : Bytes) : Bool :=
  shake256 (b.take 128 ++ List.replicate 64 0 ++ b.drop 192) 64 == (b.drop 128).take 64

/-- Check 3. -/
def levelOk (b : Bytes) (level : Nat) : Bool := fld b 7 1 == level && !(level == 1 && decide (2 ≤ fld b 18 1 % 8))

/-- Check 4: header values in range, reserved bytes zero. -/
def hdrRangeOk (b : Bytes) : Bool :=
  let l := fld b 8 4
  decide (1 ≤ fld b 7 1 ∧ fld b 7 1 ≤ 2) && decide (20 ≤ l ∧ l ≤ 100000) && decide (1 ≤ fld b 12 4 ∧ fld b 12 4 ≤ 8 * l)
    && decide (fld b 16 1 ≤ 2) && decide (fld b 17 1 ≤ 16) && decide (fld b 18 1 < 8) && zeroAt b 19 1
    && decide (1 ≤ fld b 32 1 ∧ fld b 32 1 ≤ 32) && zeroAt b 33 3 && decide (1 ≤ fld b 76 4 ∧ fld b 76 4 ≤ 1024)
    && decide (fld b 84 4 ≤ 64) && zeroAt b 88 40 && zeroAt b 192 64

/-- Check 6 (R114). -/
def emitOk (b : Bytes) : Bool := decide (fld b 20 4 * (1 + fld b 16 1) ≤ 65536)

/-- The records that a stretch of an image's record streams holds. -/
def framed (b : Bytes) : List PlanRec := (Config.framing b).map fun x => ⟨x.1, x.2.1, x.2.2.1, x.2.2.2⟩

/-- A variant record block (R277): by bucket, the replacement records; and whether its entries are in form and inside the image. -/
def blockAt (b : Bytes) (buckets off : Nat) : List (List PlanRec) :=
  (tableAt b off buckets 16).map fun e => framed ((b.drop (off + fld e 0 4)).take (fld e 4 4))
def blockOk (b : Bytes) (buckets off : Nat) : Bool :=
  decide (off + 16 * buckets ≤ b.length)
    && (tableAt b off buckets 16).all fun e => zeroAt e 8 8 && decide (off + fld e 0 4 + fld e 4 4 ≤ b.length)

/-- A widened-variant entry, and whether it is in form (R198): its chain runs on from BASE without passing position 2, and its blocks
lie in the image. -/
def variantOf (b : Bytes) (buckets : Nat) (e : Bytes) : Variant :=
  ⟨fld e 0 4, fld e 4 1, fld e 5 1, fld e 6 1, fld e 8 4, fld e 12 4,
    ([fld e 8 4, fld e 12 4].take (fld e 5 1)).map (blockAt b buckets)⟩
def variantOk (b : Bytes) (buckets : Nat) (e : Bytes) : Bool :=
  let v := variantOf b buckets e
  ([v.v1, v.v2].take v.count).all (blockOk b buckets) && decide (v.axis ≤ 2) && decide (1 ≤ v.count ∧ v.count ≤ 2) && decide (v.base + v.count ≤ 2) && zeroAt e 7 1
    && (v.count == 2 || v.v2 == 0)

/-- A shape bucket's own fields (R202); its streams lie in the image. -/
def bucketOk (b e : Bytes) : Bool :=
  decide (1 ≤ fld e 0 2 ∧ fld e 0 2 ≤ 4096) && fld e 2 2 != 0 && zeroAt e 10 2 && zeroAt e 24 8
    && decide (fld e 12 4 + fld e 16 4 ≤ b.length)

/-- A layer table entry. -/
def layerEntOf (e : Bytes) : LayerEnt :=
  ⟨fld e 0 4, fld e 4 4, fld e 8 4, fld e 12 2, fld e 14 1, BitVec.ofNat 32 (fld e 16 4), BitVec.ofNat 32 (fld e 20 4)⟩
def layerEntOk (e : Bytes) : Bool :=
  let l := layerEntOf e
  (l.shadowLog2 == 0 || decide (4 ≤ l.shadowLog2 ∧ l.shadowLog2 ≤ 20)) && zeroAt e 15 1 && zeroAt e 24 8
    && !(decodeFmt 0 l.relTol.toNat).isNan && !(decodeFmt 0 l.absTol.toNat).isNan && decide (fld e 16 4 < 2 ^ 31) && decide (fld e 20 4 < 2 ^ 31)

/-- Adjacent entries of a layer table (R276). -/
def layersRise : List LayerEnt → Bool
  | a :: b :: r => decide (a.firstOp < b.firstOp ∧ a.tensorFirst ≤ b.tensorFirst ∧ a.stageFirst ≤ b.stageFirst) && layersRise (b :: r)
  | _ => true

/-- A fold entry's fields that the load checks (R55, R199, R276, Table 15.4): its tensor is not below its layer's TENSOR_FIRST. -/
def foldOk (ls : List LayerEnt) (scales : List (Nat × Nat × Nat)) (e : FoldEnt) : Bool :=
  ls.all (fun l => l.layer != byteFld e 8 4 || decide (l.tensorFirst ≤ byteFld e 4 4)) &&
  decide (1 ≤ byteFld e 0 1 ∧ byteFld e 0 1 ≤ 4) && decide (byteFld e 1 1 < 4) && decide (byteFld e 3 1 ≤ 1)
    && (byteFld e 0 1 == 4 || byteFld e 0 1 == 3 || convOk (byteFld e 2 1)) && scales.any (fun x => x.1 == byteFld e 4 4)
    && decide (1 ≤ byteFld e 12 4 ∧ byteFld e 12 4 ≤ 2 ^ 20)

/-- What a bucket's record streams hold: its layer table, its fold directory's entries, its records (R276, R329). -/
def Bucket.read (b : Bucket) (st : Bytes) : Bucket :=
  let n := fld st 0 4
  { b with
    layers := (tableAt st 32 n 32).map layerEntOf,
    folds := (tableAt st (32 + 32 * n) 16 8).map fun d => (tableAt st (fld d 0 4) (fld d 4 4) 64).map fun x => BitVec.ofNat 512 (ofLe x),
    recs := framed st }

/-- A bucket read from the image (R202). -/
def bucketAt (b e : Bytes) : Bucket :=
  ({ maxStreams := fld e 0 2, maxPos := fld e 2 2, maxContext := fld e 4 6, recOff := fld e 12 4, recLen := fld e 16 4,
     layers := [], folds := [], recs := [] } : Bucket).read ((b.drop (fld e 12 4)).take (fld e 16 4))

/-- A bucket's streams: the layer table's rules (R276), the directory and entries inside. -/
def streamsRuleOk (b : Bytes) (scales : List (Nat × Nat × Nat)) (e : Bytes) : Bool :=
  let st := (b.drop (fld e 12 4)).take (fld e 16 4)
  let n := fld st 0 4
  let k := bucketAt b e
  decide (1 ≤ n ∧ n ≤ 65536) && zeroAt st 4 28 && decide (32 + 32 * n + 128 ≤ st.length)
    && (tableAt st 32 n 32).all layerEntOk && (k.layers.head?.map (·.firstOp)) == some 0 && layersRise k.layers
    && (tableAt st (32 + 32 * n) 16 8).all (fun d => decide (fld d 0 4 + 64 * fld d 4 4 ≤ st.length))
    && k.folds.all (fun l => l.all (foldOk k.layers scales))

/-- A patch point in form (R200). -/
def patchOf (e : Bytes) : PatchPt := ⟨fld e 0 2, fld e 2 1, fld e 4 4, fld e 8 4⟩
def patchOk (nb : Nat) (e : Bytes) : Bool :=
  let p := patchOf e
  decide (p.kind ≤ 2) && zeroAt e 3 1 && zeroAt e 12 4 && (p.bucket == 0xFFFFFFFF || decide (p.bucket < nb))

/-- A staged region in form, and the ranges it takes (R474). -/
def stageOf (e : Bytes) : StageReg := ⟨aoAddr (fld e 0 8), fld e 8 8, aoAddr (fld e 16 8)⟩
def stageOk (e : Bytes) : Bool :=
  let r := stageOf e
  aoSpace (fld e 0 8) == 1 && aoSpace (fld e 16 8) == 1 && aligned r.base 64 && aligned r.len 64 && aligned r.shadow 64
    && r.len != 0 && zeroAt e 24 8
def stageRanges (runAhead : Nat) (r : StageReg) : List (Nat × Nat) := [(r.base, r.len), (r.shadow, (1 + runAhead) * r.len)]
def apart (a b : Nat × Nat) : Bool := decide (a.1 + a.2 ≤ b.1 ∨ b.1 + b.2 ≤ a.1)

/-- A fold-40 variant for a tensor: some fold entry of it lies in a layer whose fold chain holds position 1 (R199). -/
def fold40For (vars : List Variant) (bks : List Bucket) (t : Nat) : Bool :=
  bks.any fun b => b.folds.any fun l => l.any fun e => byteFld e 4 4 == t &&
    vars.any fun v => v.layer == byteFld e 8 4 && v.axis == 1 && (v.base == 1 || decide (1 ≤ v.count))

/-- A plan as its image gives it. -/
def planAt (p ctx handle image : Nat) (b : Bytes) : Plan :=
  { handle := handle, part := p, ctx := ctx, image := image, level := fld b 7 1, slotUs := fld b 8 4, allowUs := fld b 12 4,
    runAhead := fld b 16 1, maxDraft := fld b 17 1, flags := BitVec.ofNat 8 (fld b 18 1), emitMax := fld b 20 4,
    seed := BitVec.ofNat 64 (fld b 24 8), clusters := fld b 32 1, storeUnits := fld b 36 4,
    variants := (tableAt b (fld b 48 4) (fld b 52 4) 16).map (variantOf b (fld b 76 4)),
    scales := (tableAt b (fld b 56 4) (fld b 60 4) 8).map fun e => (fld e 0 4, fld e 4 1, fld e 5 1),
    patches := (tableAt b (fld b 64 4) (fld b 68 4) 16).map patchOf,
    buckets := (tableAt b (fld b 72 4) (fld b 76 4) 32).map (bucketAt b),
    stages := (tableAt b (fld b 80 4) (fld b 84 4) 32).map stageOf,
    digest := (b.drop 128).take 64, unloading := false, pendPatch := [], steps := [] }

/-- KPM operations that a widenable layer may not hold (R287): OPEN, CLOSE, RESERVE, ACCEPT, SHARE (Table 11.4). -/
def kpmBanned (op : Nat) : Bool := op == 1 || op == 2 || op == 4 || op == 7 || op == 8

/-- Check 7: every table entry, stream and record (Table 9.6, RECORD); `inPart` says which cores are the partition's. -/
def recordsOk (inPart : Nat → Bool) (b : Bytes) (q : Plan) : Bool :=
  let bs := tableAt b (fld b 72 4) (fld b 76 4) 32
  let fs := tableAt b (fld b 56 4) (fld b 60 4) 8
  let ps := tableAt b (fld b 64 4) (fld b 68 4) 16
  let vs := tableAt b (fld b 48 4) (fld b 52 4) 16
  vs.all (variantOk b (fld b 76 4)) && pairwiseB (fun a c => !(a.layer == c.layer && a.axis == c.axis)) q.variants
    && fs.all (fun e => zeroAt e 6 2) && pairwiseB (fun a c => a.1 != c.1) q.scales
    && q.scales.all (fun x => x.2.2 == 0 || (decide (x.2.2 ≤ x.2.1 ∧ x.2.1 ≤ x.2.2 + 16) && fold40For q.variants q.buckets x.1))
    && ps.all (patchOk bs.length) && pairwiseB (fun a c => a.id != c.id) q.patches
    && bs.all (bucketOk b) && bs.all (streamsRuleOk b q.scales)
    && q.buckets.zipIdx.all (fun x => bucketRecsOk inPart kpmBanned q.variants x.2 x.1)
    && (tableAt b (fld b 80 4) (fld b 84 4) 32).all stageOk && pairwiseB apart (q.stages.flatMap (stageRanges q.runAhead))

/-! ### LOAD (R196, R203, R212, R230) -/

/-- The lowest plan handle free in a partition; with the table full, the lowest that only the plans of tenant contexts switched out hold,
which time slicing has saved with their context (R230). -/
def State.freeHandle (s : State) (p : Nat) : Option Nat :=
  match (List.range 256).find? fun h => !s.plans.any fun q => q.part == p && q.handle == h with
  | some h => some h
  | none => (List.range 256).find? fun h => (s.planOf p h).isNone

/-- Clusters of a partition. -/
def State.clusterCount (s : State) (p : Nat) : Nat := (s.clustersOf p).length

/-- PART.QUOTA_STORE and the tier quotas. -/
def State.quotaStore (s : State) (p : Nat) : Nat := bits (s.rg (pk tPART p) 0x220) 8 0

/-- The sub-status of the first failed load check; none where the image passes (Table 9.6). -/
def State.loadFail (s : State) (p va : Nat) (b : Bytes) (q : Plan) : Option Nat :=
  if !hdrImageOk b || !aligned va 64 then some 1
  else if !digestOk b then some 2
  else if !levelOk b s.gfe.level then some 3
  else if !hdrRangeOk b then some 4
  else if s.clusterCount p < q.clusters ∨ s.quotaStore p - (s.part p).useStore < q.storeUnits then some 5
  else if !emitOk b then some 6
  else if !recordsOk (fun k => (s.coresOf p).contains k) b q then some 7 else none

/-! ### UNLOAD (R197, R212) -/

/-- A resident plan of a partition's active tenant context, by the handle an entry names. -/
def State.namedPlan (s : State) (e : Entry) : Option Plan :=
  s.planOf e.part (byteFld e.raw 4 2)

/-- Change a resident plan as it stands. -/
def State.modPlan (s : State) (p h : Nat) (f : Plan → Plan) : State :=
  { s with plans := s.plans.map fun q => if q.part = p ∧ q.ctx = s.activeCtx p ∧ q.handle = h ∧ q.steps = [] then f q else q }

/-- A context runs a plan: a placed launch names it and is undecided. -/
def State.planRuns (s : State) (p h : Nat) : Bool :=
  s.ents.any fun e => e.part == p && e.planH == h && (e.st == .placed || e.st == .running)

/-- A placed launch that names a plan has not completed: it is undecided, or its completion entry is not made yet (R197, R221). -/
def State.planInUse (s : State) (p h : Nat) : Bool :=
  s.planRuns p h || s.ents.any fun e => e.part == p && e.planH == h && entOpc e.raw == 1 && e.step.isSome && e.st == .done

/-! ### PATCH (R200, R201) -/

/-- The bytes that a patch of a kind writes. -/
def patchBytes (kind : Nat) (v : W64) : Bytes := leBytes (if kind = 0 then 8 else 4) v.toNat

/-- A value has a patch point's length. -/
def patchLenOk (kind : Nat) (v : W64) : Bool := kind == 0 || decide (v.toNat < 2 ^ 32)

/-- The addresses a patch point names: its field in one bucket's streams or in every bucket's. -/
def Plan.patchAddrs (q : Plan) (t : PatchPt) : List Nat :=
  if t.bucket = 0xFFFFFFFF then q.buckets.map fun b => q.image + b.recOff + t.recOff
  else ((q.buckets[t.bucket]?).map fun b => q.image + b.recOff + t.recOff).toList

/-- One patch takes effect: the field in the image is rewritten. -/
def State.applyPatch (s : State) (q : Plan) (id : Nat) (v : W64) : State :=
  match q.patches.find? fun t => t.id == id with
  | none => s
  | some t => s.each (q.patchAddrs t) fun s a => (s.writeVa .store false ⟨q.part, q.ctx, none, 0, 0, false⟩ a (patchBytes t.kind v)).2

/-- A plan's buckets as its image gives them now. -/
def State.rereadPlan (s : State) (q : Plan) : Plan :=
  { q with buckets := q.buckets.map fun b =>
      match (s.readVa .store false ⟨q.part, q.ctx, none, 0, 0, false⟩ (q.image + b.recOff) b.recLen).1.use 0 with
      | .ok st => b.read st
      | .error _ => b }

/-- Patches take effect in a plan, in order; the steps `kept`, which have begun, keep the version they started with (R201). -/
def State.patchPlan (s : State) (q : Plan) (kept : List Nat) (l : List (Nat × W64)) : State :=
  let s1 := s.each l fun s x => s.applyPatch q x.1 x.2
  let s2 := s1.modPlan q.part q.handle fun y => { s1.rereadPlan y with pendPatch := [] }
  if kept = [] then s2 else { s2 with plans := s2.plans ++ [{ q with steps := kept, pendPatch := [] }] }

/-- The undecided steps of a partition that have begun and run a plan: their attempts, and the attempts that repeat them, keep the
values they started with (R201). -/
def State.begunSteps (s : State) (p h : Nat) : List Nat :=
  let c := s.ctx p
  (s.ents.filter fun e => e.part == p && e.planH == h).filterMap fun e =>
    match e.step with
    | none => none
    | some n =>
      let begun := (n == c.cur && (e.st == .running || (e.st == .placed && decide (0 < c.attempt)))) || (e.st == .placed &&
        (s.clustersOf p).any fun k => (s.seq k).begun && decide (n ≤ c.cur + (s.seq k).runAheadDepth))
      if begun then some n else none

/-- At a step edge the accepted patches of a partition's plans take effect, in queue order; versions that no begun step keeps go
(R51, R201). -/
def State.applyPatches (s : State) (p : Nat) : State :=
  let keep := fun (q : Plan) => q.steps.filter fun n => (s.begunSteps p q.handle).contains n
  let left := (s.plans.filter fun (q : Plan) => q.part != p || q.steps == [] || keep q != []).map fun (q : Plan) =>
    if q.part = p then { q with steps := keep q } else q
  let s1 : State := { s with plans := left }
  s1.each (left.filter fun (q : Plan) => q.part == p && q.steps == [] && q.pendPatch != []) fun s q =>
    let held := (s.plans.filter fun (y : Plan) => y.part == p && y.handle == q.handle).flatMap (·.steps)
    s.patchPlan q ((s.begunSteps p q.handle).filter fun n => !held.contains n) q.pendPatch

/-- CONTRACT_WRITE (R205): only from 2 to 1, and only while no plan is loaded and nothing has been placed since reset. -/
def execContractWrite (v : W64) (s : State) : Out :=
  if !s.up then .next s
  else if s.gfe.level = 2 ∧ bits v 1 0 = 1 ∧ s.plans = [] ∧ s.gfe.placedAny = false then
    .next (s.modGfe fun g => { g with level := 1 })
  else .next (s.countErr pgGFE)

/-! ### LAUNCH_PLACE (R202, R214 to R216, R229, R394) -/

def launchStreams (r : Desc) : Nat × Nat := (byteFld r 8 4, byteFld r 12 2)
def launchPos (r : Desc) : Nat := byteFld r 14 2

/-- The bucket a launch runs (R202): the named one, or the smallest that holds its shape, ties by lowest index. -/
def pickBucket (q : Plan) (named streams pos : Nat) : Option Nat :=
  let fits := fun (b : Bucket) => decide (streams ≤ b.maxStreams ∧ pos ≤ b.maxPos)
  if named ≠ 0xFFFF then (match q.buckets[named]? with | some b => if fits b then some named else none | none => none)
  else
    (q.buckets.zipIdx.foldl (fun (best : Option (Nat × Nat)) x =>
      if fits x.1 then
        match best with
        | some y => if x.1.maxStreams * x.1.maxPos < y.2 then some (x.2, x.1.maxStreams * x.1.maxPos) else best
        | none => some (x.2, x.1.maxStreams * x.1.maxPos)
      else best) none).map (·.1)

/-- The first sub-status met in translating a range for a write or a read to the central store. -/
def State.rangeFail (s : State) (p ctx va n : Nat) (wr : Bool) : Option Nat :=
  (piecesOf va n).findSome? fun x => match s.lookupFor .store p ctx x.1 wr with | .ok _ _ => none | .bad k => some k

/-- A KPM of the module holds a stream of the launch in a format other than the plan's (R65). -/
def State.formatClash (s : State) (p : Nat) (r : Desc) (q : Plan) : Bool :=
  s.kpms.any fun k => k.2.streams.any fun t => t.part == p
    && decide ((launchStreams r).1 ≤ t.id.toNat ∧ t.id.toNat < (launchStreams r).1 + (launchStreams r).2)
    && t.fmt.toNat != Config.kvFormat q.digest % 256

/-- The constants of a launch: inline bytes or those its pointer names (R216). -/
def State.launchConsts (s : State) (e : Entry) : Except Err Bytes :=
  if entFlag e.raw 0 then .ok ((List.range 4).flatMap fun i => leBytes 8 (entOperand e.raw i))
  else match entPointer e.raw with
    | none => .ok []
    | some w =>
      let n := nbits w 60 49 + 1
      match s.rangeFail e.part e.ctx (nbits w 48 0) n false with
      | some k => .error (errXlat k)
      | none => .ok (s.readVa .store false (entAcc e) (nbits w 48 0) n).1.data

/-- The checks of R215 on a launch's plan, in the order R215 names them: the bucket it runs, or the status it completes with. -/
def State.launchCheck (s : State) (e : Entry) (q : Plan) : Except Err Nat :=
  if q.unloading then .error (errPlan 0x0B)
  else match pickBucket q (byteFld e.raw 6 2) (launchStreams e.raw).2 (launchPos e.raw) with
    | none => .error (errPlan 8)
    | some b =>
      let others := s.ents.filter fun x => x.part == e.part && x.ctx == e.ctx && (x.st == .placed || x.st == .running)
      if others.any (fun x => match s.planOf x.part x.planH with | some y => y.slotUs != q.slotUs | none => false) then .error (errPlan 9)
      else if s.formatClash e.part e.raw q then .error ⟨0x0030, 0⟩
      else match (q.stages.flatMap (stageRanges q.runAhead)).findSome? fun r => s.rangeFail e.part e.ctx r.1 r.2 true with
        | some k => .error (errXlat k)
        | none =>
          match s.launchConsts e with
          | .error f => .error f
          | .ok _ =>
            if 0 < q.emitMax ∧ s.trEntries e.fn e.cq < q.emitMax then .error (errPlan 0x0F) else .ok b

/-- EMIT_MAX of the placed launches of a partition, or of a CQ. -/
def State.emitReserved (s : State) (f : Entry → Bool) : Nat :=
  ((s.ents.filter fun e => f e && (e.st == .placed || e.st == .running)).map fun e =>
    match s.planOf e.part e.planH with | some q => q.emitMax | none => 0).sum

/-- Every bound that Table 10.6 gives for placement has credit. -/
def State.placeCredit (s : State) (e : Entry) (q : Plan) : Bool :=
  let relP := (s.emit.rel.filter fun h => h.part == e.part).length
  let relQ := (s.emit.rel.filter fun h => s.ents.any fun x => x.uid == h.uid && x.fn == e.fn && x.cq == e.cq).length
  let c := s.cq (qKey e.fn e.cq)
  ((s.clustersOf e.part).take q.clusters).all (fun k => decide ((s.seq k).launches.length < 16))
    && decide (relP + s.emitReserved (fun x => x.part == e.part) + q.emitMax ≤ 65536)
    && (q.emitMax == 0 || decide (s.trEntries e.fn e.cq < q.emitMax) ||
        decide (c.trUsed + relQ + s.emitReserved (fun x => x.fn == e.fn && x.cq == e.cq) + q.emitMax ≤ s.trEntries e.fn e.cq))

/-- Tenant contexts other than the active one that have an enabled SQ, or an entry fetched and not placed (R229). -/
def State.otherCtxs (s : State) (p : Nat) : List Nat :=
  (List.range 8).filter fun x => x != s.activeCtx p && ((List.range 64).any (fun q =>
      (s.sq (qKey (.vf p) q)).state != .disabled && s.sqCtx (.vf p) q == x)
    || s.ents.any fun e => e.part == p && e.ctx == x && e.st == .fetched)

/-- GFE.SLICE_STEPS. -/
def State.sliceSteps (s : State) : Nat := bits (s.rg pgGFE 0x210) 15 0

/-- The active context has placed its slice while another waits (R229). -/
def State.sliceDone (s : State) (p : Nat) : Bool := decide (s.sliceSteps ≤ (s.ctx p).slicePlaced) && s.otherCtxs p != []

/-- A launch that may be placed now, of an SQ (R214); credit is asked of a resident plan. -/
def State.launchHead (s : State) (fn : Fn) (q : Nat) : Option Entry :=
  match s.placeHead fn q with
  | none => none
  | some e =>
    let c := s.ctx e.part
    let credit := match s.namedPlan e with | some pl => s.placeCredit e pl | none => true
    if entOpc e.raw == 1 && c.bound && !c.unbinding && !c.coordLost && !c.frozen && !s.emit.hold && !s.sliceDone e.part && credit then some e
    else none

/-- SQs by number: 0 to 63 of the VF, 64 to 79 of the PF. -/
def sqNum : Fn → Nat → Nat
  | .vf _, q => q
  | .pf, q => 64 + q

/-- The SQs of a partition, and the PF's. -/
def sqsFor (p : Nat) : List (Fn × Nat) :=
  ((List.range 64).map fun q => (Fn.vf p, q)) ++ (List.range 16).map fun q => (Fn.pf, q)

/-- An SQ's head that could be placed now, of any kind: a LOAD needs a plan slot (R230). -/
def State.placeable (s : State) (fn : Fn) (q : Nat) : Option Entry :=
  match s.placeHead fn q with
  | none => none
  | some e =>
    if entOpc e.raw = 1 then s.launchHead fn q
    else if entOpc e.raw = 4 ∧ s.freeHandle e.part = none then none else some e

/-- Whether an SQ's head is the one the GFE places: the highest PRIO among the placeable heads of its partition, and round robin among
equals (R214). -/
def State.isNext (s : State) (fn : Fn) (q : Nat) (e : Entry) : Bool :=
  let last := Tbl.get 79 s.gfe.lastSq e.part
  let dist := fun (x : Nat) => (x + 79 - last) % 80
  (sqsFor e.part).all fun x =>
    match s.placeable x.1 x.2 with
    | none => true
    | some y => y.part != e.part || decide (entPrio y.raw < entPrio e.raw)
        || (entPrio y.raw == entPrio e.raw && decide (dist (sqNum fn q) ≤ dist (sqNum x.1 x.2)))

/-- The head that the GFE places next from an SQ. -/
def State.toPlace (s : State) (fn : Fn) (q : Nat) : Option Entry :=
  match s.placeable fn q with
  | none => none
  | some e => if s.isNext fn q e then some e else none

/-- A head is placed: what its semaphore waits name is subtracted, and the round robin moves on (R214, R220). -/
def State.takeHead (s : State) (fn : Fn) (q : Nat) (e : Entry) : State :=
  (s.takeWaits e).modGfe fun g => { g with lastSq := Tbl.set g.lastSq e.part (sqNum fn q) }

/-- The constant block of a step (R216). -/
def constOff (step : Nat) : Nat := 0x7FC000 + step % 4 * 0x1000

/-- A launch completes refused (R215): nothing is subtracted, staged or metered, and no step number is consumed. -/
def State.refuse (s : State) (e : Entry) (err : Err) : State := (s.bump pgGFE 0x058 1).entDone e.uid err

/-- Launch constants copied to the cores of a launch (R216). -/
def State.copyConsts (s : State) (e : Entry) (b : Bytes) (q : Plan) (step : Nat) : State :=
  s.each ((s.clustersOf e.part).take q.clusters) fun s c => s.each (List.range 4) fun s i =>
    s.cbWrite (4 * c + i) (constOff step) ((b ++ List.replicate 4096 0).take 4096)

/-- The fence waits of a launch, met, are an acquire for the cores it runs on (Table 8.3). -/
def State.acquireFences (s : State) (e : Entry) (pl : Plan) : State :=
  if (entWaitL e.raw).all (·.sem) then s
  else s.each ((s.clustersOf e.part).take pl.clusters) fun s c => s.each (List.range 4) fun s i => s.acquire (4 * c + i)

/-- A launch placed: the next step number, its constants, and its place in the sequencers of the plan's clusters (R214 to R216). -/
def State.place (s : State) (fn : Fn) (q : Nat) (e : Entry) (pl : Plan) (bk : Nat) : State :=
  let step := (s.ctx e.part).nextStep
  let b := match s.launchConsts e with | .ok b => b | .error _ => []
  let s1 := ((s.takeHead fn q e).acquireFences e pl).copyConsts e b pl step
  let s2 := s1.each ((s.clustersOf e.part).take pl.clusters) fun s c => (s.modSeq c fun x => { x with launches := x.launches ++ [e.uid] }).bump (pk tCSQ c) 0x040 1
  let s3 := s2.modEnt e.uid fun x => { x with st := .placed, step := some step, bucket := bk, planH := pl.handle, start := s.time.now, consts := b }
  let s4 := s3.modCtx e.part fun c => { c with nextStep := c.nextStep + 1, slicePlaced := c.slicePlaced + 1 }
  let s5 := s4.modGfe fun g => { g with placedAny := true }
  let s6 := ((s5.bump pgGFE 0x048 1).progress pgGFE 1).debugEvent 9 e.part
  -- an OPEN for this step may have come before its launch was placed (R32, R33)
  (if (s6.ctx e.part).cur = step then s6.checkSlot e.part else s6).openIfDue e.part

/-- LAUNCH_PLACE. -/
def execLaunchPlace (fn : Fn) (q : Nat) (s : State) : Out :=
  match s.toPlace fn q with
  | none => .next s
  | some e =>
    if entOpc e.raw ≠ 1 then .next s
    else match s.namedPlan e with
      | none => .next (s.refuse e (errPlan 0x0E))
      | some pl =>
        match s.launchCheck e pl with
        | .error err => .next (s.refuse e err)
        | .ok b => .next (s.place fn q e pl b)

/-! ### Time slicing (R229) -/

/-- The next tenant context in round robin. -/
def State.nextCtx (s : State) (p : Nat) : Nat :=
  (((List.range 8).map fun i => (s.activeCtx p + 1 + i) % 8).find? fun x => (s.otherCtxs p).contains x).getD (s.activeCtx p)

/-- The saved step context of a tenant context that is switched out. -/
def State.savedCtx (s : State) (p x : Nat) : CtxSt := ((s.saved.find? fun y => y.part == p && y.ctx == x).map (·.st)).getD CtxSt.zero

/-- Another context has a placeable launch (R229): the head of one of its SQs is one, with its waits met and its step context bound. Of an
SQ whose entries are not fetched, submitted entries are taken for one (log entry 79). -/
def State.otherWaits (s : State) (p : Nat) : Bool :=
  (sqsFor p).any fun x =>
    let y := s.sq (qKey x.1 x.2)
    match s.sqHead x.1 x.2 with
    | some e =>
      let c := s.savedCtx p e.ctx
      e.part == p && e.ctx != s.activeCtx p && y.state == .normal && entOpc e.raw == 1 && s.entMet e && c.bound && !c.unbinding && !c.coordLost
    | none => x.1 == .vf p && y.state == .normal && s.sqCtx (.vf p) x.2 != s.activeCtx p && y.head != y.tail

/-- CONTEXT_SWITCH: the active context has run its slice, or has no placeable launch while another has one; none of its launches
is placed and not completed. -/
def execContextSwitch (p : Nat) (s : State) : Out :=
  let a := s.activeCtx p
  let idle := (sqsFor p).all fun x => (s.launchHead x.1 x.2).isNone
  let live := s.ents.any fun e => e.part == p && (e.st == .placed || e.st == .running)
  if !s.running || !s.served p || live || !(s.sliceDone p || (idle && s.otherWaits p)) then .next s
  else
    let n := s.nextCtx p
    let out_ : SavedCtx := ⟨p, a, s.ctx p, s.coord p, s.rg pgTIME (ctxOff p), s.rg pgTIME (ctxOff p + 8), s.rg pgTIME (ctxOff p + 0x10)⟩
    let back := (s.saved.find? fun x => x.part == p && x.ctx == n).getD
      ⟨p, n, CtxSt.zero, CoordSt.zero, rfReset tTIME (ctxOff p), rfReset tTIME (ctxOff p + 8), rfReset tTIME (ctxOff p + 0x10)⟩
    let s1 := { s with saved := (s.saved.filter fun (x : SavedCtx) => !(x.part == p && (x.ctx == a || x.ctx == n))) ++ [out_] }
    let s2 := (((s1.modCtx p fun _ => { back.st with slicePlaced := 0 }).modCoord p fun _ => back.coord).setRg pgTIME (ctxOff p) back.job).setRg pgTIME (ctxOff p + 8) back.epoch
    let s3 := (s2.setRg pgTIME (ctxOff p + 0x10) back.margin).modGfe fun g => { g with activeCtx := Tbl.set g.activeCtx p n }
    let s4 := s3.each (List.range 8) fun s t => s.modXlat t fun x => { x with cache := x.cache.filter fun e => e.part != p }
    .next ((s4.each (s4.coresOf p) State.acquire).bump pgGFE 0x068 1)

end Sys2Proof.Machine
end

