-- ==== Sys2Proof/Machine/Kpm.lean ====
section
/-! DEFINITION. Machine/Kpm.lean: the KV page managers: pools, descriptors, streams, block tables, staging and speculation, pins,
copy on write, spans (R231 to R257, R478). Each operation is one indivisible change: where it meets an error, nothing of it
stands (R239). -/

namespace Sys2Proof.Machine

open Sys2Proof

/-! ### Operation descriptors (Table 11.3) -/

structure KP where
  op : Nat
  spec : Bool
  stream : W32
  pos : Nat
  n : Nat
  a0 : Nat
  a1 : Nat
  a2 : Nat
  a3 : Nat
deriving DecidableEq, Repr

def kpOf (d : Desc) : KP :=
  { op := byteFld d 0 1, spec := bitOf d 8, stream := BitVec.ofNat 32 (byteFld d 4 4), pos := byteFld d 8 6, n := byteFld d 14 2,
    a0 := byteFld d 16 8, a1 := byteFld d 24 8, a2 := byteFld d 32 8, a3 := byteFld d 40 8 }

/-- ARGS of an operation: what it does not name there is reserved, and zero (log entry 80). -/
def kpArgsOk (d : Desc) : Bool :=
  let zero := fun (i n : Nat) => byteFld d i n == 0
  match byteFld d 0 1 with
  | 1 => zero 55 1 && zero 60 4
  | 3 => decide (byteFld d 48 1 < 4) && decide (byteFld d 49 1 < 2) && zero 50 14
  | 4 => zero 52 12
  | 9 => zero 52 12
  | 10 => zero 54 10
  | 11 => decide (byteFld d 48 1 < 4) && zero 49 15
  | 12 => zero 48 6 && zero 55 1 && zero 60 4
  | _ => zero 48 16

/-- Form that any operation must have (R238): a defined OP, no reserved field set, and its operands in range. -/
def kpBad (d : Desc) : Bool :=
  let k := kpOf d
  k.op == 0 || decide (12 < k.op) || decide (2 ≤ byteFld d 1 1) || decide (8 ≤ byteFld d 2 1) || byteFld d 3 1 != 0
    || !([k.a0, k.a1, k.a2, k.a3].all aoClean) || !kpArgsOk d || (k.op == 7 && k.n == 0)

def fltRun (pos : Nat) : Flt := ⟨errRuntime, pos⟩
/-- KV_EXHAUSTED (Table 11.7). -/
def fltKv (sub pos : Nat) : Flt := ⟨⟨0x0080, BitVec.ofNat 16 sub⟩, pos⟩

/-! ### The KPM's registers by partition (Table 11.11) -/

/-- Registers of partition `p` that KPM.PART_SEL reaches: 0 STATE_BASE, 1 DESC_COUNT, 2 POOL_ADD_BASE, 3 LOW_WATER. -/
def kpmBank (p i : Nat) : Nat := 0x800 + 0x20 * p + 8 * i
def State.kpmReg (s : State) (t p i : Nat) : Nat := s.rgN (pk tKPM t) (kpmBank p i)

def pgKPM (t : Nat) : Nat := pk tKPM t

/-! ### Parts, descriptors, streams -/

def State.kpart (s : State) (t p : Nat) : KpmPart := Tbl.get KpmPart.zero (s.kpm t).parts p
def State.modKpart (s : State) (t p : Nat) (f : KpmPart → KpmPart) : State :=
  s.modKpm t fun k => { k with parts := Tbl.set k.parts p (f (Tbl.get KpmPart.zero k.parts p)) }

def KDesc.none : KDesc := ⟨0, 0, 0, 0, 0, Option.none, 0, 0, 0, false⟩
def State.kdesc (s : State) (t p d : Nat) : KDesc := Tbl.get KDesc.none (s.kpart t p).descs d

/-- Who makes the KPM's own writes: no attempt's, so that none is staged (R240). -/
def kAcc (t : Nat) (o : KOp) : Acc := ⟨o.part, o.ctx, none, t, o.core, false⟩
/-- Who makes the writes of lists and copies that an operation answers with. -/
def kAccStep (t : Nat) (o : KOp) : Acc := ⟨o.part, o.ctx, some o.step, t, o.core, o.stale⟩

/-- A write of the KPM, or the fault that it met. -/
def State.kPut (s : State) (a : Acc) (va : Nat) (b : Bytes) : Except Flt State :=
  let w := s.writeVa .store false a va b
  match w.1 with
  | some f => .error f
  | none => .ok w.2

/-- A write at an address operand: the store, or the posting core's buffer. -/
def State.kOut (s : State) (a : Acc) (ao off : Nat) (b : Bytes) : Except Flt State :=
  let w := s.writeOp a ao off b
  match w.1 with
  | some f => .error f
  | none => .ok w.2

/-- A descriptor as memory holds it (Table 11.1); PIN_EPOCH of a page no step has pinned is open. -/
def KDesc.bytes (d : KDesc) (valid : Bool) (pin : Nat) : Bytes :=
  leBytes 32 (packNat [bfld 0 8 d.addr, bfld 8 6 d.firstPos, bfld 14 2 d.fill, bfld 16 2 d.refc, bfld 18 2 d.staged, bfld 20 4 pin,
    bfld 24 1 d.fmt.toNat, ⟨203, 200, d.logP⟩, ⟨205, 204, d.tier⟩, ⟨208, 208, b2n valid⟩, ⟨209, 209, b2n (decide (2 ≤ d.refc))⟩,
    ⟨210, 210, b2n d.cow⟩, ⟨211, 211, b2n (decide (0 < d.staged))⟩])

/-- A descriptor written: in the KPM and in the state region. -/
def State.setKd (s : State) (t : Nat) (a : Acc) (i : Nat) (d : KDesc) : Except Flt State :=
  let s1 := s.modKpart t a.part fun k => { k with descs := Tbl.set k.descs i d }
  let q := match d.pinEpoch with
    | some e => (e.toNat, s1)
    | none => s1.fresh 32
  q.2.kPut a (s.kpmReg t a.part 0 + 64 * i) (d.bytes true q.1)

def KStream.P (k : KStream) : Nat := 2 ^ (k.geom.toNat % 16)
def KStream.heads (k : KStream) : Nat := k.headsM1 + 1
/-- RK and RV (R231). -/
def KStream.rk (k : KStream) : Nat := k.heads * k.headDim * elemBytes (k.fmt.toNat % 16)
def KStream.rv (k : KStream) : Nat := k.heads * k.headDim * elemBytes (k.fmt.toNat / 16)
def KStream.cap (k : KStream) : Nat := 2 ^ k.ringLog2
def KStream.page (k : KStream) (x : Nat) : Nat := x / k.P * k.P
def KStream.idx (k : KStream) (x : Nat) : Nat := x / k.P % k.cap
/-- The ring covers a position (R235). -/
def KStream.covers (k : KStream) (x : Nat) : Bool := decide (k.basePos ≤ x ∧ x < k.basePos + k.cap * k.P)
/-- The descriptor that the entry of a covered position holds. -/
def KStream.entry (k : KStream) (x : Nat) : Option Nat :=
  if k.covers x then (k.ring.find? fun e => e.1 == k.idx x).map (·.2) else none
def KStream.tier (k : KStream) : Nat := k.geom.toNat / 16 % 4
def KStream.fallback (k : KStream) : Bool := k.geom.toNat.testBit 6
def KStream.window (k : KStream) : Bool := k.pattern.toNat.testBit 0

/-- A stream record (Table 11.2): GLOBAL_BASE is zero while GCOUNT is. -/
def KStream.bytes (k : KStream) (isOpen : Bool) : Bytes :=
  leBytes 64 (packNat [bfld 0 4 k.id.toNat, ⟨32, 32, b2n isOpen⟩, ⟨33, 33, b2n (isOpen && k.closing)⟩, bfld 5 1 k.fmt.toNat,
    bfld 6 1 k.geom.toNat, bfld 7 1 k.headsM1, bfld 8 2 k.headDim, bfld 10 6 k.commit, bfld 16 4 k.staged, bfld 20 1 k.ringLog2,
    bfld 21 1 k.pattern.toNat, bfld 24 8 k.ringBase, bfld 32 6 k.basePos, bfld 40 4 k.wUnits, bfld 48 8 (if k.pattern.toNat / 2 = 0 then 0 else k.globalBase)])

def sameStream (a b : KStream) : Bool := a.part == b.part && a.id == b.id

/-- The stream that an operation names on KPM `t`, open or CLOSING. -/
def State.kstream (s : State) (t p : Nat) (id : W32) : Option KStream :=
  (s.kpm t).streams.find? fun k => k.part == p && k.id == id

/-- A stream written: in the KPM and its record in memory. -/
def State.setKs (s : State) (t : Nat) (a : Acc) (k : KStream) : Except Flt State :=
  let ks := (s.kpm t).streams
  let ks1 := if ks.any (sameStream k) then ks.map (fun x => if sameStream k x then k else x) else ks ++ [k]
  let s1 := s.modKpm t fun q => { q with streams := ks1 }
  s1.kPut a k.recVa (k.bytes true)

/-- A ring entry written: `none` is empty. -/
def State.setRing (s : State) (t : Nat) (a : Acc) (k : KStream) (i : Nat) (d : Option Nat) : Except Flt (KStream × State) := do
  let k1 := match d with
    | some x => { k with ring := Tbl.set k.ring i x }
    | none => { k with ring := Tbl.drop k.ring (· == i) }
  let s1 ← s.setKs t a k1
  let s2 ← s1.kPut a (k.ringBase + 4 * i) (leBytes 4 (d.getD 0xFFFFFFFF))
  return (k1, s2)

/-- DESC of one position of a stream's global list written (Table 11.8). -/
def State.putGlobal (s : State) (a : Acc) (k : KStream) (x : (Nat × Option Nat) × Nat) : Except Flt State :=
  s.kPut a (k.globalBase + 16 * x.2 + 8) (leBytes 4 (x.1.2.getD 0xFFFFFFFF))

/-- The stream's global references changed, with the DESC fields in memory that change. -/
def State.setGlobals (s : State) (t : Nat) (a : Acc) (k : KStream) (gs : List (Nat × Option Nat)) : Except Flt (KStream × State) := do
  let k1 := { k with globals := gs }
  let s1 ← s.setKs t a k1
  let s2 ← (gs.zipIdx.zip k.globals).foldlM (fun s x => if x.1.1 = x.2 then .ok s else s.putGlobal a k x.1) s1
  return (k1, s2)

/-- A new list of global references, every DESC field of it written. -/
def State.newGlobals (s : State) (t : Nat) (a : Acc) (k : KStream) (gs : List (Nat × Option Nat)) : Except Flt (KStream × State) := do
  let k1 := { k with globals := gs }
  let s1 ← s.setKs t a k1
  let s2 ← gs.zipIdx.foldlM (fun s x => s.putGlobal a k x) s1
  return (k1, s2)

/-! ### Pages (R237, R239, R248, R251) -/

/-- A step is newer than a pin, modulo 2^32. -/
def newerPin (step : W32) (pin : Option W32) : Bool :=
  match pin with
  | none => true
  | some p => step != p && decide ((step - p).toNat < 2 ^ 31)

def KDesc.pin (d : KDesc) (step : Nat) : KDesc :=
  let w : W32 := BitVec.ofNat 32 step
  if newerPin w d.pinEpoch then { d with pinEpoch := some w } else d

/-- A free page of a tier, or with `far` of a farther one: the list's first (log entry 32). POOL_LOW is raised when the list falls
below LOW_WATER. -/
def State.takePage (s : State) (t : Nat) (o : KOp) (tier : Nat) (far : Bool) : Except Flt (Nat × Nat × State) :=
  let tiers := (List.range 4).filter fun x => decide (tier ≤ x) && (far || x == tier)
  match tiers.findSome? fun x => ((Tbl.get [] (s.kpart t o.part).free x).head?).map fun pg => (x, pg) with
  | none => .error (fltKv 1 (kpOf o.raw).pos)
  | some (x, pg) =>
    let rest := (Tbl.get [] (s.kpart t o.part).free x).drop 1
    let s1 := (s.modKpart t o.part fun k => { k with free := Tbl.set k.free x rest }).bump (pgKPM t) 0x048 1
    let low := s.kpmReg t o.part 3 % 2 ^ 25
    .ok (pg, x, if rest.length < low ∧ low ≤ rest.length + 1 then s1.raise (pgKPM t) 0 else s1)

/-- A free descriptor of the state region. -/
def State.takeDesc (s : State) (t : Nat) (o : KOp) : Except Flt (Nat × State) :=
  let k := s.kpart t o.part
  match k.freeD with
  | d :: r => .ok (d, s.modKpart t o.part fun k => { k with freeD := r })
  | [] =>
    if k.nextD < s.kpmReg t o.part 1 then .ok (k.nextD, s.modKpart t o.part fun k => { k with nextD := k.nextD + 1 })
    else .error (fltKv 2 (kpOf o.raw).pos)

/-- References counted up; past 0xFFFF the operation is refused (R239). -/
def State.countUp (s : State) (t : Nat) (a : Acc) (d n : Nat) : Except Flt State :=
  let k := s.kdesc t a.part d
  if 0xFFFF < k.refc + n then .error (fltRun k.firstPos) else s.setKd t a d { k with refc := k.refc + n }

/-- References counted down; at zero the page and its descriptor go on the reclaim list. -/
def State.countDown (s : State) (t : Nat) (a : Acc) (d n : Nat) : Except Flt State := do
  let k := s.kdesc t a.part d
  let s1 ← (s.bump (pgKPM t) 0x050 n).setKd t a d { k with refc := k.refc - n }
  return if k.refc ≤ n ∧ 0 < k.refc then
      s1.modKpart t a.part fun q => { q with reclaim := q.reclaim ++ [⟨some d, k.addr, k.tier, k.pinEpoch, a.ctx⟩] }
    else s1

/-- The stream's global positions in the page at `f` that do not hold descriptor `d`. -/
def KStream.globalsFor (k : KStream) (f d : Nat) : List (Nat × Option Nat) := k.globals.filter fun g => k.page g.1 == f && g.2 != some d

/-- An entry filled: the ring, and one reference more for each global position it covers (R253). The list holds one descriptor for a
position, so what it still held of a freed entry is counted down (log entry 80). -/
def State.fillEntry (s : State) (t : Nat) (a : Acc) (k : KStream) (f d refs : Nat) : Except Flt (KStream × State) := do
  let r ← s.setRing t a k (k.idx f) (some d)
  let hit := r.1.globalsFor f d
  let q ← if hit = [] then pure r else r.2.setGlobals t a r.1 (r.1.globals.map fun g => if hit.contains g then (g.1, some d) else g)
  let s1 ← q.2.countUp t a d (refs + hit.length)
  let s2 ← (hit.filterMap (·.2)).foldlM (fun s x => s.countDown t a x 1) s1
  return (q.1, s2)

/-- ALLOC of the page at `f` into an empty entry (Table 11.4). -/
def State.allocAt (s : State) (t : Nat) (o : KOp) (k : KStream) (f tier : Nat) (far : Bool) : Except Flt (KStream × State) := do
  let p ← s.takePage t o tier far
  let d ← p.2.2.takeDesc t o
  let new : KDesc := ⟨p.1, f, 0, 0, 0, none, k.fmt, k.geom.toNat % 16, p.2.1, false⟩
  let s1 ← d.2.setKd t (kAcc t o) d.1 new
  s1.fillEntry t (kAcc t o) k f d.1 1

/-- BASE_POS past every leading empty entry, never past the page that holds COMMIT (R235). -/
def advanceBase : Nat → KStream → KStream
  | 0, k => k
  | n + 1, k =>
    if k.basePos < k.page k.commit ∧ k.entry k.basePos = none then advanceBase n { k with basePos := k.basePos + k.P } else k

/-! ### Copies (R241, R255) -/

/-- A COPY descriptor of one row of `len` bytes between partition addresses (Table 6.3). -/
def copyDesc (src dst len : Nat) : Desc :=
  pack 512 [bfld 0 1 1, bfld 4 4 1, ⟨127, 126, 1⟩, ⟨112, 64, src⟩, ⟨191, 190, 1⟩, ⟨176, 128, dst⟩, bfld 32 4 len]

/-- Copies posted to the KPM's mover. -/
def State.postCopies (s : State) (t : Nat) (o : KOp) (l : List (Nat × Nat × Nat)) : State :=
  s.each l fun s c =>
    match s.postMover t (.kpm t o.id) o.part o.ctx o.step o.attempt o.layer (copyDesc c.1 c.2.1 c.2.2) with
    | some r => r.2
    | none => s

/-- The mover has room for `n` more descriptors (R135, R227). -/
def State.copyRoom (s : State) (t n : Nat) : Bool := decide ((s.mover t).descs.length + n ≤ 1024)

/-- Copies of an operation that are not complete. -/
def State.copiesOut (s : State) (t id : Nat) : Bool := (s.mover t).descs.any fun d => d.src == .kpm t id

/-- What an operation answers: its effect, a wait, or copies under way. -/
inductive KRes where
  | done (s : State)
  | wait
  | copying (s : State)
deriving DecidableEq, Repr

/-- Copy on write of the entry at `f` begins (R241, steps 1 and 2). -/
def State.cowStart (s : State) (t : Nat) (o : KOp) (k : KStream) (f d : Nat) : Except Flt KRes := do
  if s.copyRoom t 2 then
    let a := kAcc t o
    let old := s.kdesc t o.part d
    let p ← s.takePage t o old.tier k.fallback
    let n ← p.2.2.takeDesc t o
    let s1 ← n.2.setKd t a n.1 ⟨p.1, old.firstPos, old.fill, 1, 0, none, old.fmt, old.logP, p.2.1, true⟩
    let s2 ← s1.setKd t a d { old with cow := true }
    let s3 ← s2.setKs t a { k with cow := some ⟨o.id, d, n.1, k.idx f, none⟩ }
    let cs := if old.fill = 0 then [] else
      [(old.addr, p.1, old.fill * k.rk), (old.addr + 0x8000, p.1 + 0x8000, old.fill * k.rv)]
    return .copying ((s3.postCopies t o cs).bumpHi (pgKPM t) 0x048 1)
  else return .wait

/-- The entry at `f` is shared and this operation has not copied it yet. -/
def State.needsCow (s : State) (t : Nat) (o : KOp) (k : KStream) (f : Nat) : Option Nat :=
  match k.entry f with
  | some d => if 2 ≤ (s.kdesc t o.part d).refc ∧ o.cowed.contains (k.idx f) = false then some d else none
  | none => none

/-! ### The operations (Table 11.4) -/

/-- The geometry an OPEN gives (R231, R232, Table 11.2). -/
def openOk (d : Desc) : Bool :=
  let b := fun i => byteFld d i 1
  let dim := byteFld d 52 2
  let heads := b 50 + 1
  let p := 2 ^ (b 49 % 16)
  let row := fun fmt => heads * dim * elemBytes fmt
  let kf := b 48 % 16
  let vf := b 48 / 16
  let gc := b 54 / 2
  let w := byteFld d 56 4
  decide (3 ≤ b 49 % 16 ∧ b 49 % 16 ≤ 12) && decide (b 49 < 128) && decide (heads ≤ 64) && aligned dim 64
    && decide (64 ≤ dim ∧ dim ≤ 1024) && decide (kf ≤ 4 ∧ vf ≤ 4) && decide (p * row kf ≤ 32768 ∧ p * row vf ≤ 32768)
    && decide (6 ≤ b 51 ∧ b 51 ≤ 26) && decide (gc ≤ 64)
    && (if b 54 % 2 = 1 then decide (1 ≤ w ∧ w ≤ 262144) else w == 0)
    && aoSpace (byteFld d 16 8) == 1 && aoSpace (byteFld d 24 8) == 1 && aligned (aoAddr (byteFld d 24 8)) 64
    && (gc == 0 || aoSpace (byteFld d 32 8) == 1)

/-- Positions of a global list in memory. -/
def State.readGlobals (s : State) (a : Acc) (va n : Nat) : Except Flt (List Nat) :=
  (List.range n).foldrM (fun i l => do
    let b ← (s.readVa .store false a (va + 16 * i) 6).1.use (va + 16 * i)
    return ofLe b :: l) []

/-- OPEN. -/
def State.kOpen (s : State) (t : Nat) (o : KOp) : Except Flt KRes := do
  let q := kpOf o.raw
  let a := kAcc t o
  if !openOk o.raw then throw (fltRun 0)
  let elsewhere := s.kpms.any fun e => e.1 != t && e.2.streams.any fun k => k.part == o.part && k.id == q.stream
  match s.kstream t o.part q.stream with
  | some k => if !k.closing && k.recVa == aoAddr q.a0 then return .done s else throw (fltRun 0)
  | none =>
    if elsewhere then throw (fltRun 0)
    else if 65536 ≤ ((s.kpm t).streams.filter fun k => k.part == o.part).length then throw (fltKv 3 0)
    else
      let gc := byteFld o.raw 54 1 / 2
      let ps ← s.readGlobals a (aoAddr q.a2) gc
      let k : KStream :=
        { id := q.stream, part := o.part, ctx := o.ctx, recVa := aoAddr q.a0, closing := false,
          fmt := BitVec.ofNat 8 (byteFld o.raw 48 1), geom := BitVec.ofNat 8 (byteFld o.raw 49 1), headsM1 := byteFld o.raw 50 1,
          headDim := byteFld o.raw 52 2, commit := 0, staged := 0, ringLog2 := byteFld o.raw 51 1,
          pattern := BitVec.ofNat 8 (byteFld o.raw 54 1), ringBase := aoAddr q.a1, basePos := 0, wUnits := byteFld o.raw 56 4,
          globalBase := if aoSpace q.a2 = 1 then aoAddr q.a2 else 0, ring := [], globals := ps.map fun x => (x, none), resvs := [],
          cow := none, closePins := [] }
      let s1 ← s.setKs t a k
      let s2 ← s1.kPut a k.ringBase (List.replicate (4 * k.cap) 0xFF)
      let s3 ← (List.range gc).foldlM (fun s i => s.kPut a (k.globalBase + 16 * i + 8) (leBytes 4 0)) s2
      return .done s3

/-- Every global reference dropped, each counted down. -/
def State.dropGlobals (s : State) (t : Nat) (a : Acc) (k : KStream) : Except Flt (KStream × State) := do
  let held := k.globals.filterMap (·.2)
  let s1 ← held.foldlM (fun s d => s.countDown t a d 1) s
  s1.setGlobals t a k (k.globals.map fun g => (g.1, none))

/-- A pin is past: older than the oldest undecided step (R249). -/
def pinPast (oldest : Nat) (pin : Option W32) : Bool := newerPin (BitVec.ofNat 32 oldest) pin

/-- A CLOSING stream whose pins are all past is free (Table 11.4). -/
def State.endClosing (s : State) (t : Nat) (a : Acc) (k : KStream) : State :=
  if k.closing && k.closePins.all (fun p => pinPast (s.ctx k.part).cur (some p)) then
    let s1 := (s.writeVa .store false a k.recVa (k.bytes false)).2
    s1.modKpm t fun q => { q with streams := q.streams.filter fun x => !sameStream k x }
  else s

/-- CLOSE. -/
def State.kClose (s : State) (t : Nat) (o : KOp) : Except Flt KRes := do
  let a := kAcc t o
  match s.kstream t o.part (kpOf o.raw).stream with
  | none => return .done s
  | some k =>
    if k.closing then return .done s
    else
      let ds := k.ring.map (·.2)
      let pins := (ds ++ k.globals.filterMap (·.2)).filterMap fun d => (s.kdesc t o.part d).pinEpoch
      let s1 ← ds.foldlM (fun s d => s.countDown t a d 1) s
      let r ← s1.dropGlobals t a { k with ring := [] }
      let s2 ← k.ring.foldlM (fun s e => s.kPut a (k.ringBase + 4 * e.1) (leBytes 4 0xFFFFFFFF)) r.2
      let k1 := { r.1 with closing := true, closePins := k.closePins ++ pins }
      let k2 := if (k.entry k.basePos).isSome then advanceBase k.cap k1 else k1
      let s3 ← s2.setKs t a k2
      return .done (s3.endClosing t a k2)

/-- ALLOC. -/
def State.kAlloc (s : State) (t : Nat) (o : KOp) (k : KStream) : Except Flt KRes := do
  let x := (kpOf o.raw).pos
  if x < k.basePos then throw (fltRun x)
  else if !k.covers x then throw (fltKv 4 x)
  else if (k.entry x).isSome then return .done s
  else
    let r ← s.allocAt t o k (k.page x) (byteFld o.raw 48 1) (bitOf o.raw 392)
    return .done r.2

/-- SHARE: `fs` the first positions of the pages. -/
def State.kShare (s : State) (t : Nat) (o : KOp) (k : KStream) : Except Flt KRes := do
  let q := kpOf o.raw
  let a := kAcc t o
  match s.kstream t o.part (BitVec.ofNat 32 (byteFld o.raw 48 4)) with
  | none => throw (fltRun q.pos)
  | some src =>
    let fs := (List.range q.n).map fun i => k.page q.pos + i * k.P
    let same := src.fmt == k.fmt && src.geom.toNat % 16 == k.geom.toNat % 16 && src.headsM1 == k.headsM1 && src.headDim == k.headDim
    if src.closing || !same then throw (fltRun q.pos)
    else if fs.all fun f => (k.entry f).isSome && k.entry f == src.entry f then return .done s
    else
      let full := fs.dropLast.all fun f => match src.entry f with
        | some d => (s.kdesc t o.part d).fill == k.P
        | none => false
      if k.commit != q.pos || !full || fs.any (fun f => (src.entry f).isNone) then throw (fltRun q.pos)
      else if fs.any fun f => !k.covers f && decide (k.basePos ≤ f) then throw (fltKv 4 q.pos)
      else if fs.any fun f => !k.covers f || ((k.entry f).isSome && k.entry f != src.entry f) then throw (fltRun q.pos)
      else
        let r ← fs.foldlM (fun (r : KStream × State) f =>
          if (r.1.entry f).isSome then .ok r else r.2.fillEntry t a r.1 f ((src.entry f).getD 0) 1) (k, s)
        let last := fs.getLastD (k.page q.pos)
        let fill := match src.entry last with | some d => (s.kdesc t o.part d).fill | none => 0
        let s1 ← r.2.setKs t a { r.1 with commit := last + fill }
        return .done s1

/-- FREE. -/
def State.kFree (s : State) (t : Nat) (o : KOp) (k : KStream) : Except Flt KRes := do
  let x := (kpOf o.raw).pos
  let a := kAcc t o
  if k.page x = k.page k.commit then throw (fltRun x)
  else match k.entry x with
    | none => return .done (s.bumpHi (pgKPM t) 0x050 1)
    | some d =>
      let r ← s.setRing t a k (k.idx x) none
      let s1 ← r.2.countDown t a d 1
      let pins := (k.closePins.filter fun p => !pinPast (s.ctx k.part).cur (some p)) ++ (s.kdesc t o.part d).pinEpoch.toList
      let k1 := { r.1 with closePins := pins }
      let s2 ← s1.setKs t a (if k.page x = k.basePos then advanceBase k.cap k1 else k1)
      return .done s2

/-- PRIVATE. -/
def State.kPrivate (s : State) (t : Nat) (o : KOp) (k : KStream) : Except Flt KRes := do
  let x := (kpOf o.raw).pos
  if x < k.basePos || (k.entry x).isNone then throw (fltRun x)
  else match s.needsCow t o k x with
    | some d => s.cowStart t o k (k.page x) d
    | none => return .done s

/-- Reserved positions of each page that a range touches: first position of the page, count. -/
def KStream.split (k : KStream) (x n : Nat) : List (Nat × Nat) :=
  let m := if n = 0 then 0 else (k.page (x + n - 1) - k.page x) / k.P + 1
  (List.range m).map fun i =>
    let f := k.page x + i * k.P
    (f, min (x + n) (f + k.P) - max x f)

/-- The pages that a reservation touches, made ready in position order: an empty entry filled as ALLOC does, and a page that then has
REFCOUNT 2 or more copied on write, which stops here until the copy is complete (R242). -/
def reserveReady (t : Nat) (o : KOp) : List (Nat × Nat) → KStream → State → Except Flt (KRes ⊕ (KStream × State))
  | [], k, s => .ok (.inr (k, s))
  | f :: l, k, s => do
    let r ← if (k.entry f.1).isSome then pure (k, s) else s.allocAt t o k f.1 k.tier k.fallback
    match r.2.needsCow t o r.1 f.1 with
    | some d =>
      let c ← r.2.cowStart t o r.1 f.1 d
      return .inl c
    | none => reserveReady t o l r.1 r.2

/-- RESERVE (R242, R244, R245). One whose attempt was discarded before it took effect fills its entries and stages nothing (R246). -/
def State.kReserve (s : State) (t : Nat) (o : KOp) (k : KStream) : Except Flt KRes := do
  let q := kpOf o.raw
  let a := kAcc t o
  let x := k.commit + k.staged
  let ps := k.split x q.n
  if k.resvs.any fun r => r.step == o.step && r.attempt == o.attempt then throw (fltRun x)
  else if k.resvs.any fun r => r.spec && decide (r.step < o.step) then return .wait
  else if ps.any fun f => !k.covers f.1 then throw (fltKv 4 x)
  else match ← reserveReady t o ps k s with
    | .inl c => return c
    | .inr r =>
      if o.stale then return .done r.2
      let s1 ← ps.foldlM (fun s f =>
        let d := (r.1.entry f.1).getD 0
        let e := s.kdesc t o.part d
        s.setKd t a d ({ e with staged := e.staged + f.2 }.pin o.step)) r.2
      let rv : Resv := ⟨o.step, o.attempt, x, q.n, q.spec, none, ps.map fun f => ((r.1.entry f.1).getD 0, f.2)⟩
      let s2 ← s1.setKs t a { r.1 with staged := k.staged + q.n, resvs := k.resvs ++ [rv] }
      let s3 ← ps.zipIdx.foldlM (fun s f =>
        let e := s.kdesc t o.part ((r.1.entry f.1.1).getD 0)
        let first := max x f.1.1
        s.kOut (kAccStep t o) q.a0 (32 * f.2) (leBytes 32 (packNat [bfld 0 8 (e.addr + (first - e.firstPos) * k.rk),
          bfld 8 8 (e.addr + 0x8000 + (first - e.firstPos) * k.rv), bfld 16 6 first, bfld 22 2 f.1.2]))) s2
      return .done s3

/-- ACCEPT (R244). -/
def State.kAccept (s : State) (t : Nat) (o : KOp) (k : KStream) : Except Flt KRes := do
  let q := kpOf o.raw
  let r := s.readOp false (kAccStep t o) q.a0 0 4
  let b ← r.1.use (aoAddr q.a0)
  let n := ofLe b % 32
  let mine := fun (v : Resv) => v.step == o.step && v.attempt == o.attempt && v.spec
  match k.resvs.find? mine with
  | none => throw (fltRun (aoAddr q.a0))
  | some v =>
    if v.n < n then throw (fltRun (aoAddr q.a0))
    else
      let s1 ← r.2.setKs t (kAcc t o) { k with resvs := k.resvs.map fun v => if mine v then { v with k := some n } else v }
      return .done s1

/-- Runs of positions in `[x, hi)` within one page and one aligned block of 128 (R254); `fuel` bounds their number. -/
def KStream.runs (k : KStream) : Nat → Nat → Nat → List (Nat × Nat)
  | 0, _, _ => []
  | f + 1, x, hi =>
    if hi ≤ x then []
    else
      let e := min hi (min (k.page x + k.P) (x / 128 * 128 + 128))
      (x, e - x) :: k.runs f e hi

/-- SPAN (R252, R254, R255): no copies where A2 is none. -/
def State.kSpan (s : State) (t : Nat) (o : KOp) (k : KStream) : Except Flt KRes := do
  let q := kpOf o.raw
  let a := kAcc t o
  let st := kAccStep t o
  let w := 64 * k.wUnits
  let lo0 := if k.window then q.pos + 1 - w else k.basePos
  let lo := max lo0 k.basePos
  let hi := min (q.pos + q.n) (k.commit + k.staged)
  let rs := k.runs (hi - lo + 1) lo hi
  let live := rs.filter fun r => (k.entry r.1).isSome
  let holes := ((rs.filter fun r => (k.entry r.1).isNone).map (·.2)).sum
  let cap := byteFld o.raw 48 4
  let gs := k.globals.filterMap fun g => match g.2 with
    | some d => if g.1 < lo0 ∧ g.1 < k.commit then some (g.1, d) else none
    | none => none
  let wantG := aoSpace q.a2 != 0
  let ng := if wantG then gs.length else 0
  if cap < live.length || !(aoSpace q.a1 == 0 || aoSpace q.a1 == 2)
      || (wantG && (aoSpace q.a2 != 1 || !aligned (aoAddr q.a2) 64)) then throw (fltRun q.pos)
  else if !s.copyRoom t (2 * ng) then return .wait
  else
    let s1 ← (List.range cap).foldlM (fun s i =>
      match live[i]? with
      | some r =>
        let e := s.kdesc t o.part ((k.entry r.1).getD 0)
        s.kOut st q.a0 (32 * i) (leBytes 32 (packNat [bfld 0 8 (e.addr + (r.1 - e.firstPos) * k.rk),
          bfld 8 8 (e.addr + 0x8000 + (r.1 - e.firstPos) * k.rv), bfld 16 6 r.1, bfld 22 2 r.2]))
      | none => s.kOut st q.a0 (32 * i) (List.replicate 32 0)) s
    let s2 ← if aoSpace q.a1 = 0 then pure s1 else
      (List.range cap).foldlM (fun s i => s.kOut st q.a1 (128 * i) (leBytes 4 (if i < live.length then 1 else 0))) s1
    let s3 ← if wantG then
        s2.kOut st q.a2 0 ((List.range 64).flatMap fun i =>
          match gs[i]? with | some g => leBytes 8 g.1 | none => List.replicate 8 0xFF)
      else pure s2
    let s4 ← s3.kOut st q.a3 0 (leBytes 4 (packNat [⟨15, 0, live.length⟩, ⟨22, 16, ng⟩]))
    let ds := (live.map fun r => (k.entry r.1).getD 0) ++ (if wantG then gs.map (·.2) else [])
    let s5 ← ds.foldlM (fun s d => s.setKd t a d ((s.kdesc t o.part d).pin o.step)) s4
    let s6 := (s5.bump (pgKPM t) 0x068 live.length).bump (pgKPM t) 0x070 holes
    let base := aoAddr q.a2 + 512
    let cs := if wantG then gs.zipIdx.flatMap fun g =>
        let e := s.kdesc t o.part g.1.2
        [(e.addr + (g.1.1 - e.firstPos) * k.rk, base + g.2 * k.rk, k.rk),
         (e.addr + 0x8000 + (g.1.1 - e.firstPos) * k.rv, base + 64 * k.rk + g.2 * k.rv, k.rv)] else []
    return if cs.isEmpty then .done s6 else .copying (s6.postCopies t o cs)

/-- PIN (R248). -/
def State.kPin (s : State) (t : Nat) (o : KOp) (k : KStream) : Except Flt KRes := do
  let q := kpOf o.raw
  let last := byteFld o.raw 48 6
  let inRange := fun (f : Nat) => decide (k.page q.pos ≤ f ∧ f ≤ last ∧ k.basePos ≤ f)
  let ds := (k.ring.map (·.2)).filter fun d => inRange (s.kdesc t o.part d).firstPos
  let s1 ← ds.foldlM (fun s d => s.setKd t (kAcc t o) d ((s.kdesc t o.part d).pin o.step)) s
  return .done s1

/-- MOVE: the whole page is copied to a free page of the tier; the descriptor follows when the copy is complete. -/
def State.kMove (s : State) (t : Nat) (o : KOp) (k : KStream) : Except Flt KRes := do
  let x := (kpOf o.raw).pos
  let a := kAcc t o
  let tier := byteFld o.raw 48 1
  if x < k.basePos then throw (fltRun x)
  else match k.entry x with
    | none => throw (fltRun x)
    | some d =>
      let e := s.kdesc t o.part d
      if e.cow || decide (0 < e.staged) then throw (fltRun x)
      else if e.tier = tier then return .done s
      else if !s.copyRoom t 1 then return .wait
      else
        let p ← s.takePage t o tier false
        let s1 ← p.2.2.setKd t a d { e with cow := true }
        let s2 ← s1.setKs t a { k with cow := some ⟨o.id, d, d, k.idx x, some (p.1, tier)⟩ }
        return .copying (s2.postCopies t o [(e.addr, p.1, 65536)])

/-- PATTERN: references of the new list are taken where an entry covers its position and holds a descriptor (R253). -/
def State.kPattern (s : State) (t : Nat) (o : KOp) (k : KStream) : Except Flt KRes := do
  let a := kAcc t o
  let pat : Byte := BitVec.ofNat 8 (byteFld o.raw 54 1)
  let w := byteFld o.raw 56 4
  let gc := pat.toNat / 2
  let wOk := if pat.toNat % 2 = 1 then decide (1 ≤ w ∧ w ≤ 262144) else w == 0
  if !wOk || decide (64 < gc) || (gc != 0 && k.globalBase == 0) then throw (fltRun 0)
  else
    let ps ← s.readGlobals a k.globalBase gc
    if pat = k.pattern ∧ w = k.wUnits ∧ ps = k.globals.map (·.1) then return .done s
    else
      let r ← s.dropGlobals t a k
      let k1 := { r.1 with pattern := pat, wUnits := w, globals := ps.map fun x => (x, none) }
      let s1 ← r.2.setKs t a k1
      let gs := ps.map fun x => (x, k1.entry x)
      let q ← s1.newGlobals t a k1 gs
      let s2 ← (gs.filterMap (·.2)).foldlM (fun s d => s.countUp t a d 1) q.2
      return .done s2

/-- An operation's effect, by its OP. -/
def State.kBody (s : State) (t : Nat) (o : KOp) : Except Flt KRes :=
  let q := kpOf o.raw
  if kpBad o.raw then .error (fltRun q.pos)
  else if q.op = 1 then s.kOpen t o
  else if q.op = 2 then s.kClose t o
  else match s.kstream t o.part q.stream with
    | none => .error (fltRun q.pos)
    | some k =>
      if k.closing then .error (fltRun q.pos)
      else match q.op with
        | 3 => s.kAlloc t o k
        | 4 => s.kShare t o k
        | 5 => s.kFree t o k
        | 6 => s.kPrivate t o k
        | 7 => s.kReserve t o k
        | 8 => s.kAccept t o k
        | 9 => s.kSpan t o k
        | 10 => s.kPin t o k
        | 11 => s.kMove t o k
        | _ => s.kPattern t o k

/-! ### Running an operation (R239, R241, R256) -/

def State.kop (s : State) (t id : Nat) : Option KOp := (s.kpm t).ops.find? fun o => o.id == id
def State.modKop (s : State) (t id : Nat) (f : KOp → KOp) : State :=
  s.modKpm t fun k => { k with ops := k.ops.map fun o => if o.id = id then f o else o }

/-- A partition's generation is the one an operation carries. -/
def State.genLive (s : State) (p : Nat) (gen : Byte) : Bool := (s.part p).gen == gen

/-- An operation may take effect now: earlier ones of its step on its stream have, and no copy is in progress on the stream. -/
def State.kMay (s : State) (t : Nat) (o : KOp) : Bool :=
  let same := fun (x : KOp) => x.part == o.part && (kpOf x.raw).stream == (kpOf o.raw).stream
  let earlier := (s.kpm t).ops.takeWhile fun x => x.id != o.id
  let cow := match s.kstream t o.part (kpOf o.raw).stream with | some k => k.cow.isSome | none => false
  o.st == .accepted && !cow && earlier.all fun x => !(same x && x.step == o.step && x.st == .accepted)

/-- An operation ends with an error: none of its effect stands. -/
def State.kFail (s : State) (t : Nat) (o : KOp) (f : Flt) : State :=
  let s1 := if f.err.st = stTRANSLATION then s.noteFault o.part t f.addr f.err.sub.toNat else s
  let s2 := if f.err.st = 0x0080 then (s1.bumpHi (pgKPM t) 0x070 1).raise (pgKPM t) 1 else s1
  s2.modKop t o.id fun x => { x with st := .done, err := some f.err }

/-- Carry out an operation, or what is left of it. -/
def State.kGo (s : State) (t : Nat) (o : KOp) : State :=
  match s.kBody t o with
  | .error f => s.kFail t o f
  | .ok .wait => s
  | .ok (.done s1) => s1.modKop t o.id fun x => { x with st := .done }
  | .ok (.copying s1) => s1.modKop t o.id fun x => { x with st := .reading }

/-- A KPM operation of a given OP takes effect; one of an old generation is dropped (R256). -/
def State.kRun (s : State) (t id op : Nat) : Out :=
  match s.kop t id with
  | none => .next s
  | some o =>
    if !s.running || (kpOf o.raw).op != op || !s.kMay t o then .next s
    else if !s.genLive o.part o.gen then
      .next ((s.bump (pgKPM t) 0x078 1).modKpm t fun k => { k with ops := k.ops.filter fun x => x.id != id })
    else .next (s.kGo t o)

/-- OPEN, CLOSE, ALLOC, SHARE, FREE, PRIVATE, RESERVE, ACCEPT, SPAN, PIN, MOVE, PATTERN. -/
def execKpmOpen (tile id : Nat) (s : State) : Out := s.kRun tile id 1
def execClose (tile id : Nat) (s : State) : Out := s.kRun tile id 2
def execAlloc (tile id : Nat) (s : State) : Out := s.kRun tile id 3
def execShare (tile id : Nat) (s : State) : Out := s.kRun tile id 4
def execFree (tile id : Nat) (s : State) : Out := s.kRun tile id 5
def execPrivatize (tile id : Nat) (s : State) : Out := s.kRun tile id 6
def execReserve (tile id : Nat) (s : State) : Out := s.kRun tile id 7
def execAccept (tile id : Nat) (s : State) : Out := s.kRun tile id 8
def execSpan (tile id : Nat) (s : State) : Out := s.kRun tile id 9
def execPin (tile id : Nat) (s : State) : Out := s.kRun tile id 10
def execMove (tile id : Nat) (s : State) : Out := s.kRun tile id 11
def execPattern (tile id : Nat) (s : State) : Out := s.kRun tile id 12

/-- A page back on its free list. -/
def State.givePage (s : State) (t p tier page : Nat) : State :=
  s.modKpart t p fun k => { k with free := Tbl.set k.free tier (Tbl.get [] k.free tier ++ [page]) }

/-- Where an operation's writes that cannot fail are kept although memory refuses one. -/
def kKeep (s : State) (r : Except Flt State) : State := match r with | .ok s1 => s1 | .error _ => s

/-- A copy of another stream from or into the page of a descriptor is in progress, which keeps its COW_PENDING (Table 11.1). -/
def State.copyElsewhere (s : State) (t p d : Nat) (k : KStream) : Bool :=
  (s.kpm t).streams.any fun x => x.part == p && x.id != k.id && match x.cow with | some c => c.old == d || c.new == d | none => false

/-- A descriptor leaves: its FLAGS in memory are cleared, VALID and COW_PENDING among them. -/
def State.clearKd (s : State) (t : Nat) (a : Acc) (d : Nat) : State :=
  (kKeep s (s.kPut a (s.kpmReg t a.part 0 + 64 * d + 26) [0])).modKpart t a.part fun q => { q with descs := Tbl.drop q.descs (· == d) }

/-- A copy in progress undone: the new page and descriptor go back, and every count stays (R256). -/
def State.cowUndo (s : State) (t : Nat) (a : Acc) (k : KStream) (c : Cow) : State :=
  let old := s.kdesc t a.part c.old
  let s1 := kKeep s (s.setKd t a c.old { old with cow := s.copyElsewhere t a.part c.old k })
  let s2 := match c.move with
    | some m => s1.givePage t a.part m.2 m.1
    | none =>
      let new := s1.kdesc t a.part c.new
      ((s1.givePage t a.part new.tier new.addr).clearKd t a c.new).modKpart t a.part fun q => { q with freeD := c.new :: q.freeD }
  kKeep s2 (s2.setKs t a { k with cow := none })

/-- The copies of a copy on write are complete: the entry and the stream's global references move to the new descriptor (R241,
step 3); of a MOVE, the descriptor takes the new page and the old one is reclaimed. -/
def State.cowInstall (s : State) (t : Nat) (o : KOp) (k : KStream) (c : Cow) : Except Flt State := do
  let a := kAcc t o
  let old := s.kdesc t o.part c.old
  match c.move with
  | some m =>
    let s1 ← s.setKd t a c.old { old with addr := m.1, tier := m.2, cow := s.copyElsewhere t o.part c.old k }
    let s2 := s1.modKpart t o.part fun q => { q with reclaim := q.reclaim ++ [⟨none, old.addr, old.tier, old.pinEpoch, o.ctx⟩] }
    s2.setKs t a { k with cow := none }
  | none =>
    let new := s.kdesc t o.part c.new
    let n := (k.globals.filter fun g => g.2 == some c.old).length
    let s1 ← s.setKd t a c.new { new with refc := 1 + n, cow := false }
    let s2 ← s1.setKd t a c.old { old with cow := s.copyElsewhere t o.part c.old k }
    let r ← s2.setRing t a { k with cow := none } c.entry (some c.new)
    let q ← r.2.setGlobals t a r.1 (r.1.globals.map fun g => if g.2 = some c.old then (g.1, some c.new) else g)
    q.2.countDown t a c.old (1 + n)

/-- COW_COPY_DONE (R241): the copies of the operation are complete, and it continues. A copy that failed is undone and its error
ends the operation; one of which an edge removed a part is undone, and the operation, of a discarded attempt, ends. -/
def execCowCopyDone (tile id : Nat) (s : State) : Out :=
  match s.kop tile id with
  | none => .next s
  | some o =>
    match s.kstream tile o.part (kpOf o.raw).stream with
    | none => .next s
    | some k =>
      match k.cow with
      | none => .next s
      | some c =>
        if !s.running || c.op != id || o.st != .reading || s.copiesOut tile id then .next s
        else if o.cut then .next ((s.cowUndo tile (kAcc tile o) k c).modKop tile id fun x => { x with st := .done })
        else match o.err with
          | some _ => .next ((s.cowUndo tile (kAcc tile o) k c).modKop tile id fun x => { x with st := .done })
          | none =>
            match s.cowInstall tile o k c with
            | .error f => .next ((s.cowUndo tile (kAcc tile o) k c).kFail tile o f)
            | .ok s1 =>
              let o1 := { o with st := .accepted, cowed := o.cowed ++ [c.entry] }
              .next ((s1.modKop tile id fun _ => o1).kGo tile o1)

/-- KPM_OP_COMPLETE (R239): every write is visible, and whoever posted the operation learns of it. An operation that no OP takes
completes here with RUNTIME. -/
def execKpmOpComplete (tile id : Nat) (s : State) : Out :=
  match s.kop tile id with
  | none => .next s
  | some o =>
    let q := kpOf o.raw
    let bad := o.st == .accepted && s.kMay tile o && (q.op == 0 || decide (12 < q.op))
    let spanned := o.st == .reading && q.op == 9 && !s.copiesOut tile id
    if !s.up || s.sage.fatal.isSome || !(o.st == .done || bad || spanned) then .next s
    else
      let err := if bad then some errRuntime else o.err
      let s1 := ((s.modKpm tile fun k => { k with ops := k.ops.filter fun x => x.id != id }).bump (pgKPM tile) 0x040 1).progress (pgKPM tile) 1
      let s2 := match err with
        | none => s1
        | some e => s1.modKpm tile fun k => if k.errSet then k else
            { k with errSet := true,
                     firstErr := pack 64 [⟨63, 32, q.stream.toNat⟩, ⟨31, 16, e.sub.toNat⟩, ⟨15, 0, e.st.toNat⟩],
                     firstInfo := pack 64 [⟨47, 0, q.pos⟩, ⟨52, 48, o.part⟩, ⟨63, 56, q.op⟩] }
      .next ((s2.debugEvent 11 o.part).postDone o.src (uKpm tile) id o.part o.step err o.stale)

/-- POOL_ADD (R237): pages of the partition that KPM.PART_SEL names, each checked. -/
def execPoolAdd (tile : Nat) (v : W64) (s : State) : Out :=
  if !s.up || decide (8 ≤ tile) then .next s
  else
    let p := s.rgN (pgKPM tile) 0x200 % 32
    let tier := bits v 25 24
    let base := s.kpmReg tile p 2
    .next (s.each (List.range (bits v 23 0)) fun s i =>
      let va := base + 65536 * i
      let ok := match s.leafAt p (s.activeCtx p) va with
        | some l => l.target == tier
        | none => false
      if ok then s.givePage tile p tier va
      else s.modKpm tile fun k => { k with poolReject := k.poolReject + 1 })

/-! ### The step edge (R246, R249) -/

/-- One reservation leaves its pages: `kept` positions are committed, the rest discarded. -/
def State.settle (s : State) (t : Nat) (a : Acc) (kept : Nat) (r : Resv) : State :=
  (r.pages.foldl (fun (acc : Nat × State) pg =>
    let d := acc.2.kdesc t a.part pg.1
    let n := min acc.1 pg.2
    (acc.1 - n, kKeep acc.2 (acc.2.setKd t a pg.1 { d with fill := d.fill + n, staged := d.staged - pg.2 }))) (kept, s)).2

/-- A stream's staging at an edge: `commit` of step `n`, or a discard of `n` and every later step (Table 11.6). -/
def State.edgeStream (s : State) (t : Nat) (commit : Bool) (n : Nat) (k : KStream) : State :=
  let a : Acc := ⟨k.part, k.ctx, none, t, 0, false⟩
  let hit := k.resvs.filter fun r => if commit then r.step == n else decide (n ≤ r.step)
  if hit.isEmpty then s
  else
    let keep := fun (r : Resv) => if commit then r.k.getD r.n else 0
    let s1 := s.each hit fun s r => s.settle t a (keep r) r
    let all := (hit.map (·.n)).sum
    let kept := (hit.map keep).sum
    let k1 := { k with commit := k.commit + kept, staged := k.staged - all, resvs := k.resvs.filter fun r => !hit.contains r }
    ((kKeep s1 (s1.setKs t a k1)).bump (pgKPM t) 0x060 kept).bumpHi (pgKPM t) 0x060 (all - kept)

/-- Pages of a context whose pins are past return to their free lists, their descriptors to the pool (R249). -/
def State.reclaimPages (s : State) (t p ctx oldest : Nat) : State :=
  let k := s.kpart t p
  let due := k.reclaim.filter fun r => r.ctx == ctx && pinPast oldest r.pin
  let s1 := s.each due fun s r =>
    let s0 := s.givePage t p r.tier r.page
    match r.desc with
    | none => s0
    | some d =>
      (s0.clearKd t ⟨p, ctx, none, t, 0, false⟩ d).modKpart t p fun q => { q with freeD := q.freeD ++ [d] }
  (s1.modKpart t p fun q => { q with reclaim := q.reclaim.filter fun r => !due.contains r }).bump (pgKPM t) 0x058 due.length

/-- Reclamation at an edge of a context whose oldest undecided step is `oldest`, and CLOSING streams whose pins are past. -/
def State.kpmReclaim (s : State) (p ctx : Nat) : State :=
  (s.each (List.range 8) fun s t =>
    let s1 := s.reclaimPages t p ctx (s.ctx p).cur
    s1.each ((s1.kpm t).streams.filter fun k => k.part == p && k.ctx == ctx && k.closing) fun s k =>
      s.endClosing t ⟨p, ctx, none, t, 0, false⟩ k).releaseHeld p

/-- The staging of every stream of a partition's active context at an edge. -/
def State.kpmEdge (s : State) (p : Nat) (commit : Bool) (n : Nat) : State :=
  let ctx := s.activeCtx p
  s.each (List.range 8) fun s t =>
    s.each ((s.kpm t).streams.filter fun k => k.part == p && k.ctx == ctx) fun s k => s.edgeStream t commit n k

/-- Operations of discarded steps signal nothing. An ACCEPT that has not taken effect ends without one; so does a waiting RESERVE after
an abandon, while after a repeat it proceeds (Table 11.6). -/
def State.kpmStale (s : State) (p n : Nat) (abandon : Bool) : State :=
  let ends := fun (o : KOp) => o.st == .accepted && ((kpOf o.raw).op == 8 || ((kpOf o.raw).op == 7 && abandon))
  { s with kpms := s.kpms.map fun e => (e.1, { e.2 with ops := e.2.ops.map fun o =>
      if o.part = p ∧ n ≤ o.step then { o with stale := true, st := if ends o then .done else o.st } else o }) }

end Sys2Proof.Machine
end

