-- ==== Sys2Proof/Machine/Txu.lean ====
section
/-! DEFINITION. Machine/Txu.lean: the token exchange units: expert slots and passes, dispatch, results and the combine
(R258 to R273). -/

namespace Sys2Proof.Machine

open Sys2Proof

/-! ### Descriptors and records (Tables 12.2 to 12.6) -/

/-- A TXU descriptor (Table 12.4). -/
structure TP where
  op : Nat
  stage : Nat
  n : Nat
  a0 : Nat
  a1 : Nat
  a2 : Nat
  a3 : Nat
  a4 : Nat
  h : Nat
  k : Nat
  dfmt : Nat
  conv : Nat
  pass : Nat
  eslot : Nat
  base : Nat
  mapCount : Nat
deriving DecidableEq, Repr

def tpOf (d : Desc) : TP :=
  { op := byteFld d 0 1, stage := byteFld d 2 2, n := byteFld d 4 4, a0 := byteFld d 8 8, a1 := byteFld d 16 8, a2 := byteFld d 24 8,
    a3 := byteFld d 32 8, a4 := byteFld d 40 8, h := byteFld d 48 2 + 1, k := byteFld d 50 1, dfmt := byteFld d 51 1,
    conv := byteFld d 52 1, pass := byteFld d 53 1, eslot := byteFld d 54 1, base := byteFld d 56 4, mapCount := byteFld d 60 4 }

/-- The form of a descriptor (R261): reserved fields zero, operands in range. The combine output's format has an element size, so
it is no block-scaled one (log entry 33). -/
def tpOk (d : Desc) : Bool :=
  let t := tpOf d
  byteFld d 1 1 == 0 && byteFld d 55 1 == 0 && (t.op == 2 || t.mapCount == 0) &&
    match t.op with
    | 1 => decide (1 ≤ t.n ∧ t.n ≤ 64 ∧ 1 ≤ t.base) && aoClean t.a0
    | 2 => decide (1 ≤ t.n ∧ t.n ≤ 65536) && decide (1 ≤ t.k ∧ t.k ≤ 16) && decide (t.dfmt ≤ 4) && decide (1 ≤ t.mapCount)
        && aligned (t.h * elemBytes t.dfmt) 64 && convOk t.conv && bsiBits (convDst t.conv) == 0
        && aoClean t.a0 && aoClean t.a1 && aoClean t.a2 && aoClean t.a3 && aoClean t.a4
    | 3 => decide (t.pass ≤ 8) && decide (t.eslot < 64)
    | _ => false

/-- A token tag (Table 12.2). -/
def tagOf (module : W16) (txu choice oslot token gate : Nat) : BitVec 128 :=
  pack 128 [bfld 0 2 module.toNat, ⟨20, 16, txu⟩, ⟨27, 24, choice⟩, bfld 4 4 oslot, bfld 8 4 token, bfld 12 4 gate]
def tagModule (t : BitVec 128) : W16 := BitVec.ofNat 16 (byteFld t 0 2)
def tagTxu (t : BitVec 128) : Nat := bits t 20 16
def tagChoice (t : BitVec 128) : Nat := bits t 27 24
def tagSlot (t : BitVec 128) : Nat := byteFld t 4 4
def tagGate (t : BitVec 128) : W32 := BitVec.ofNat 32 (byteFld t 12 4)

/-- A record header (Table 12.3). -/
def recHdr (kind eslot stage part : Nat) (gen : Byte) (attempt dfmt step count : Nat) : BitVec 128 :=
  pack 128 [bfld 0 1 kind, bfld 1 1 eslot, bfld 2 2 stage, bfld 4 1 part, bfld 5 1 gen.toNat, bfld 6 1 attempt, bfld 7 1 dfmt,
    bfld 8 4 step, bfld 12 4 count]
def rhKind (h : BitVec 128) : Nat := byteFld h 0 1
def rhEslot (h : BitVec 128) : Nat := bits h 13 8
def rhStage (h : BitVec 128) : Nat := byteFld h 2 2
def rhPart (h : BitVec 128) : Nat := bits h 36 32
def rhDfmt (h : BitVec 128) : Nat := bits h 59 56
def rhCount (h : BitVec 128) : Nat := byteFld h 12 4
def rhH (h : BitVec 128) : Nat := byteFld h 12 2 + 1

/-- A slot table entry (Table 12.6). -/
def slCap (r : BitVec 256) : Nat := byteFld r 2 2
def slSig (r : BitVec 256) : Nat := byteFld r 4 2
def slIn (r : BitVec 256) : Nat := byteFld r 8 8
def slOut (r : BitVec 256) : Nat := byteFld r 16 8
def slPred (r : BitVec 256) : Nat := 128 * byteFld r 24 4

/-- An entry in form: its signal's core lies in the cluster, its rows in central store, its predicate words in the core buffer. -/
def slOk (c : Nat) (r : BitVec 256) : Bool :=
  decide (1 ≤ slCap r) && bits r 46 45 == 0 && byteFld r 6 2 == 0 && byteFld r 28 4 == 0 && aoSpace (slIn r) == 1
    && aoSpace (slOut r) == 1 && decide (slPred r + 8 * 128 + 4 ≤ 2 ^ 23)
    && (!(slSig r).testBit 15 || coreCluster (nbits (slSig r) 12 6) == c)

/-! ### Operations, stages, tokens -/

def pgTXU (c : Nat) : Nat := pk tTXU c

def State.topOp (s : State) (c id : Nat) : Option TOp := (s.txu c).ops.find? fun o => o.id == id
def State.modTop (s : State) (c id : Nat) (f : TOp → TOp) : State :=
  s.modTxu c fun t => { t with ops := t.ops.map fun o => if o.id = id then f o else o }

/-- The accesses of an operation. -/
def State.topAcc (s : State) (c : Nat) (o : TOp) : Acc := ⟨o.part, s.activeCtx o.part, some o.step, c / 4, o.core, false⟩

def isStage (stage step : Nat) (t : TStage) : Bool := t.stage == stage && t.step == step
def State.tstage (s : State) (c stage step : Nat) : Option TStage := (s.txu c).stages.find? (isStage stage step)
def State.modStage (s : State) (c stage step : Nat) (f : TStage → TStage) : State :=
  s.modTxu c fun t => { t with stages := t.stages.map fun g => if isStage stage step g then f g else g }

/-- A stage as its first record or its SLOTS finds it. -/
def State.openStage (s : State) (c stage step attempt : Nat) : State :=
  if (s.tstage c stage step).isSome then s
  else s.modTxu c fun t => { t with stages := t.stages ++ [⟨stage, step, attempt, none, 0, [], [], []⟩] }

/-- The layer entry from which a rewind in progress discards (R282): between a WIDEN_ORDER and its RESUME. -/
def State.rewinding (s : State) (p : Nat) : Option LayerEnt :=
  match (s.ctx p).rewind with
  | some r => if r.absent then none else (s.layersOf p (s.ctx p).cur).find? fun l => l.layer == r.layer
  | none => none

/-- A record of a stage that a rewind in progress discards. -/
def State.stageOut (s : State) (p : Nat) (h : BitVec 128) : Bool :=
  match s.rewinding p with
  | some l => decide (l.stageFirst ≤ rhStage h) && byteFld h 8 4 == (s.ctx p).cur % 2 ^ 32
  | none => false

/-- The undecided step of a partition that a record's STEP, ATTEMPT and GEN name; none for a stale record (R271), or one of a stage
that is being rewound (R282). -/
def State.recordStep (s : State) (p : Nat) (h : BitVec 128) : Option Nat :=
  let x := s.ctx p
  if !x.bound || (s.part p).state != .active || byteFld h 5 1 != (s.part p).gen.toNat || s.stageOut p h then none
  else (List.range 3).findSome? fun i =>
    let n := x.cur + i
    if n % 2 ^ 32 = byteFld h 8 4 ∧ byteFld h 6 1 = (if i = 0 then x.attempt else 0) then some n else none

/-- The DISPATCH records of operations that `gone` names are no longer waited for at any port. -/
def State.forgetSent (s : State) (c : Nat) (gone : Nat → Bool) : State :=
  { s with ports := s.ports.map fun (e : Nat × PortSt) => (e.1, { e.2 with outReqs := e.2.outReqs.filter fun q =>
      match q.who with | .txu c' id => !(c' == c && gone id) | _ => true }) }

/-- An operation ends: TXU.FIRST_ERR keeps the first failure, and whoever posted it learns of it. A DISPATCH leaves its tokens. -/
def State.topDone (s : State) (c : Nat) (o : TOp) (err : Option Err) : State :=
  let s1 := (s.forgetSent c (· == o.id)).modTxu c fun t => { t with ops := t.ops.filter fun x => x.id != o.id, toks := t.toks.filter fun w => w.op != o.id }
  let s2 := match err with
    | none => s1
    | some e => s1.modTxu c fun t => if t.errSet then t else
        { t with errSet := true, firstErr := pack 64 [⟨15, 0, e.st.toNat⟩, ⟨31, 16, e.sub.toNat⟩, ⟨47, 32, (tpOf o.raw).stage⟩] }
  s2.postDone (.port o.core o.ctr) (uTxu c) o.id o.part o.step err false

/-- An operation that may run: accepted, of operation `op` or of a reserved one, which any of the three commands ends (R261), while
the module runs. -/
def State.topMay (s : State) (c id op : Nat) : Option TOp :=
  match s.topOp c id with
  | none => none
  | some o => if s.running && o.st == .accepted && ((tpOf o.raw).op == op || (tpOf o.raw).op == 0 || decide (3 < (tpOf o.raw).op)) then some o else none

/-! ### Passes (R263, R264, R266) -/

/-- Every record of a stage has arrived. -/
def TStage.allIn (g : TStage) : Bool :=
  g.op.isSome && g.early.isEmpty && g.origins == (g.heard.filter fun o => o.endCount.isSome).length
    && g.heard.all fun o => match o.endCount with | some n => decide (n ≤ o.got) | none => false

/-- The next pass of a slot to close, where it may. -/
def ESlot.closing (x : ESlot) (allIn : Bool) : Option Nat :=
  match x.passes.findIdx? fun p => !p.closed with
  | none => none
  | some i => if allIn || decide (slCap x.raw ≤ ((x.passes[i]?).map fun p => p.rows.length).getD 0) then some i else none

/-- Change a slot of a stage. -/
def TStage.modSlot (g : TStage) (e : Nat) (f : ESlot → ESlot) : TStage := { g with slots := g.slots.modify e f }

/-- Pass `i` of slot `e` closes: its count goes to the predicate words of the cluster's cores, and SIG is signalled. -/
def State.closePass (s : State) (c : Nat) (g : TStage) (e i : Nat) (x : ESlot) : State :=
  let n := ((x.passes[i]?).map fun p => p.rows.length).getD 0
  let s1 := s.modStage c g.stage g.step fun g => g.modSlot e fun x => { x with passes := x.passes.modify i fun p => { p with closed := true } }
  let s2 := s1.each (List.range 4) fun s j => s.cbWrite (4 * c + j) (slPred x.raw + 128 * i) (leBytes 4 n)
  let s3 := if n = 0 then s2 else if i = 0 then s2.bump (pgTXU c) 0x060 1 else s2.bumpHi (pgTXU c) 0x060 1
  let s4 := s3.modTxu c fun t => if t.lastStage = g.stage then { t with lastPass := max t.lastPass i } else t
  if (slSig x.raw).testBit 15 then s4.addDc (nbits (slSig x.raw) 12 6) (slSig x.raw % 64) 1 true else s4

/-- The passes of a slot that may close do, in order. -/
def State.closeSlot (s : State) (c stage step e : Nat) : Nat → State
  | 0 => s
  | f + 1 =>
    match s.tstage c stage step with
    | none => s
    | some g =>
      match g.slots[e]? with
      | none => s
      | some x =>
        match x.closing g.allIn with
        | none => s
        | some i => (s.closePass c g e i x).closeSlot c stage step e f

/-- A SLOTS retires when every pass of every slot has closed and every one that is not empty is done (Table 12.5). -/
def State.retireSlots (s : State) (c stage step : Nat) : State :=
  match s.tstage c stage step with
  | none => s
  | some g =>
    let ended := g.slots.all fun x => x.passes.all fun p => p.closed && (p.done || p.rows.isEmpty)
    match g.op.bind (s.topOp c) with
    | none => s
    | some o => if ended then s.topDone c o none else s

/-- What may close after a record, an END or a SLOTS. -/
def State.closeAll (s : State) (c stage step : Nat) : State :=
  match s.tstage c stage step with
  | none => s
  | some g =>
    (s.each (List.range g.slots.length) fun s e => s.closeSlot c stage step e 9).retireSlots c stage step

/-- One record to its slot: the lowest pass neither full nor closed takes its payload; past pass 8 it is held (R263, R266). A
payload that cannot be written ends the stage's SLOTS (log entry 33). -/
def State.placeTok (s : State) (c stage step : Nat) (r : TEarly) : State :=
  match s.tstage c stage step with
  | none => s
  | some g =>
    let e := rhEslot r.hdr
    match g.slots[e]? with
    | none => s.modStage c stage step fun g => { g with early := g.early ++ [r] }
    | some x =>
      match x.passes.findIdx? fun p => !p.closed && decide (p.rows.length < slCap x.raw) with
      | none =>
        let s2 := (s.bumpEv (pgTXU c) (0x600 + 4 * e) 1).bump (pgTXU c) 0x068 1
        (s2.modStage c stage step fun g => g.modSlot e fun x => { x with held := x.held ++ [r.tag] }).raise (pgTXU c) 0
      | some i =>
        let s2 := if i = 0 then s else s.bumpEv (pgTXU c) (0x600 + 4 * e) 1
        let row := ((x.passes[i]?).map fun p => p.rows.length).getD 0
        let n := rhH r.hdr * elemBytes (rhDfmt r.hdr)
        let p := rhPart r.hdr
        let a : Acc := ⟨p, s.activeCtx p, some step, c / 4, 4 * c, false⟩
        let w := s2.writeOp a (slIn x.raw) ((i * slCap x.raw + row) * n) ((r.row ++ List.replicate (n - r.row.length) 0).take n)
        let s3 := w.2.modStage c stage step fun g => g.modSlot e fun x =>
          { x with passes := x.passes.modify i fun q => { q with rows := q.rows ++ [r.tag] } }
        match w.1, g.op.bind (s3.topOp c) with
        | some f, some o => s3.topDone c o (some f.err)
        | _, _ => s3

/-- What an origin has sent in a stage. -/
def hear (l : List Origin) (m : W16) (t : Nat) (f : Origin → Origin) : List Origin :=
  if l.any fun o => o.module == m && o.cluster == t then l.map fun o => if o.module = m ∧ o.cluster = t then f o else o
  else l ++ [f ⟨m, t, 0, none⟩]

/-- A record dropped as stale (R271). -/
def State.staleDrop (s : State) (c : Nat) : State := s.bump (pgTXU c) 0x078 1

/-- A DISPATCH record arrives at a TXU, which counts it in ROUTED of its slot (R273): none where the TXU has no room and withholds
credit (R270). -/
def State.tokArrive (s : State) (c : Nat) (origin : W16) (r : TEarly) : Option State :=
  let p := rhPart r.hdr
  match (if s.ownerOf c = some p then s.recordStep p r.hdr else none) with
  | none => some (s.staleDrop c)
  | some step =>
    if !(s.txu c).room 1 then none
    else
      let stage := rhStage r.hdr
      let s0 := (s.modTxu c fun x => { x with stalled := false }).bumpEv (pgTXU c) (0x400 + 4 * rhEslot r.hdr) 1
      let s1 := ((s0.bump (pgTXU c) 0x048 1).progress (pgTXU c) 1).openStage c stage step (byteFld r.hdr 6 1)
      let s2 := s1.modStage c stage step fun g =>
        { g with heard := hear g.heard origin (tagTxu r.tag) fun o => { o with got := o.got + 1 } }
      some ((s2.placeTok c stage step r).closeAll c stage step)

/-- An END record arrives (R263). -/
def State.endArrive (s : State) (c : Nat) (origin : W16) (txu : Nat) (h : BitVec 128) : State :=
  let p := rhPart h
  match (if s.ownerOf c = some p then s.recordStep p h else none) with
  | none => s.staleDrop c
  | some step =>
    let stage := rhStage h
    let s1 := (s.progress (pgTXU c) 1).openStage c stage step (byteFld h 6 1)
    (s1.modStage c stage step fun g =>
      { g with heard := hear g.heard origin txu fun o => { o with endCount := some (rhCount h) } }).closeAll c stage step

/-! ### The combine (R268, R269) -/

/-- One element: the results by choice index, each fused multiply-add rounded once, subnormals flushed. -/
def combineElem (rs : List (FVal × FVal)) : FVal × Ev :=
  rs.foldl (fun acc x =>
    let q := roundVec fp32 false (exactFma x.1 x.2 acc.1)
    (q.1, acc.2.plus q.2)) (.fin false 0 0, Ev.zero)

/-- A token's row: its bytes in the format of CONV, the events, and the elements whose conversion overflowed. -/
def combineRow (t : TP) (rs : List (Nat × W32 × List W32)) : Bytes × Ev × List Nat :=
  let ordered := (List.range t.k).filterMap fun c => rs.find? fun r => r.1 == c
  (List.range t.h).foldl (fun acc i =>
    let e := combineElem (ordered.map fun r => (decodeFmt 0 r.2.1.toNat, decodeFmt 0 ((r.2.2[i]?).getD 0).toNat))
    let q := convTo t.conv e.1
    (acc.1 ++ leBytes (elemBytes (convDst t.conv)) q.1, acc.2.1.plus (e.2.plus q.2),
      if 0 < q.2.oc then acc.2.2 ++ [i] else acc.2.2)) ([], Ev.zero, [])

/-- The layer and operation index of the record that posted an operation; of a POST, the last layer whose
STAGE_FIRST is not above its stage, and none. -/
def State.topOpidx (s : State) (c : Nat) (o : TOp) : Nat × Nat :=
  match (s.execs o.core 7).find? fun x => x.port == some (uTxu c, o.id) with
  | some x => (x.q.layer, x.q.opidx.toNat)
  | none => ((s.layersOf o.part o.step).foldl (fun a e => if e.stageFirst ≤ (tpOf o.raw).stage then e.layer else a) 0, 0xFFFFFFFF)

/-- A row of combine output: staged for the edge, or in the posting core's buffer. -/
def State.putCombine (s : State) (c : Nat) (o : TOp) (ao off : Nat) (b : Bytes) : Option Flt × State :=
  let a := s.topAcc c o
  if aoSpace ao = 1 then
    let va := nbits (aoAddr ao + off) 48 0
    match s.rangeFail o.part a.ctx va b.length true with
    | some sub => (some ⟨errXlat sub, va⟩, s.noteFault o.part a.tile va sub)
    | none => (none, s.modCtx o.part fun x => { x with heldOut := x.heldOut ++ [⟨false, (tpOf o.raw).stage, o.step, va, b⟩] })
  else s.writeOp a ao off b

/-- A DISPATCH retires when every token has been combined and every END sent (Table 12.5). -/
def State.retireDispatch (s : State) (c : Nat) (o : TOp) : State :=
  match s.topOp c o.id with
  | none => s
  | some x =>
    let mine := (s.txu c).toks.filter fun w => w.op == x.id
    if x.st == .done && mine.length == (tpOf x.raw).n && mine.all (·.combined) then s.topDone c x none else s

/-- A token whose results are all present is combined. -/
def State.combine (s : State) (c : Nat) (o : TOp) (w : TokWait) : State :=
  let t := tpOf o.raw
  let r := combineRow t w.results
  let s1 := ((s.bumpEv (pgTXU c) 0x080 r.2.1.inv).bumpEvHi (pgTXU c) 0x080 r.2.1.ovf).progress (pgTXU c) 1
  let lo := s1.topOpidx c o
  let s2 := s1.each r.2.2 fun s i => s.overflow o.part ⟨o.step, o.attempt, 2, 2, lo.1, lo.2, 0xC000 + c, i % 65536, w.tok⟩
  let q := s2.putCombine c o t.a4 (w.tok * t.h * elemBytes (convDst t.conv)) r.1
  match q.1 with
  | some f => q.2.topDone c o (some f.err)
  | none =>
    ((q.2.bump (pgTXU c) 0x058 1).modTxu c fun x =>
      { x with toks := x.toks.map fun y => if y.op = w.op ∧ y.tok = w.tok then { y with combined := true, results := [] } else y }).retireDispatch c o

/-- The FP32 words of a row. -/
def rowWords (h : Nat) (b : Bytes) : List W32 := (List.range h).map fun i => BitVec.ofNat 32 (ofLe ((b.drop (4 * i)).take 4))

/-- The request that a RESULT answers is no longer awaited (R316). -/
def State.resultHeard (s : State) (c : Nat) (r : TEarly) : State :=
  let hit : OutReq → Bool := fun q => (match q.who with | .txu c' _ => c' == c | _ => false)
    && q.put == 16 * tagSlot r.tag + tagChoice r.tag && q.gen.toNat == byteFld r.hdr 5 1
  { s with ports := s.ports.map fun (e : Nat × PortSt) => (e.1, { e.2 with outReqs := removeFirst hit e.2.outReqs }) }

/-- A RESULT record arrives at its origin: its row goes to the result area, and a token with all its results is combined. -/
def State.resultArrive (s0 : State) (c : Nat) (r : TEarly) : State :=
  let s := s0.resultHeard c r
  let p := rhPart r.hdr
  let hit := (s.txu c).toks.find? fun w => w.oslot == tagSlot r.tag && !w.combined
  match (if s.ownerOf c = some p then s.recordStep p r.hdr else none), hit with
  | some step, some w =>
    match s.topOp c w.op with
    | none => s.staleDrop c
    | some o =>
      if o.step ≠ step ∨ w.k ≤ tagChoice r.tag ∨ w.results.any (fun x => x.1 == tagChoice r.tag) then s.staleDrop c
      else
        let t := tpOf o.raw
        let b := (r.row ++ List.replicate (4 * t.h - r.row.length) 0).take (4 * t.h)
        let q := ((s.bumpHi (pgTXU c) 0x050 1).progress (pgTXU c) 1).writeOp (s.topAcc c o) t.a3 ((w.tok * t.k + tagChoice r.tag) * t.h * 4) b
        match q.1 with
        | some f => q.2.topDone c o (some f.err)
        | none =>
          let w1 := { w with results := w.results ++ [(tagChoice r.tag, tagGate r.tag, rowWords t.h b)] }
          let s1 := q.2.modTxu c fun x => { x with toks := x.toks.map fun y => if y.op = w.op ∧ y.tok = w.tok then w1 else y }
          if w1.results.length = t.k then s1.combine c o w1 else s1
  | _, _ => s.staleDrop c

/-! ### Sending (R260, R309) -/

/-- A record of operation `o` to a TXU: of this module over the package fabric, of another on a lane of Elren, where a DISPATCH
record is a request that its RESULT answers. None where the sender stalls (R270). `put` names the token and choice. -/
def State.txuSend (s : State) (c lane : Nat) (o : TOp) (put : Nat) (dst : W16) (dc : Nat) (hdr : Nat → BitVec 128) (tag : BitVec 128)
    (row : Bytes) : Option (Option Err × State) :=
  let p := o.part
  if dst = s.moduleId then
    let r : TEarly := ⟨hdr p, tag, row⟩
    match rhKind r.hdr with
    | 1 => (match s.tokArrive dc s.moduleId r with
        | some t => some (none, t)
        | none => none)
    | 2 => some (none, (s.resultArrive dc r).modTop c o.id fun x => { x with acked := x.acked + 1 })
    | _ => some (none, s.endArrive dc s.moduleId c r.hdr)
  else
    let dpart := Config.destPart (s.jobId p) dst.toNat % 32
    match s.routePort dst.toNat dpart lane with
    | none => some (some (errLost 2), s.peerLost 0 dst 2)
    | some e =>
      let n := flitsFor (16 + (if row = [] then 0 else 16) + row.length)
      let gen := (s.part p).gen
      let req := rhKind (hdr dpart) == 1
      let num := if req then (s.port e).nextTag else o.id
      let s1 := if req then s.modPort e fun x =>
          { x with nextTag := num + 1, outReqs := x.outReqs ++ [⟨num, p, gen, dst, .txu c o.id, 0, false, false, put, none⟩] }
        else s
      some (none, s1.enqueue e lane dst.toNat dpart p gen.toNat n none (.txu dst dc (hdr dpart) tag row c num))

/-! ### DISPATCH (R258, R259, R268, R270) -/

/-- What a step of a DISPATCH answers: an error, a stall, or nothing more to say. -/
inductive TxRes where
  | ok
  | stall
  | fail (e : Err)
deriving DecidableEq, Repr

/-- A read that ends the operation where it fails. -/
def State.topRead (s : State) (c : Nat) (o : TOp) (ao off n : Nat) : Except Err Bytes × State :=
  let q := s.readOp false (s.topAcc c o) ao off n
  match q.1.use (aoAddr ao + off) with
  | .ok b => (.ok b, q.2)
  | .error f => (.error f.err, q.2)

/-- The count of DISPATCH records sent to a TXU in a stage of a step. -/
def TxuSt.sentCount (t : TxuSt) (step stage : Nat) (m : W16) (dc : Nat) : Nat :=
  ((t.sentTo.find? fun x => x.step == step && x.stage == stage && x.module == m && x.cluster == dc).map (·.n)).getD 0
def TxuSt.countSent (t : TxuSt) (step stage : Nat) (m : W16) (dc : Nat) : TxuSt :=
  { t with sentTo := (t.sentTo.filter fun x => !(x.step == step && x.stage == stage && x.module == m && x.cluster == dc))
      ++ [⟨step, stage, m, dc, t.sentCount step stage m dc + 1⟩] }

/-- Choice `ch` of token `w` sent where the expert map says. -/
def State.sendChoice (s : State) (c : Nat) (o : TOp) (w : TokWait) (ch id gate : Nat) (row : Bytes) : TxRes × State :=
  let t := tpOf o.raw
  if t.mapCount ≤ id then (.fail errRuntime, s)
  else
    let m := s.topRead c o t.a2 (8 * id) 8
    match m.1 with
    | .error e => (.fail e, m.2)
    | .ok mb =>
      let ent := ofLe mb
      if !ent.testBit 31 then (.fail errRuntime, m.2)
      else
        let dst := BitVec.ofNat 16 ent
        let dc := nbits ent 20 16
        let hdr := fun p => recHdr 1 (nbits ent 26 21) t.stage p (s.part o.part).gen o.attempt t.dfmt o.step (t.h - 1)
        let tag := tagOf s.moduleId c ch w.oslot (t.base + w.tok) gate
        match m.2.txuSend c 0 o (16 * w.oslot + ch) dst dc hdr tag row with
        | none => (.stall, m.2.modTxu dc fun x => { x with stalled := true })
        | some (some e, s1) => (.fail e, s1)
        | some (none, s1) =>
          (.ok, ((s1.bump (pgTXU c) 0x040 1).progress (pgTXU c) 1).modTxu c fun x =>
            { x.countSent o.step t.stage dst dc with
              toks := (x.toks.map fun y => if y.op = w.op ∧ y.tok = w.tok then { y with sent := ch + 1 } else y) })

/-- The choices of a token from `ch` on. -/
def State.sendChoices (s : State) (c : Nat) (o : TOp) (w : TokWait) (ids gates : List Nat) (row : Bytes) : Nat → TxRes × State
  | 0 => (.ok, s)
  | f + 1 =>
    let ch := w.k - (f + 1)
    if ch < w.sent then s.sendChoices c o w ids gates row f
    else
      let r := s.sendChoice c o w ch ((ids[ch]?).getD 0) ((gates[ch]?).getD 0) row
      if r.1 = .ok then r.2.sendChoices c o w ids gates row f else r

def words32 (b : Bytes) (n : Nat) : List Nat := (List.range n).map fun i => ofLe ((b.drop (4 * i)).take 4)

/-- One token: its routing list and row read, its combine slot and result slots reserved, its choices sent. -/
def State.sendToken (s : State) (c : Nat) (o : TOp) (tok : Nat) : TxRes × State :=
  let t := tpOf o.raw
  let found := (s.txu c).toks.find? fun w => w.op == o.id && w.tok == tok
  if found.isNone && !(s.txu c).room t.k then (.stall, s)
  else
    let ri := s.topRead c o t.a0 (tok * t.k * 4) (4 * t.k)
    let rg := ri.2.topRead c o t.a0 (t.n * t.k * 4 + tok * t.k * 4) (4 * t.k)
    let n := t.h * elemBytes t.dfmt
    let rr := rg.2.topRead c o t.a1 (tok * n) n
    match ri.1, rg.1, rr.1 with
    | .error e, _, _ => (.fail e, ri.2)
    | _, .error e, _ => (.fail e, rg.2)
    | _, _, .error e => (.fail e, rr.2)
    | .ok ib, .ok gb, .ok row =>
      let ids := words32 ib t.k
      if !pairwiseB (fun a b => a != b) ids then (.fail errRuntime, rr.2)
      else
        let w := found.getD ⟨o.id, tok, (s.txu c).nextSlot, [], t.k, 0, false⟩
        let s1 := if found.isSome then rr.2 else rr.2.modTxu c fun x =>
          { x with toks := x.toks ++ [w], nextSlot := (x.nextSlot + 1) % 2 ^ 32 }
        s1.sendChoices c o w ids (words32 gb t.k) row t.k

/-- The tokens from `tok` on. -/
def State.sendTokens (s : State) (c : Nat) (o : TOp) (tok : Nat) : Nat → TxRes × State
  | 0 => (.ok, s)
  | f + 1 =>
    let r := s.sendToken c o tok
    if r.1 = .ok then r.2.sendTokens c o (tok + 1) f else r

/-- The first token not sent whole. -/
def State.nextTok (s : State) (c : Nat) (o : TOp) : Nat :=
  ((s.txu c).toks.filter fun w => w.op == o.id && w.sent == w.k).length

/-- The TXUs that the expert map names, each once, in the order of their first entry. -/
def mapHosts (b : Bytes) (n : Nat) : List (W16 × Nat) :=
  (List.range n).foldl (fun acc i =>
    let e := ofLe ((b.drop (8 * i)).take 8)
    let h : W16 × Nat := (BitVec.ofNat 16 e, nbits e 20 16)
    if e.testBit 31 && !acc.contains h then acc ++ [h] else acc) []

/-- The ENDs from the `i`-th on. -/
def State.sendEnds (s : State) (c : Nat) (o : TOp) : List (W16 × Nat) → TxRes × State
  | [] => (.ok, s)
  | h :: rest =>
    let t := tpOf o.raw
    let hdr := fun p => recHdr 3 0 t.stage p (s.part o.part).gen o.attempt 0 o.step ((s.txu c).sentCount o.step t.stage h.1 h.2)
    match s.txuSend c 0 o 0 h.1 h.2 hdr 0 [] with
    | none => (.stall, s)
    | some (some e, s1) => (.fail e, s1)
    | some (none, s1) => (s1.modTop c o.id fun x => { x with sent := x.sent + 1 }).sendEnds c o rest

/-- DISPATCH (R261, R268, R270): its tokens' records as far as there is room and credit, then one END to every TXU the map names.
It goes on from where it stalled. -/
def execDispatch (cluster id : Nat) (s : State) : Out :=
  match s.topMay cluster id 2 with
  | none => .next s
  | some o =>
    if !tpOk o.raw then .next (s.topDone cluster o (some errRuntime))
    else
      let t := tpOf o.raw
      let k0 := s.nextTok cluster o
      let r := s.sendTokens cluster o k0 (t.n - k0)
      match r.1 with
      | .fail e => .next (r.2.topDone cluster o (some e))
      | .stall => .next r.2
      | .ok =>
        let m := r.2.topRead cluster o t.a2 0 (8 * t.mapCount)
        match m.1 with
        | .error e => .next (m.2.topDone cluster o (some e))
        | .ok mb =>
          let q := m.2.sendEnds cluster o ((mapHosts mb t.mapCount).drop o.sent)
          match q.1 with
          | .fail e => .next (q.2.topDone cluster o (some e))
          | .stall => .next q.2
          | .ok => .next ((q.2.modTop cluster id fun x => { x with st := .done }).retireDispatch cluster o)

/-! ### SLOTS and PASS_DONE -/

/-- SLOTS (R261, R262): the expert slots of a stage; records that came before it take their passes. -/
def execSlots (cluster id : Nat) (s : State) : Out :=
  match s.topMay cluster id 1 with
  | none => .next s
  | some o =>
    let t := tpOf o.raw
    let used := match s.tstage cluster t.stage o.step with | some g => g.op.isSome | none => false
    if !tpOk o.raw || used then .next (s.topDone cluster o (some errRuntime))
    else
      let r := s.topRead cluster o t.a0 0 (32 * t.n)
      match r.1 with
      | .error e => .next (r.2.topDone cluster o (some e))
      | .ok b =>
        let raws : List (BitVec 256) := (tableAt b 0 t.n 32).map fun x => BitVec.ofNat 256 (ofLe x)
        if !raws.all (slOk cluster) || decide (32768 < (raws.map slCap).sum) then .next (r.2.topDone cluster o (some errRuntime))
        else
          let s1 := r.2.openStage cluster t.stage o.step o.attempt
          let early := ((s1.tstage cluster t.stage o.step).map (·.early)).getD []
          let s2 := s1.modStage cluster t.stage o.step fun g =>
            { g with op := some id, origins := t.base, early := [],
                     slots := raws.map fun x => ⟨x, List.replicate 9 ⟨[], false, false⟩, []⟩ }
          let s3 := (s2.modTxu cluster fun x => { x with lastStage := t.stage, lastPass := 0, lastSlots := raws }).modTop cluster id fun x => { x with st := .reading }
          .next ((s3.each early fun s r => s.placeTok cluster t.stage o.step r).closeAll cluster t.stage o.step)

/-- The results of a pass from row `i` on. -/
def State.sendResults (s : State) (c : Nat) (o : TOp) (x : ESlot) : Nat → List (BitVec 128) → TxRes × State
  | _, [] => (.ok, s)
  | i, tag :: rest =>
    let t := tpOf o.raw
    let b := s.topRead c o (slOut x.raw) ((t.pass * slCap x.raw + i) * t.h * 4) (4 * t.h)
    match b.1 with
    | .error e => (.fail e, b.2)
    | .ok row =>
      let hdr := fun p => recHdr 2 0 t.stage p (s.part o.part).gen o.attempt 0 o.step (t.h - 1)
      match b.2.txuSend c 1 o 0 (tagModule tag) (tagTxu tag) hdr tag row with
      | none => (.stall, s)
      | some (some e, s1) => (.fail e, s1)
      | some (none, s1) =>
        (((s1.bump (pgTXU c) 0x050 1).progress (pgTXU c) 1).modTop c o.id fun y => { y with sent := y.sent + 1 }).sendResults c o x (i + 1) rest

/-- PASS_DONE (R261, R265): one RESULT for each row of a closed pass, and it retires once the origins have accepted every one; it goes
on from where it stood. A pass that has not closed breaks R265. -/
def execPassDone (cluster id : Nat) (s : State) : Out :=
  match s.topMay cluster id 3 with
  | none => .next s
  | some o =>
    let t := tpOf o.raw
    let slot := (s.tstage cluster t.stage o.step).bind fun g => g.slots[t.eslot]?
    let pass := slot.bind fun x => x.passes[t.pass]?
    match tpOk o.raw, slot, pass with
    | true, some x, some p =>
      if !p.closed || p.done then .next (s.topDone cluster o (some errRuntime))
      else
        let r := s.sendResults cluster o x o.sent (p.rows.drop o.sent)
        match r.1 with
        | .fail e => .next (r.2.topDone cluster o (some e))
        | .stall => .next r.2
        | .ok =>
          if ((r.2.topOp cluster id).map (·.acked)).getD 0 < p.rows.length then .next r.2 else
          let s1 := r.2.modStage cluster t.stage o.step fun g => g.modSlot t.eslot fun x =>
            { x with passes := x.passes.modify t.pass fun p => { p with done := true } }
          .next ((s1.topDone cluster o none).retireSlots cluster t.stage o.step)
    | _, _, _ => .next (s.topDone cluster o (some errRuntime))

/-! ### Records from other modules -/

/-- Why a request for a partition that came on a port is refused (R315): the port is fenced, or the partition is not bound or is
being torn down. -/
def State.refuses (s : State) (port p : Nat) : Bool := s.portFenced port || !(s.ctx p).bound || (s.part p).state != .active

/-- A response on lane 1 of the port that the request came on (R303, R315). -/
def State.respond (s : State) (e : Nat) (h : RemHdr) (r : RemResp) : State :=
  let n := match r with | .data b _ => flitsFor b.length | _ => 1
  s.enqueue e 1 h.src.toNat h.dpart h.dpart h.gen.toNat n none (.resp e h.src h.tag h.gen r)

/-- DISPATCH_RECORD (R263, R266, R270, R271, R315): refused, or taken; one that finds no room waits at its sender. -/
def execDispatchRecord (cluster : Nat) (origin : Arrival) (hdr tag : BitVec 128) (row : Bytes) (s : State) : Out :=
  if !s.running || decide (16 ≤ origin.port) || !s.portUp origin.port || decide (32 ≤ cluster) || rhKind hdr != 1 then .next s
  else if s.refuses origin.port (rhPart hdr) then
    .next (s.respond origin.port ⟨rhPart hdr, BitVec.ofNat 8 (byteFld hdr 5 1), origin.origin, origin.num, true⟩ (.refusal 3))
  else match s.tokArrive cluster origin.origin ⟨hdr, tag, row⟩ with
    | some t => .next t
    | none => .next (s.modTxu cluster fun x => { x with stalled := true })

/-- END_RECORD (R263): a port that refuses requests takes none. -/
def execEndRecord (cluster : Nat) (origin : Arrival) (originTxu : Nat) (hdr : BitVec 128) (s : State) : Out :=
  whenOk (s.running && decide (origin.port < 16) && s.portUp origin.port && decide (cluster < 32) && rhKind hdr == 3 &&
      !s.refuses origin.port (rhPart hdr)) (s.endArrive cluster origin.origin originTxu hdr) s

/-- RESULT_RECORD (R268). -/
def execResultRecord (cluster : Nat) (hdr tag : BitVec 128) (row : Bytes) (s : State) : Out :=
  whenOk (s.running && decide (cluster < 32) && rhKind hdr == 2) (s.resultArrive cluster ⟨hdr, tag, row⟩) s

/-! ### The step edge (R267, R269, R271) -/

/-- A TXU of the partition holds a record of its oldest undecided step in a spill pass that is not done, or past pass 8. -/
def State.txuExpert (s : State) (p : Nat) : Bool :=
  (s.clustersOf p).any fun c => (s.txu c).stages.any fun g => g.step == (s.ctx p).cur && g.slots.any fun x =>
    !x.held.isEmpty || (x.passes.drop 1).any fun q => !q.rows.isEmpty && !q.done

/-- At a commit the step's stages end. -/
def State.txuCommit (s : State) (p n : Nat) : State :=
  s.each (s.clustersOf p) fun s c => s.modTxu c fun t =>
    { t with stages := t.stages.filter (fun g => g.step != n), sentTo := t.sentTo.filter fun x => x.step != n }

/-- Operations that `gone` names leave a TXU, with the port records that wait for them and their tokens. -/
def State.txuDropOps (s : State) (c : Nat) (gone : TOp → Bool) : State :=
  let l := (s.txu c).ops.filter gone
  let s1 := (s.forgetSent c fun id => l.any fun o => o.id == id).each l fun s o => s.setExecs o.core 7 ((s.execs o.core 7).filter fun x => x.port != some (uTxu c, o.id))
  s1.modTxu c fun t =>
    { t with ops := t.ops.filter (fun o => !gone o), toks := t.toks.filter fun w => !l.any fun o => o.id == w.op }

/-- At a repeat or abandon everything of the steps from `n` on goes (R271). -/
def State.txuDiscard (s : State) (p n : Nat) : State :=
  s.each (s.clustersOf p) fun s c => (s.txuDropOps c fun o => decide (n ≤ o.step)).modTxu c fun t =>
    { t with stages := t.stages.filter (fun g => decide (g.step < n)), sentTo := t.sentTo.filter fun x => decide (x.step < n) }

/-- A rewind discards the stages of a step from `stage` on (R282). -/
def State.txuRewind (s : State) (p n stage : Nat) : State :=
  s.each (s.clustersOf p) fun s c =>
    (s.txuDropOps c fun o => decide (o.step = n ∧ stage ≤ (tpOf o.raw).stage)).modTxu c fun t =>
      { t with stages := t.stages.filter (fun g => !decide (g.step = n ∧ stage ≤ g.stage)),
               sentTo := t.sentTo.filter fun x => !decide (x.step = n ∧ stage ≤ x.stage) }

end Sys2Proof.Machine
end

