-- ==== Sys2Proof/Machine/Fold.lean ====
section
/-! DEFINITION. Machine/Fold.lean: the fold engines: conversion, adders and residues, trees, windows, held results, tune-mode
updates and broadcasts (R321 to R345). -/

namespace Sys2Proof.Machine

open Sys2Proof

/-! ### Fold entries (Table 15.4) -/

def feOp (r : FoldEnt) : Nat := byteFld r 0 1
def feLocal (r : FoldEnt) : Bool := bitOf r 8
def feLocal24 (r : FoldEnt) : Bool := bitOf r 9
def feConv (r : FoldEnt) : Nat := byteFld r 2 1
def feSrcFmt (r : FoldEnt) : Nat := bits r 27 24
def feTensor (r : FoldEnt) : Nat := byteFld r 4 4
def feLayer (r : FoldEnt) : Nat := byteFld r 8 4
def feBlocks (r : FoldEnt) : Nat := byteFld r 12 4
/-- The children present, with their inputs 1 to 3. -/
def feKids (r : FoldEnt) : List (Nat × W16) :=
  ((List.range 3).map fun i => (i + 1, BitVec.ofNat 16 (byteFld r (16 + 2 * i) 2))).filter fun x => x.2 != 0xFFFF
def feParent (r : FoldEnt) : Option W16 := if byteFld r 22 2 = 0xFFFF then none else some (BitVec.ofNat 16 (byteFld r 22 2))
def feWait (r : FoldEnt) : Nat := byteFld r 24 2
def feSig (r : FoldEnt) : Nat := byteFld r 28 2
def feSrc (r : FoldEnt) : Nat := byteFld r 32 8
def feDst (r : FoldEnt) : Nat := byteFld r 40 8
def feAux (r : FoldEnt) : Nat := byteFld r 48 8

def pgFOLD (e : Nat) : Nat := pk tFOLD e

def State.fpart (s : State) (e p : Nat) : FoldPart := Tbl.get FoldPart.zero (s.foldE e).parts p
def State.modFpart (s : State) (e p : Nat) (f : FoldPart → FoldPart) : State :=
  s.modFoldE e fun x => { x with parts := Tbl.set x.parts p (f (Tbl.get FoldPart.zero x.parts p)) }

/-- The fold entries of an engine in the launch of a step. -/
def State.foldList (s : State) (p step e : Nat) : List FoldEnt :=
  match s.bucketOf p step with
  | some b => (b.folds[e]?).getD []
  | none => []

/-- The current entry of a partition on an engine. -/
def State.foldCur (s : State) (e p : Nat) : Option FoldEnt := (s.foldList p (s.ctx p).cur e)[(s.fpart e p).cur]?

/-- The scale of a tensor at a width (R199). -/
def State.foldScale (s : State) (p step tensor w : Nat) : Nat :=
  match (s.planOfStep p step).bind fun q => q.scales.find? fun x => x.1 == tensor with
  | some x => if w = 24 then x.2.1 else x.2.2
  | none => 0

/-- Accesses of an engine for an attempt: through its tile. -/
def foldAcc (s : State) (e p : Nat) : Acc := ⟨p, s.activeCtx p, some (s.ctx p).cur, e / 2, 0, false⟩

/-! ### Blocks (R321 to R327) -/

def foldMax (w : Nat) : Int := 2 ^ (w - 1) - 1
def foldMin (w : Nat) : Int := -(2 ^ (w - 1))

/-- The width of a code of Table 15.2, and its SAT mark; none for a code that no reduction block carries. -/
def widthOf (code : Nat) : Option (Nat × Bool) :=
  match code with
  | 1 => some (24, false)
  | 2 => some (40, false)
  | 9 => some (24, true)
  | 0xA => some (40, true)
  | _ => none
def widthCode (w : Nat) (sat : Bool) : Nat := (if w = 24 then 1 else 2) + (if sat then 8 else 0)

/-- Σ e mod 255, taken in 0 to 254 (R324). -/
def residueOf (l : List Int) : Nat := (l.sum % 255).toNat

/-- One contribution (R323): the element, poison, saturation. -/
def foldElem (w scale : Nat) (v : FVal) : Int × Bool × Bool :=
  match v with
  | .nan => (0, true, false)
  | .inf n => (if n then foldMin w else foldMax w, false, true)
  | .fin n m e =>
    let r : Int := shiftRound false m (-(e + 127 - (scale : Int)))
    let x := if n then -r else r
    if foldMax w < x then (foldMax w, false, true)
    else if x < foldMin w then (foldMin w, false, true)
    else (x, false, false)

/-- The mask of the indices that `f` marks. -/
def maskOf {α : Type} (l : List α) (f : α → Bool) : W64 :=
  BitVec.ofNat 64 ((l.zipIdx.filter fun x => f x.1).map fun x => 2 ^ x.2).sum

/-- A block built from contributions, with the indices that saturated. -/
def foldBlock (w scale step attempt j : Nat) (xs : List FVal) : FoldBlk × List Nat :=
  let q := xs.map (foldElem w scale)
  let es := q.map (·.1)
  let sats := (q.zipIdx.filter fun x => x.1.2.2).map (·.2)
  (⟨BitVec.ofNat 8 step, attempt, j, residueOf es, scale, widthCode w (!sats.isEmpty), maskOf q (·.2.1), es⟩, sats)

/-- A fold-24 block widened exactly (R334); its residue goes with it. -/
def widenBlk (s24 s40 : Nat) (b : FoldBlk) : FoldBlk :=
  match widthOf b.width with
  | some (24, sat) =>
    let k : Int := 2 ^ (s24 - s40)
    { b with elems := b.elems.map (· * k), residue := ((b.residue : Int) * k % 255).toNat, scale := s40, width := widthCode 40 sat }
  | _ => b

/-- An adder (R326) on two blocks of one width: the sum, the indices it clamped, and whether the residue disagrees. -/
def addBlk (w : Nat) (a b : FoldBlk) : FoldBlk × List Nat × Bool :=
  let idx := List.range 64
  let raw := idx.map fun i => (a.elems[i]?).getD 0 + (b.elems[i]?).getD 0
  let pois := a.poison ||| b.poison
  let out := raw.zipIdx.map fun x =>
    if pois.getLsbD x.2 then 0 else if foldMax w < x.1 then foldMax w else if x.1 < foldMin w then foldMin w else x.1
  let sats := (raw.zipIdx.filter fun x => !pois.getLsbD x.2 && decide (foldMax w < x.1 ∨ x.1 < foldMin w)).map (·.2)
  let adj := ((raw.zip out).map fun x => x.1 - x.2).sum
  let expect := (((a.residue : Int) + b.residue - adj) % 255).toNat
  let sat := decide (8 ≤ a.width ∨ 8 ≤ b.width) || !sats.isEmpty
  ({ a with elems := out, residue := residueOf out, width := widthCode w sat, poison := pois }, sats, residueOf out != expect)

/-- A block is corrupt by its header (R326). -/
def hdrCorrupt (s24 s40 : Nat) (b : FoldBlk) : Bool :=
  match widthOf b.width with
  | none => true
  | some (w, _) => b.scale != (if w = 24 then s24 else s40) || b.residue == 0xFF

/-- A received block whose elements do not make its residue (R327). -/
def sumCorrupt (b : FoldBlk) : Bool := b.residue != residueOf b.elems

/-- An element of a result as FP32 (R325). -/
def foldToFp (scale : Nat) (x : Int) : FVal × Ev :=
  roundVec fp32 false (.fin (decide (x < 0)) x.natAbs ((scale : Int) - 127), Ev.zero)

/-- The bytes of a result block at its destination, with the events. -/
def resultBytes (conv : Nat) (b : FoldBlk) : Bytes × Ev :=
  (b.elems.zipIdx).foldl (fun acc x =>
    let v := if b.poison.getLsbD x.2 then (FVal.nan, Ev.zero) else foldToFp b.scale x.1
    let q := convTo conv v.1
    (acc.1 ++ leBytes (elemBytes (convDst conv)) q.1, acc.2.plus (v.2.plus q.2))) ([], Ev.zero)

/-! ### Failing an entry (R328, R339) -/

/-- An error of a unit that belongs to no cluster fails the attempt (R218). -/
def State.unitFault (s : State) (p step : Nat) (err : Err) : State :=
  s.modCtx p fun c =>
    { c with fails := if c.fails.any (fun f => f.1 == step) then c.fails else c.fails ++ [(step, err)],
             staged := c.staged.filter fun g => g.step != step }

/-- The current entry ends with an error: FOLD.FIRST_ERR keeps the first of the step. Where no other module's block is at fault the
sender is this module (log entry 34). -/
def State.foldFail (s : State) (e p : Nat) (r : FoldEnt) (err : Err) (j : Nat) (src : W16) : State :=
  let s1 := s.modFpart e p fun f =>
    if f.errSet then { f with failed := true } else
      { f with failed := true, errSet := true, firstErr := pack 64 [⟨15, 0, err.st.toNat⟩, ⟨31, 16, err.sub.toNat⟩, ⟨63, 32, feTensor r⟩],
               firstInfo := pack 64 [⟨31, 0, j⟩, ⟨47, 32, src.toNat⟩] }
  (s1.noteErr (pgFOLD e) err.st.toNat err.sub.toNat).unitFault p (s.ctx p).cur err

def errFoldCorrupt : Err := ⟨stUNCORR, 0x0201⟩

/-- A numeric event of a fold engine. -/
def foldEvent (s : State) (e p : Nat) (r : FoldEnt) (kind aux j : Nat) : NumEv :=
  ⟨(s.ctx p).cur, (s.ctx p).attempt, kind, if kind = 3 then 1 else 0, feLayer r, 0xFFFFFFFF, e, aux, j⟩

/-- A corrupt block is counted, logged and ends the entry (R328). -/
def State.foldCorrupt (s : State) (e p : Nat) (r : FoldEnt) (j : Nat) (src : W16) : State :=
  (((s.bump (pgFOLD e) 0x060 1).numEvent p (foldEvent s e p r 8 0 j)).raise (pgFOLD e) 0).foldFail e p r errFoldCorrupt j src

/-- Saturated elements of a block: counted, and the trigger on the fold axis, with AUX the lowest of them (R335). -/
def State.foldSat (s : State) (e p : Nat) (r : FoldEnt) (sats : List Nat) (j : Nat) : State :=
  match sats.min? with
  | none => s
  | some i => (((s.bumpEv (pgFOLD e) 0x058 sats.length).raise (pgFOLD e) 1).overflow p (foldEvent s e p r 3 i j))

/-- A block that arrives marked SAT is a trigger at its receiver; which element saturated is open (log entry 34). -/
def State.foldSatIn (s : State) (e p : Nat) (r : FoldEnt) (j : Nat) : State :=
  let a := s.fresh 16
  (a.2.raise (pgFOLD e) 1).overflow p (foldEvent s e p r 3 a.1 j)

/-- Poisoned elements of a conversion (R337). -/
def State.foldPoison (s : State) (e p : Nat) (r : FoldEnt) (mask : W64) (j : Nat) : State :=
  match setBits mask.toNat 64 with
  | [] => s
  | i :: t =>
    ((s.bumpEvHi (pgFOLD e) 0x058 (t.length + 1)).raise (pgFOLD e) 2).numEvent p
      { foldEvent s e p r 7 i j with unit := s.moduleId.toNat }

/-! ### Sending (R322, R331) -/

def foldFlits (b : FoldBlk) : Nat := match widthOf b.width with | some (40, _) => 2 | _ => 1

/-- A block sent to another module's engine: kind 1 UP, 2 DOWN, 3 BCAST. -/
def State.foldSend (s : State) (e p kind : Nat) (dst : W16) (tensor : Nat) (b : FoldBlk) : State :=
  let dpart := Config.destPart (s.jobId p) dst.toNat % 32
  let gen := (s.part p).gen
  ((s.bump (pgFOLD e) 0x048 1).progress (pgFOLD e) 1).enqueue e 2 dst.toNat dpart p gen.toNat (foldFlits b) (some kind)
    (.fold e dst kind ⟨s.moduleId, dpart, gen, BitVec.ofNat 32 tensor, b⟩)

/-- The window end granted to each child: 64 blocks past the lowest not summed. -/
def State.foldGrant (s : State) (e p : Nat) : State :=
  match s.foldCur e p with
  | none => s
  | some r =>
    let f := s.fpart e p
    let ks := feKids r
    if !f.started || f.failed || ks.isEmpty || decide (f.summed + 64 ≤ f.given) || !s.canTx e 2 then s
    else
      let gen := (s.part p).gen.toNat
      (s.each ks fun s k =>
        s.enqueue e 2 k.2.toNat (Config.destPart (s.jobId p) k.2.toNat % 32) p gen 1 (some 4)
          (.foldGrant e k.2 (BitVec.ofNat 32 (feTensor r)) (f.summed + 64))).modFpart e p fun f => { f with given := f.summed + 64 }

/-! ### Updates (R341, R342) -/

def fpAt (b : Bytes) (o : Nat) : FVal := decodeFmt 0 (ofLe ((b.drop o).take 4))

/-- A correctly rounded square root. -/
def fsqrt (v : FVal) : FVal × Ev :=
  match v with
  | .nan => (.nan, Ev.zero)
  | .inf n => if n then (.nan, evInv) else (.inf false, Ev.zero)
  | .fin n m e =>
    if m = 0 then (.fin n 0 0, Ev.zero)
    else if n then (.nan, evInv)
    else
      -- an even exponent, 80 root bits, and a sticky bit below them
      let m1 := if e % 2 = 0 then m else 2 * m
      let e1 := if e % 2 = 0 then e else e - 1
      let x := m1 <<< 160
      let r := Nat.sqrt x
      roundVec fp32 false (.fin false (2 * r + (if r * r = x then 0 else 1)) (e1 / 2 - 81), Ev.zero)

/-- A fused multiply-add rounded once. -/
def ffma (a b c : FVal) : FVal × Ev := roundVec fp32 false (exactFma a b c)

/-- The new w, m and v of one element (R342), `g` the scaled gradient, with the events. -/
def updElem (u : Bytes) (w m v g : FVal) : (FVal × FVal × FVal) × Ev :=
  let lam := fpAt u 12
  let eta := fpAt u 8
  let b1 := fpAt u 16
  if ofLe (u.take 1) = 0 then
    let m1 := ffma b1 m g
    let d := ffma lam w m1.1
    let w1 := ffma eta.neg d.1 w
    ((w1.1, m1.1, v), m1.2.plus (d.2.plus w1.2))
  else
    let dm := fadd m g.neg
    let m1 := ffma b1 dm.1 g
    let g2 := fmul g g
    let dv := fadd v g2.1.neg
    let v1 := ffma (fpAt u 20) dv.1 g2.1
    let num := fmul (fpAt u 28) m1.1
    let cv := fmul (fpAt u 32) v1.1
    let rt := fsqrt cv.1
    let den := fadd rt.1 (fpAt u 24)
    let uu := fdiv num.1 den.1
    let d := ffma lam w uu.1
    let w1 := ffma eta.neg d.1 w
    ((w1.1, m1.1, v1.1), [dm.2, m1.2, g2.2, dv.2, v1.2, num.2, cv.2, rt.2, den.2, uu.2, d.2, w1.2].foldl Ev.plus Ev.zero)

/-- An update block in form (Table 15.6). -/
def updOk (u : Bytes) : Bool :=
  decide (ofLe (u.take 1) ≤ 1) && [1, 3, 4].contains (fld u 1 1)
    && aoSpace (fld u 40 8) == 1 && aoSpace (fld u 56 8) == 1 && (fld u 0 1 == 0 || aoSpace (fld u 48 8) == 1)

/-- FP32 words of values. -/
def fpBytes (l : List FVal) : Bytes := l.flatMap fun v => leBytes 4 (enc32 v)

/-- A read of an engine at an operand in central store. -/
def State.foldRead (s : State) (e p ao off n : Nat) : Except Err Bytes × State :=
  if aoSpace ao ≠ 1 then (.error errRuntime, s)
  else
    let va := nbits (aoAddr ao + off) 48 0
    let q := s.readVa .store false (foldAcc s e p) va n
    match q.1.use va with
    | .ok b => (.ok b, q.2)
    | .error f => (.error f.err, q.2)

/-- The root's update of block `j` from the reduced gradient: the shadow copies are written, and what becomes current at the edge
is kept. -/
def State.foldUpdate (s : State) (e p : Nat) (r : FoldEnt) (j : Nat) (b : FoldBlk) : Option Err × State :=
  let ub := s.foldRead e p (feAux r) 0 64
  match ub.1 with
  | .error x => (some x, ub.2)
  | .ok u =>
    if !updOk u then (some errRuntime, ub.2)
    else
      let adam := fld u 0 1 == 1
      let rw := ub.2.foldRead e p (feDst r) (256 * j) 256
      let rm := rw.2.foldRead e p (fld u 40 8) (256 * j) 256
      let rv := if adam then rm.2.foldRead e p (fld u 48 8) (256 * j) 256 else (.ok (List.replicate 256 0), rm.2)
      match rw.1, rm.1, rv.1 with
      | .ok wb, .ok mb, .ok vb =>
        let res := (List.range 64).map fun i =>
          let w := fpAt wb (4 * i)
          let m := fpAt mb (4 * i)
          let v := fpAt vb (4 * i)
          if b.poison.getLsbD i then ((wb.drop (4 * i)).take 4, (mb.drop (4 * i)).take 4, (vb.drop (4 * i)).take 4, Ev.zero)
          else
            let x := foldToFp b.scale ((b.elems[i]?).getD 0)
            let g := fmul (fpAt u 4) x.1
            let q := updElem u w m v g.1
            (leBytes 4 (enc32 q.1.1), leBytes 4 (enc32 q.1.2.1), leBytes 4 (enc32 q.1.2.2), x.2.plus (g.2.plus q.2))
        let w1 := res.flatMap (·.1)
        let m1 := res.flatMap (·.2.1)
        let v1 := res.flatMap (·.2.2.1)
        let ev := (res.map (·.2.2.2)).foldl Ev.plus Ev.zero
        let np := (setBits b.poison.toNat 64).length
        let sh := aoAddr (fld u 56 8)
        let a := foldAcc s e p
        let copies := [(sh + 256 * j, w1), (sh + 256 * (feBlocks r + j), m1)] ++ (if adam then [(sh + 256 * (2 * feBlocks r + j), v1)] else [])
        let wr := copies.foldl (fun (acc : Option Flt × State) c =>
          if acc.1.isSome then acc else acc.2.writeVa .store false a (nbits c.1 48 0) c.2) (none, rv.2)
        match wr.1 with
        | some f => (some f.err, wr.2)
        | none =>
          let now := [(nbits (aoAddr (feDst r) + 256 * j) 48 0, w1), (nbits (aoAddr (fld u 40 8) + 256 * j) 48 0, m1)]
            ++ (if adam then [(nbits (aoAddr (fld u 48 8) + 256 * j) 48 0, v1)] else [])
          let base : FUpd := ⟨feTensor r, feBlocks r, aoAddr (feDst r), fld u 1 1, (feKids r).map (·.2), []⟩
          let s1 := ((((wr.2.bumpEv (pgFOLD e) 0x078 (64 - np)).bumpEvHi (pgFOLD e) 0x078 np).bumpEv (pgFOLD e) 0x080 ev.ovf).bumpEvHi
            (pgFOLD e) 0x080 ev.fl)
          (none, s1.modFpart e p fun f =>
            let old := (f.upds.find? fun x => x.tensor == feTensor r).getD base
            let one := { old with writes := old.writes ++ now }
            { f with upds := (f.upds.filter fun x => x.tensor != feTensor r) ++ [one] })
      | .error x, _, _ => (some x, rw.2)
      | _, .error x, _ => (some x, rm.2)
      | _, _, .error x => (some x, rv.2)

/-! ### One block through a node (R330 to R334) -/

/-- A result block goes to its destination, held until the edge (R325, R332). -/
def State.foldResult (s : State) (e p : Nat) (r : FoldEnt) (j : Nat) (b : FoldBlk) : Option Err × State :=
  let conv := feConv r
  if aoSpace (feDst r) ≠ 1 ∨ convOk conv = false ∨ bsiBits (convDst conv) ≠ 0 then (some errRuntime, s)
  else
    let q := resultBytes conv b
    let va := nbits (aoAddr (feDst r) + j * q.1.length) 48 0
    let a := foldAcc s e p
    match s.rangeFail p a.ctx va q.1.length true with
    | some sub => (some (errXlat sub), s.noteFault p a.tile va sub)
    | none =>
      let s1 := (s.bumpEv (pgFOLD e) 0x080 q.2.ovf).bumpEvHi (pgFOLD e) 0x080 q.2.fl
      (none, (s1.modCtx p fun x => { x with heldOut := x.heldOut ++ [⟨true, feTensor r, x.cur, va, q.1⟩] }).modFpart e p fun f =>
        { f with written := f.written + 1 })

/-- The elements of a local contribution, read from central store; those in poisoned words are taken as NaN (R130, R337). -/
def State.foldLocal (s : State) (e p : Nat) (r : FoldEnt) (j : Nat) : Except Err (List FVal) × State :=
  let esz := elemBytes (feSrcFmt r)
  if aoSpace (feSrc r) ≠ 1 then (.error errRuntime, s)
  else
    let q := s.readVa .store false (foldAcc s e p) (nbits (aoAddr (feSrc r) + 64 * esz * j) 48 0) (64 * esz)
    match q.1.err with
    | some f => (.error f.err, q.2)
    | none =>
      let xs := (List.range 64).map fun i =>
        if q.1.bad.any fun o => o / 8 == esz * i / 8 then FVal.nan
        else decodeFmt (feSrcFmt r) (ofLe ((q.1.data.drop (esz * i)).take esz))
      (.ok xs, q.2)

/-- The local contribution of block `j` (R323, R333): at the entry's width, or with LOCAL24 at fold-24 where nothing saturates.
Answers the block, the indices that saturated, and whether LOCAL24 sent it at fold-40. -/
def localBlock (r : FoldEnt) (w s24 s40 step attempt j : Nat) (xs : List FVal) : FoldBlk × List Nat × Bool :=
  if w = 40 ∧ feLocal24 r then
    let n := foldBlock 24 s24 step attempt j xs
    if n.2.isEmpty then (n.1, [], false)
    else let q := foldBlock 40 s40 step attempt j xs
         (q.1, q.2, true)
  else
    let q := foldBlock w (if w = 24 then s24 else s40) step attempt j xs
    (q.1, q.2, false)

/-- A block summed into the inputs before it, in order: the sum, the indices that saturated, and the place in `rest` of the first
block whose addition makes a wrong residue. -/
def sumInputs (s24 s40 : Nat) (first : FoldBlk) (rest : List FoldBlk) : FoldBlk × List Nat × Option Nat :=
  rest.zipIdx.foldl (fun acc b =>
    let wide := acc.1.width % 8 == 2 || b.1.width % 8 == 2
    let x := if wide then widenBlk s24 s40 acc.1 else acc.1
    let y := if wide then widenBlk s24 s40 b.1 else b.1
    let q := addBlk (if wide then 40 else 24) x y
    (q.1, acc.2.1 ++ q.2.1, if acc.2.2.isNone ∧ q.2.2 = true then some b.2 else acc.2.2)) (first, [], none)

/-- What a node does with a summed block: a root writes, sends down or updates; another sends it up. `own` says that an element
saturated here, which has been reported. -/
def State.foldOut (s : State) (e p : Nat) (r : FoldEnt) (j : Nat) (b : FoldBlk) (own : Bool) : Option Err × State :=
  match feParent r with
  | some up => (none, s.foldSend e p 1 up (feTensor r) b)
  | none =>
    let s0 := if 8 ≤ b.width ∧ own = false then s.foldSatIn e p r j else s
    match feOp r with
    | 3 => s0.foldUpdate e p r j b
    | 2 =>
      let q := s0.foldResult e p r j b
      if q.1.isSome then q else (none, q.2.each (feKids r) fun s k => s.foldSend e p 2 k.2 (feTensor r) b)
    | _ => s0.foldResult e p r j b

/-- The width that the current fold variant of an entry's layer gives: 24, 40, or none where the entry is skipped (R333). -/
def State.foldWidth (s : State) (p : Nat) (r : FoldEnt) : Option Nat :=
  match s.position p (s.ctx p).cur (feLayer r) 1 with
  | 0 => some 24
  | 1 => some 40
  | _ => none

/-- One block of the current entry, where every input, the window and the credit allow: none where it waits. -/
def State.foldBlockGo (s : State) (e p : Nat) : Option State :=
  match s.foldCur e p with
  | none => none
  | some r =>
    let f := s.fpart e p
    let j := f.summed
    let x := s.ctx p
    let kids := feKids r
    let ins := kids.map fun k => f.held.find? fun h => h.tensor == feTensor r && h.input == k.1 && h.blk.block == j
    let w := (s.foldWidth p r).getD 24
    let sends := (feParent r).isSome || (feOp r == 2 && !kids.isEmpty)
    if !f.started || f.failed || feOp r == 4 || decide (feBlocks r ≤ j) || ins.any (·.isNone) || (!feLocal r && kids.isEmpty)
        || ((feParent r).isSome && decide (f.granted ≤ j)) || (sends && !s.canTx e 2) then none
    else
      let s24 := s.foldScale p x.cur (feTensor r) 24
      let s40 := s.foldScale p x.cur (feTensor r) 40
      let got := ins.filterMap fun h => h.map (·.blk)
      let rd := if feLocal r then s.foldLocal e p r j else (.ok [], s)
      match rd.1 with
      | .error err => some (rd.2.foldFail e p r err j s.moduleId)
      | .ok xs =>
        let loc := localBlock r w s24 s40 x.cur x.attempt j xs
        let s1 := if feLocal r then
            let c := rd.2.bumpEv (pgFOLD e) 0x050 1
            let c1 := if loc.2.2 then c.bumpEvHi (pgFOLD e) 0x050 1 else c
            c1.foldPoison e p r loc.1.poison j
          else rd.2
        let mine := if feLocal r then loc.2.1 else []
        let all := (if feLocal r then [loc.1] else []) ++ got
        match all with
        | [] => none
        | first :: rest =>
          let q := sumInputs s24 s40 first rest
          match q.2.2 with
          | some i => some ((s1.foldSat e p r mine j).foldCorrupt e p r j
              (((kids[if feLocal r then i else i + 1]?).map (·.2)).getD s.moduleId))
          | none =>
            let blk := { q.1 with step := BitVec.ofNat 8 x.cur, attempt := x.attempt, block := j }
            let sats := mine ++ q.2.1
            let s2 := (s1.foldSat e p r sats j).modFpart e p fun f =>
              { f with summed := j + 1, held := f.held.filter fun h => !(h.tensor == feTensor r && h.blk.block == j) }
            let o := s2.foldOut e p r j blk (!sats.isEmpty)
            match o.1 with
            | some err => some (o.2.foldFail e p r err j s.moduleId)
            | none => some (o.2.progress (pgFOLD e) 1)

/-- Blocks while they go. -/
def State.foldGo (s : State) (e p : Nat) : Nat → State
  | 0 => s
  | n + 1 => match s.foldBlockGo e p with
    | none => s
    | some t => t.foldGo e p n

/-! ### Broadcasts (R343) -/

/-- The BCAST_RX entry of a tensor on an engine, in the launches of a partition that are placed. -/
def State.bcastRx (s : State) (e p tensor : Nat) : Option FoldEnt :=
  (s.ents.filter fun x => x.part == p && (x.st == .placed || x.st == .running)).findSome? fun x =>
    match x.step with
    | none => none
    | some n => (s.foldList p n e).find? fun r => feOp r == 4 && feTensor r == tensor

def bcastCode (bfmt : Nat) : Nat := if bfmt = 1 then 4 else if bfmt = 3 then 5 else 6
def bcastFmt (code : Nat) : Option Nat := if code = 4 then some 1 else if code = 5 then some 3 else if code = 6 then some 4 else none

/-- A broadcast block written to the parameter copy that an entry names. Its writes are not staged. -/
def State.bcastWrite (s : State) (e p : Nat) (r : FoldEnt) (b : FoldBlk) : State :=
  match bcastFmt b.width with
  | none => s
  | some f =>
    let n := elemBytes f
    let va := nbits (aoAddr (feDst r) + 64 * n * b.block) 48 0
    (s.writeVa .store false ⟨p, s.activeCtx p, none, e / 2, 0, false⟩ va (b.elems.flatMap fun x => leBytes n x.toNat)).2

/-- Block `j` of a tensor's broadcast written; with the last of them in order the broadcast of the step is whole. Block 0 begins it anew,
as a broadcast sent again does (R343). -/
def State.bcastCount (s : State) (e p tensor blocks step j : Nat) : State :=
  s.modFpart e p fun f =>
    let got := Tbl.get 0 f.bcastGot tensor
    let n := if j = 0 then 1 else if j = got then got + 1 else got
    if blocks ≤ n then { f with bcastDone := Tbl.set f.bcastDone tensor step, bcastGot := Tbl.drop f.bcastGot (· == tensor) }
    else { f with bcastGot := Tbl.set f.bcastGot tensor n }

/-- The next block of a root's broadcast, from the committed master; none where its port takes no fold flit. -/
def State.castGo (s : State) (e p : Nat) (c : FCast) : Option State :=
  let kids := c.upd.kids
  if c.upd.blocks ≤ c.next ∨ (!kids.isEmpty && !s.canTx e 2) = true then none
  else
    let q := s.readVa .store false ⟨p, s.activeCtx p, none, e / 2, 0, false⟩ (nbits (c.upd.master + 256 * c.next) 48 0) 256
    let es := (List.range 64).map fun i => (((convTo (16 * c.upd.bfmt) (fpAt q.1.data (4 * i))).1 : Nat) : Int)
    let b : FoldBlk := ⟨BitVec.ofNat 8 c.step, c.attempt, c.next, residueOf es, 0, bcastCode c.upd.bfmt, 0, es⟩
    let s1 := match q.2.bcastRx e p c.upd.tensor with
      | some r => (q.2.bcastWrite e p r b).bcastCount e p c.upd.tensor c.upd.blocks c.step c.next
      | none => q.2
    let s2 := s1.each kids fun s k => s.foldSend e p 3 k c.upd.tensor b
    some (s2.modFpart e p fun f => { f with casts := f.casts.map fun x =>
      if x.upd.tensor = c.upd.tensor then { x with next := x.next + 1 } else x })

def State.castsGo (s : State) (e p tensor : Nat) : Nat → State
  | 0 => s
  | n + 1 =>
    match (s.fpart e p).casts.find? fun x => x.upd.tensor == tensor with
    | none => s
    | some c => match s.castGo e p c with
      | none => s
      | some t => t.castsGo e p tensor n

/-- The next block of the current entry is ready but for the parent's grant (R331). -/
def State.grantWaits (s : State) (e p : Nat) : Bool :=
  match s.foldCur e p with
  | none => false
  | some r =>
    let f := s.fpart e p
    let j := f.summed
    f.started && !f.failed && feOp r != 4 && decide (j < feBlocks r) && (feParent r).isSome && decide (f.granted ≤ j)
      && (feKids r).all fun k => f.held.any fun h => h.tensor == feTensor r && h.input == k.1 && h.blk.block == j

/-- Everything an engine can do for a partition now: blocks, broadcasts, grants. -/
def State.foldPump (s : State) (e p : Nat) : State :=
  if !s.running then s
  else
    let n := match s.foldCur e p with | some r => feBlocks r | none => 0
    let s1 := s.foldGo e p (n + 1)
    let s2 := s1.each ((s1.fpart e p).casts) fun s c => s.castsGo e p c.upd.tensor (c.upd.blocks - c.next + 1)
    (s2.foldGrant e p).modFpart e p fun f => { f with grantWait := s2.grantWaits e p }

/-! ### Commands -/

/-- The engine goes on to its next entry. -/
def State.foldNext (s : State) (e p : Nat) : State :=
  s.modFpart e p fun f => { f with cur := f.cur + 1, started := false, granted := 64, given := 64, summed := 0, written := 0, grantWait := false }

/-- An entry's SIG (R331). -/
def State.foldSig (s : State) (r : FoldEnt) : State :=
  if (feSig r).testBit 15 then s.addDc (nbits (feSig r) 12 6) (feSig r % 64) (byteFld r 30 1) true else s

/-- An entry may not start while a rewind discards its tensor (R336). -/
def State.tensorOut (s : State) (p tensor : Nat) : Bool :=
  match s.rewinding p with
  | some l => decide (l.tensorFirst ≤ tensor)
  | none => false

/-- FOLD_ENTRY_START (R331 to R333, R339): the next entry starts when its WAIT is met; at the fallback variant it signals at once
instead. On an entry that has started it sends what its window and credit now allow. -/
def execFoldEntryStart (engine p : Nat) (s : State) : Out :=
  let f := s.fpart engine p
  let x := s.ctx p
  if decide (16 ≤ engine) || !s.running then .next s
  else match s.foldCur engine p with
    | none => .next (s.foldPump engine p)
    | some r =>
      let w := feWait r
      let met := !w.testBit 15 || decide (byteFld r 26 2 ≤ s.dc (nbits w 12 6) (w % 64))
      if f.started || f.failed then .next (s.foldPump engine p)
      else if !x.bound || !x.running || x.frozen || x.coordLost || (x.fails.any fun q => q.1 == x.cur) || !met
          || s.tensorOut p (feTensor r) then .next s
      else if feOp r ≠ 4 ∧ s.foldWidth p r = none then .next (((s.foldSig r).foldNext engine p).progress (pgFOLD engine) 1)
      else
        let s1 := (s.modFpart engine p fun f => { f with started := true, granted := 64, given := 64, summed := 0, written := 0 }).progress (pgFOLD engine) 1
        let talks := !(feKids r).isEmpty || (feParent r).isSome
        if talks && feOp r != 4 && !s.portUp engine then .next (s1.foldFail engine p r (errLost 1) 0 s.moduleId)
        else .next (s1.foldPump engine p)

/-- A message's STEP, ATTEMPT and GEN are those of the partition's current attempt (R338). -/
def State.foldMatch (s : State) (m : FoldMsg) : Bool :=
  let x := s.ctx m.part
  x.bound && m.gen == (s.part m.part).gen && m.blk.step == BitVec.ofNat 8 x.cur && m.blk.attempt == x.attempt && x.running

def State.foldStale (s : State) (e : Nat) : State := s.bumpEv (pgFOLD e) 0x068 1

/-- Blocks an engine holds (FOLD.INFLIGHT). -/
def FoldSt.inflight (f : FoldSt) : Nat := (f.parts.map fun x => x.2.held.length).sum

/-- UP (R326, R330, R331): a child's block is held until every input of the block is there. An engine with no room withholds
credit, and a block at or past the window's end is not accepted. -/
def execUp (engine : Nat) (msg : FoldMsg) (s : State) : Out :=
  if decide (16 ≤ engine) || !s.running || !s.portUp engine then .next s
  else
    let p := msg.part
    let l := s.foldList p (s.ctx p).cur engine
    let hit := (l.drop (s.fpart engine p).cur).find? fun r => feTensor r == msg.tensor.toNat && feOp r != 4
    let stale := !s.foldMatch msg || s.tensorOut p msg.tensor.toNat
    let s1 := s.bump (pgFOLD engine) 0x040 1
    match (if stale then none else hit) with
    | none => .next (s1.foldStale engine)
    | some r =>
      match (feKids r).find? fun k => k.2 == msg.src with
      | none => .next (s1.foldStale engine)
      | some k =>
        let f := s.fpart engine p
        let isCur := s.foldCur engine p == some r && f.started
        let seen := f.held.any (fun h => h.tensor == feTensor r && h.input == k.1 && h.blk.block == msg.blk.block)
          || (isCur && decide (msg.blk.block < f.summed)) || decide (feBlocks r ≤ msg.blk.block)
        let n := (s.ctx p).cur
        if seen then .next (s1.foldStale engine)
        else if hdrCorrupt (s.foldScale p n (feTensor r) 24) (s.foldScale p n (feTensor r) 40) msg.blk then
          .next (s1.foldCorrupt engine p r msg.blk.block msg.src)
        else if 4096 ≤ (s.foldE engine).inflight ∨ (if isCur then f.summed + 64 else 64) ≤ msg.blk.block then .next s
        else .next (((s1.modFpart engine p fun f => { f with held := f.held ++ [⟨feTensor r, k.1, msg.blk⟩] }).progress (pgFOLD engine) 1).foldPump engine p)

/-- DOWN (R327, R331): a result block is checked, written and forwarded. -/
def execDown (engine : Nat) (msg : FoldMsg) (s : State) : Out :=
  if decide (16 ≤ engine) || !s.running || !s.portUp engine then .next s
  else
    let p := msg.part
    let f := s.fpart engine p
    let s1 := s.bump (pgFOLD engine) 0x040 1
    let stale := !s.foldMatch msg || s.tensorOut p msg.tensor.toNat
    match (if stale then none else s.foldCur engine p) with
    | none => .next (s1.foldStale engine)
    | some r =>
      if feTensor r ≠ msg.tensor.toNat ∨ feOp r ≠ 2 ∨ feParent r ≠ some msg.src ∨ f.failed ∨ feBlocks r ≤ msg.blk.block then .next (s1.foldStale engine)
      else if !f.started then .next s
      else
        let n := (s.ctx p).cur
        let kids := feKids r
        if hdrCorrupt (s.foldScale p n (feTensor r) 24) (s.foldScale p n (feTensor r) 40) msg.blk || sumCorrupt msg.blk then
          .next (s1.foldCorrupt engine p r msg.blk.block msg.src)
        else
          let s2 := if 8 ≤ msg.blk.width then s1.foldSatIn engine p r msg.blk.block else s1
          let q := s2.foldResult engine p r msg.blk.block msg.blk
          match q.1 with
          | some err => .next (q.2.foldFail engine p r err msg.blk.block msg.src)
          | none =>
            .next ((q.2.each kids fun s k => s.foldSend engine p 2 k.2 (feTensor r) msg.blk).progress (pgFOLD engine) 1)

/-- BCAST (R327, R343): a parameter block of the step that committed last, checked, written where the tensor's BCAST_RX entry
says, and forwarded. -/
def execBcast (engine : Nat) (msg : FoldMsg) (s : State) : Out :=
  if decide (16 ≤ engine) || !s.running || !s.portUp engine then .next s
  else
    let p := msg.part
    let x := s.ctx p
    let s1 := s.bump (pgFOLD engine) 0x040 1
    let last := match x.lastCommit with
      | some n => msg.blk.step == BitVec.ofNat 8 n && msg.gen == (s.part p).gen
      | none => false
    match (if last then s.bcastRx engine p msg.tensor.toNat else none) with
    | none => .next (s1.foldStale engine)
    | some r =>
      let kids := feKids r
      if (bcastFmt msg.blk.width).isNone || msg.blk.scale != 0 || sumCorrupt msg.blk then
        .next (s1.foldCorrupt engine p r msg.blk.block msg.src)
      else
        let s2 := (s1.bcastWrite engine p r msg.blk).bcastCount engine p (feTensor r) (feBlocks r) (x.lastCommit.getD 0) msg.blk.block
        .next ((s2.each kids fun s k => s.foldSend engine p 3 k.2 (feTensor r) msg.blk).progress (pgFOLD engine) 1)

/-- GRANT (R331). -/
def execGrant (engine p : Nat) (tensor : W32) (windowEnd : Nat) (s : State) : Out :=
  match s.foldCur engine p with
  | none => .next s
  | some r =>
    if decide (16 ≤ engine) || !s.running || !s.portUp engine || !(s.fpart engine p).started || feTensor r != tensor.toNat then .next s
    else .next ((s.modFpart engine p fun f => { f with granted := max f.granted windowEnd }).foldPump engine p)

/-- A message is an UP block of a fold engine. -/
def isUp : Msg → Bool
  | .fold _ _ k _ => k == 1
  | _ => false

/-- UP blocks that an engine has handed its port for a partition and that await acknowledgement (R340). -/
def State.foldUnacked (s : State) (e p : Nat) : Nat :=
  let q := s.port e
  (q.replay.filter fun f => f.own == p && f.msg.any isUp).length + ((q.lane 2).filter fun f => f.own == p && f.msg.any isUp).length

/-- The current entry has done all that its node does (R331, R341, R344). -/
def State.foldOver (s : State) (e p : Nat) (r : FoldEnt) : Bool :=
  let f := s.fpart e p
  let n := feBlocks r
  let sentAll := (decide (n ≤ f.summed) || (!feLocal r && (feKids r).isEmpty)) && s.foldUnacked e p == 0
  match feOp r with
  | 1 => if (feParent r).isSome then sentAll else decide (n ≤ f.written)
  | 2 => decide (n ≤ f.written)
  | 3 => if (feParent r).isSome then sentAll else decide (n ≤ f.summed)
  | _ =>
    let t := feTensor r
    match (s.ctx p).updates.find? fun x => x.1 == t with
    | some x => f.bcastDone.any fun d => d.1 == t && d.2 == x.2
    | none => Tbl.get 0 f.bcastGot t == 0

/-- FOLD_ENTRY_COMPLETE (R331, R344): the entry signals SIG, and the engine goes on to the next. -/
def execFoldEntryComplete (engine p : Nat) (s : State) : Out :=
  match s.foldCur engine p with
  | none => .next s
  | some r =>
    let f := s.fpart engine p
    whenOk (decide (engine < 16) && s.running && f.started && !f.failed && s.foldOver engine p r)
      (((s.foldSig r).foldNext engine p).progress (pgFOLD engine) 1) s

/-! ### Edges, rewinds, lost links -/

/-- A port went down: an entry in progress on its engine ends (R339). -/
def State.foldPortDown (s : State) (e : Nat) : State :=
  s.each (List.range 32) fun s p =>
    let f := s.fpart e p
    match s.foldCur e p with
    | some r => if f.started && !f.failed then s.foldFail e p r (errLost 1) f.summed s.moduleId else s
    | none => s

/-- What stays of an engine's part over an edge. -/
def FoldPart.clear (f : FoldPart) : FoldPart :=
  { FoldPart.zero with casts := f.casts, bcastDone := f.bcastDone, bcastGot := f.bcastGot }

/-- A commit edge (R342, R343): updates become current and their broadcasts start. -/
def State.foldCommit (s : State) (p n : Nat) : State :=
  let tensors := (List.range 16).flatMap fun e => ((s.foldList p n e).filter fun r => feOp r == 3).map feTensor
  let at_ := (s.ctx p).attempt
  let s0 := s.modCtx p fun x => { x with updates := tensors.foldl (fun u t => Tbl.set u t n) x.updates }
  s0.each ((List.range 16).filter fun e => (s.foldE e).parts.any fun x => x.1 == p) fun s e =>
    let us := (s.fpart e p).upds
    let s1 := s.each us fun s u => s.each u.writes fun s w => (s.writeVa .store false ⟨p, s.activeCtx p, none, e / 2, 0, false⟩ w.1 w.2).2
    s1.modFpart e p fun f =>
      { f.clear with casts := us.map (fun u => ⟨u, n, at_, 0⟩),
                     bcastGot := f.bcastGot.filter fun x => !tensors.contains x.1 }

/-- A repeat or abandon edge (R338, R343): everything of the discarded attempt goes; at a repeat of the following step a root sends
its last broadcast again. -/
def State.foldDiscard (s : State) (p : Nat) : State :=
  s.each ((List.range 16).filter fun e => (s.foldE e).parts.any fun x => x.1 == p) fun s e => s.modFpart e p fun f =>
    { f.clear with casts := f.casts.map fun c => { c with next := 0 } }

/-- A rewind discards the tensors from `tensor` on, and schedules go back to the layer's first entry (R282, R336). -/
def State.foldRewind (s : State) (p rank tensor : Nat) : State :=
  let n := (s.ctx p).cur
  let ls := s.layersOf p n
  (s.each ((List.range 16).filter fun e => (s.foldE e).parts.any fun x => x.1 == p) fun s e =>
    let i := (s.foldList p n e).findIdx fun r => decide (rank ≤ layerRank ls (feLayer r))
    s.modFpart e p fun f =>
      let g := { f with held := f.held.filter (fun h => decide (h.tensor < tensor)), upds := f.upds.filter fun u => decide (u.tensor < tensor) }
      if i ≤ f.cur then { g with cur := i, started := false, failed := false, granted := 64, given := 64, summed := 0, written := 0, grantWait := false } else g).modCtx p
    fun x => { x with heldOut := x.heldOut.filter fun y => !(y.fold && y.step == n && decide (tensor ≤ y.key)) }

end Sys2Proof.Machine
end

