-- ==== Sys2Proof/Machine/Elren.lean ====
section
/-! DEFINITION. Machine/Elren.lean: the Elren ports: flits in, training, links down, remote requests and responses, laser sources
(R298 to R319). -/

namespace Sys2Proof.Machine

open Sys2Proof

/-! ### Answers to this module's requests (R187, R313, R316) -/

/-- A response, or the loss of its link, reaches the mover that asked: data goes to its place in the descriptor's buffer, and the
descriptor goes on. -/
def State.moverAnswer (s : State) (t id : Nat) (q : OutReq) (r : Except Err RemResp) : State :=
  let seg := q.put / 4096
  match r with
  | .error e => s.modDesc t id (MDesc.fail e seg)
  | .ok (.refusal sub) => s.modDesc t id (MDesc.fail (errLost sub.toNat) seg)
  | .ok .remoteFault => s.modDesc t id (MDesc.fail (errXlat 4) seg)
  | .ok .ack => s.mvGo t id 5
  | .ok (.data b bad) =>
    (s.modDesc t id fun d =>
      let d1 := { d with buf := Tbl.set d.buf q.put (b, bad) }
      if bad = [] then d1 else d1.note errUncorr seg).mvGo t id 5

/-- A program that has halted is done once its remote stores are (R115). -/
def State.haltDone (s : State) (k j : Nat) : State :=
  if (s.pipe k j).running || (s.pipe k j).remote != 0 then s
  else match (s.execs k (5 + j)).getLast? with
    | some x => if x.done then s else s.finish k (5 + j) none
    | none => s

/-- The same for a scalar pipe: data goes to the register, an atomic counts its OVERFLOW and makes its acquire (R177, R185), an error
ends the program, which may have halted since. An answer that an earlier program asked for changes nothing else. -/
def State.pipeAnswer (s : State) (k : Nat) (q : OutReq) (r : Except Err RemResp) : State :=
  let j := q.pipe
  let p := s.pipe k j
  let s0 := s.modPipe k j fun p => { p with remote := p.remote - 1 }
  if q.put ≠ p.prog then s0.haltDone k j
  else
    let s1 := if q.isRead then s0.modPipe k j fun p => { p with wait := .none } else s0
    let open_ := ((s.execs k (5 + j)).getLast?).any fun x => !x.done
    let fail := fun (e : Err) => if open_ then s1.scFail k j ⟨e, p.pc⟩ else s1
    match r with
    | .error e => fail e
    | .ok (.refusal sub) => fail (errLost sub.toNat)
    | .ok .remoteFault => fail (errXlat 4)
    | .ok .ack => s1.haltDone k j
    | .ok (.data b bad) =>
      if !q.isRead || !p.running then s1.haltDone k j
      else if bad ≠ [] then fail errUncorr
      else
        let v := ofLe (b.take (if q.half then 4 else 8))
        let s2 := s1.setGpr k j (BitVec.ofNat 5 p.dest) (BitVec.ofNat 64 v)
        match q.atom with
        | none => s2
        | some (fn, o, c) =>
          let n := atomW fn.toNat
          let ev := ((atomNew (fn.toNat % 16) n v (o.toNat % 2 ^ n) (c.toNat % 2 ^ n)).map (·.2)).getD 0
          let s3 := s2.bumpEv (pk tVEC k) 0x068 ev
          if atomAcq fn.toNat then s3.acquireAt k (atomScope fn.toNat) else s3

/-- Whoever made a request learns what became of it: a DISPATCH only that a record is lost (R272). -/
def State.answer (s : State) (q : OutReq) (r : Except Err RemResp) : State :=
  match q.who with
  | .port k _ => s.pipeAnswer k q r
  | .mover t id => s.moverAnswer t id q r
  | .txu c id =>
    (match s.topOp c id, r with
    | some o, .error e => s.topDone c o (some e)
    | some o, .ok (.refusal sub) => s.topDone c o (some (errLost sub.toNat))
    | _, _ => s)
  | _ => s

/-! ### Link state (R312 to R314) -/

/-- Responses that a port holds unsent or unacknowledged. -/
def PortSt.responses (p : PortSt) : Nat :=
  (p.replay.filter fun f => f.msg.isSome && bits f.flit 33 32 == 1).length + ((p.lane 1).filter fun f => f.msg.isSome).length

/-- A port goes down (R313): what it had asked completes with LINK_DOWN, the responses it can no longer send are discarded and
counted, the replay buffer and its lanes are emptied, fold entries on it end. -/
def State.portDown (s : State) (e cause : Nat) : State :=
  let p := s.port e
  let lost := p.responses
  let s1 := s.modPort e fun p =>
    { p with st := .down, outReqs := [], replay := [], txq := [], replayAsked := false, replays := 0, trained := false, downCause := cause,
             downs := p.downs + 1 }
  let s2 := s1.each p.outReqs fun s q => (s.answer q (.error (errLost 1))).peerLost e q.dst 1
  let s3 := if lost = 0 then s2 else s2.bumpHi (pgEl e) 0x0A0 lost
  ((s3.foldPortDown e).raise (pgEl e) 1).debugEvent 13 0

/-- LINK_DOWN (R313): FEC lock lost (cause 1), one LSEQ replayed 16 times (2), silence (3), another peer (5). -/
def execLinkDown (port cause : Nat) (s : State) : Out :=
  let ok := cause == 1 || cause == 3 || cause == 5 || (cause == 2 && decide (16 ≤ (s.port port).replays))
  whenOk (s.up && decide (port < 16) && s.portUp port && ok) (s.portDown port cause) s

/-- Wavelengths of a half. -/
def halfMask (upper : Bool) : W16 := if upper then 0xFF00 else 0x00FF

/-- LINK_TRAINING (R312, R314): wavelengths that locked by 100 µs, and the width they allow. Where both halves have a failed one
the port stays down. -/
def execLinkTraining (port : Nat) (locked : W16) (s : State) : Out :=
  let ctrl := s.rg (pgEl port) 0x200
  if !s.up || decide (16 ≤ port) || s.portUp port || !bitOf ctrl 0 then .next s
  else
    let bad := ~~~locked
    let full := bad == 0 && !bitOf ctrl 2
    let half := [false, true].find? fun u => bad &&& halfMask u == 0
    match full, half with
    | true, _ =>
      .next (s.modPort port fun p => { p with st := .training, trained := false, trainStart := s.time.mono, half := false, upperHalf := false,
                                                wlUse := 0xFFFF, wlFail := bad })
    | false, some u =>
      .next ((s.modPort port fun p => { p with st := .training, trained := false, trainStart := s.time.mono, half := true, upperHalf := u,
                                                 wlUse := halfMask u, wlFail := bad }).raise (pgEl port) 2)
    | false, none => .next (s.modPort port fun p => { p with st := .down, trained := false, wlUse := 0, wlFail := bad, downCause := 6 })

/-- TRAIN (R308, R312, Table 14.5): the exchange of TRAIN flits, then the link key check: a link key set since the last training
is taken up, and its counter starts anew (R306, R372). A module without an ID goes no further
than the exchange; a failed check starts training again. -/
def execTrain (port : Nat) (peer : W16) (peerPort : Nat) (isSwitch keyOk : Bool) (s : State) : Out :=
  if !s.up || decide (16 ≤ port) || (s.port port).st != .training then .next s
  else
    let id := s.moduleId
    let s1 := (s.modPort port fun p => { p with peer := if isSwitch then 0xFFFF else peer, peerPort := peerPort % 16, isSwitch := isSwitch,
                                                  ownId := id }).send (.train port)
    if id = 0xFFFF then .next s1
    else
      let g := s.sec.linkKeyGen
      let s2 := s1.modPort port fun p => { p with fctr := Tbl.set p.fctr 128 (if p.keyGen = g then Tbl.get 0 p.fctr 128 + 1 else 1), keyGen := g }
      if keyOk then .next (s2.modPort port fun p => { p with trained := true, linkKeyOk := true })
      else .next (s2.modPort port fun p => { p with trained := false, linkKeyOk := false, trainStart := s.time.mono, downCause := 7 })

/-- LINK_UP (R301, R312): LSEQ 0, 1,024 credits a lane, flow counters going on. -/
def execLinkUp (port : Nat) (s : State) : Out :=
  let p := s.port port
  if !s.up || decide (16 ≤ port) || p.st != .training || !p.trained then .next s
  else
    let s1 := s.modPort port fun p =>
      { p with st := .up, rxSeq := 0, txSeq := 0, replay := [], txq := [], replayAsked := false, replays := 0, owed := [],
               credits := [(0, 1024), (1, 1024), (2, 1024), (3, 1024)],
               peerChanged := (match p.lastPeer with | some x => x != p.peer | none => false), lastPeer := some p.peer }
    .next ((s1.raise (pgEl port) 0).debugEvent 13 0)

/-- TRAINING_TIMEOUT (R312): training not complete within 2 ms starts again. -/
def execTrainingTimeout (port : Nat) (s : State) : Out :=
  let p := s.port port
  whenOk (s.up && decide (port < 16) && p.st == .training && decide (p.trainStart + 2000000 ≤ s.time.mono))
    (s.modPort port fun p => { p with trained := false, trainStart := s.time.mono, downCause := 6 }) s

/-- A bit of ELREN.CTRL written. -/
def State.elrenCtrl (s : State) (e i : Nat) (v : Bool) : State :=
  let w := s.rg (pgEl e) 0x200
  s.setRg (pgEl e) 0x200 (if v then setBit w i else clrBit w i)

/-- ELREN_ENABLE (R312, R313). -/
def execElrenEnable (port : Nat) (v : Bool) (s : State) : Out :=
  if !s.up || decide (16 ≤ port) then .next s
  else
    let s1 := s.elrenCtrl port 0 v
    if v then .next s1
    else if s.portUp port then .next (s1.portDown port 4)
    else .next (s1.modPort port fun p => { p with st := .down, trained := false })

/-- ELREN_FENCE (R315): a port no longer fenced sends what its lanes hold. -/
def execElrenFence (port : Nat) (v : Bool) (s : State) : Out :=
  whenOk (s.up && decide (port < 16)) ((s.elrenCtrl port 1 v).pumpPort port) s

/-- FORCE_HALF (R314): it takes effect at the next training. -/
def execForceHalf (port : Nat) (v : Bool) (s : State) : Out :=
  whenOk (s.up && decide (port < 16)) (s.elrenCtrl port 2 v) s

/-! ### Flits in (R299 to R301, R307, R308) -/

/-- A flit that is not taken: the port asks once for a replay from the LSEQ it expects. -/
def State.askReplay (s : State) (e : Nat) : State :=
  let p := s.port e
  if p.replayAsked then s
  else ((s.bumpHi (pgEl e) 0x088 1).modPort e fun p => { p with replayAsked := true }).send (.replayReq e p.rxSeq)

/-- LSEQ of a flit. -/
def flitSeq (f : Flit) : Nat := byteFld f 16 4

/-- A RESULT record whose last flit is acknowledged has been accepted (R261). -/
def State.accepted (s : State) (f : SentFlit) : State :=
  match f.msg with
  | some (.txu _ _ h _ _ c num) => if rhKind h = 2 then s.modTop c num fun o => { o with acked := o.acked + 1 } else s
  | _ => s

/-- ACK of a flit's LINK field: flits up to it leave the replay buffer. An ACK for the flit before the oldest that awaits one asks
for a replay (log entry 35). -/
def State.takeAck (s : State) (e ack : Nat) : State :=
  let p := s.port e
  match p.replay.findIdx? fun f => flitSeq f.flit % 2 ^ 20 == ack with
  | some i => (s.modPort e fun p => { p with replay := p.replay.drop (i + 1), replays := 0 }).each (p.replay.take (i + 1)) State.accepted
  | none =>
    match p.replay with
    | [] => s
    | f :: _ =>
      if (flitSeq f.flit + 2 ^ 20 - 1) % 2 ^ 20 = ack then
        (s.modPort e fun p => { p with replays := p.replays + 1 }).send (.replay e (p.replay.map (·.flit)))
      else s

/-- FLIT_RECEIVE: error correction, CRC, order, acknowledgement and credit, with which waiting flits go; destination, tag. -/
def execFlitReceive (port : Nat) (flit : Flit) (fec : FecRes) (crcOk tagOk : Bool) (s : State) : Out :=
  if !s.up || decide (16 ≤ port) || !s.portUp port then .next s
  else match fec with
    | .uncorrectable => .next ((s.bumpHi (pgEl port) 0x080 1).askReplay port)
    | .good n =>
      let s1 := if n = 0 then s else s.bump (pgEl port) 0x080 n
      if !crcOk then .next ((s1.bump (pgEl port) 0x088 1).askReplay port)
      else if flitSeq flit ≠ (s1.port port).rxSeq.toNat then .next (s1.askReplay port)
      else
        let lane := bits flit 33 32
        let s2 := (s1.bump (pgEl port) (0x060 + 8 * lane) 1).takeAck port (bits flit 179 160)
        let back := bits flit 181 180
        let s3 := (s2.modPort port fun p =>
          { p with rxSeq := p.rxSeq + 1, replayAsked := false,
                   credits := Tbl.set p.credits back (min 1024 (Tbl.get 0 p.credits back + bits flit 191 182)),
                   owed := Tbl.set p.owed lane (Tbl.get 0 p.owed lane + 1) }).pumpPort port
        if byteFld flit 0 2 ≠ (s3.port port).ownId.toNat then .next (s3.bumpHi (pgEl port) 0x090 1)
        else if !tagOk then .next ((s3.bump (pgEl port) 0x090 1).raise (pgEl port) 3)
        else .next s3

/-! ### Requests from other modules (R187, R303, R315) -/

/-- What the home does with a request it serves, and its answer. Poison goes with the data both ways (log entry 36). -/
def State.serveRemote (s : State) (e : Nat) (h : RemHdr) (op : RemOp) : RemResp × State :=
  let p := h.dpart
  let a : Acc := ⟨p, s.activeCtx p, none, e / 2, 0, false⟩
  match op with
  | .read va n =>
    let q := s.readVa .store false a va n
    if q.1.err.isSome then (.remoteFault, q.2) else (.data q.1.data q.1.bad, q.2)
  | .write va b bad =>
    match s.rangeFail p a.ctx va b.length true with
    | some _ => (.remoteFault, s)
    | none =>
      (.ack, (s.writeVa .store false a va b).2.each (bad.map fun o => (va + o) / 64 * 64).eraseDups fun s g =>
        match s.lookupFor .store p a.ctx g true with
        | .ok _ pa => s.poisonGranules [pa]
        | .bad _ => s)
  | .atom va fn opnd cmp =>
    let w := atomW fn.toNat
    match s.rangeFail p a.ctx va (w / 8) true with
    | some _ => (.remoteFault, s)
    | none =>
      let q := s.readVa .store false a va (w / 8)
      if q.1.err.isSome then (.remoteFault, q.2)
      else if q.1.bad ≠ [] then (.data q.1.data q.1.bad, q.2)
      else match atomNew (fn.toNat % 16) w (ofLe q.1.data) (opnd.toNat % 2 ^ w) (cmp.toNat % 2 ^ w) with
      | none => (.remoteFault, q.2)
      | some v =>
        let pa := match q.2.lookupFor .store p a.ctx va true with | .ok _ x => x | .bad _ => 0
        let s1 := q.2.bump (pk tSTORE (sliceOf pa)) 0x078 1
        (.data q.1.data [], match v.1 with
          | some n => (s1.writeVa .store false a va (leBytes (w / 8) n)).2
          | none => s1)

/-- REMOTE_REQUEST (R303, R315): refused by a fenced port, for a partition that is not bound or is being torn down, or where it did
not authenticate; else served. Its response never waits for a request, and it never waits for credit. -/
def execRemoteRequest (port : Nat) (hdr : RemHdr) (op : RemOp) (s : State) : Out :=
  let p := hdr.dpart
  if !s.running || decide (16 ≤ port) || !s.portUp port || decide (32 ≤ p) then .next s
  else if !s.portFenced port && !hdr.authOk then .next (s.respond port hdr (.refusal 4))
  else if s.refuses port p then .next (s.respond port hdr (.refusal 3))
  else let r := s.serveRemote port hdr op
       .next (r.2.respond port hdr r.1)

/-- REMOTE_RESPONSE (R187, R189, R316): to whoever asked; under an old generation dropped and counted. -/
def execRemoteResponse (port tag : Nat) (gen : Byte) (resp : RemResp) (s : State) : Out :=
  if !s.up || decide (16 ≤ port) || !s.portUp port then .next s
  else match (s.port port).outReqs.find? fun q => q.tag == tag with
    | none => .next s
    | some q =>
      let s1 := s.modPort port fun p => { p with outReqs := removeFirst (fun x => x.tag == tag) p.outReqs }
      if gen ≠ (s.part q.part).gen ∨ q.gen ≠ gen then
        let s2 := s1.bump (pgEl port) 0x098 1
        .next (match q.who with | .mover t id => s2.mvOver t id | _ => s2)
      else
        let s2 := s1.answer q (.ok resp)
        .next (match resp with | .refusal sub => s2.peerLost port q.dst sub.toNat | _ => s2)

/-! ### Laser source units (R318, R319) -/

/-- LSU_FAIL (R318): LSU_A, or LSU_B where `b`; the other takes the whole load. -/
def execLsuFail (b : Bool) (s : State) : Out :=
  whenOk s.up (({ s with lsu := if b then { s.lsu with bGood := false } else { s.lsu with aGood := false } }).raise (pgEl 0) 5) s

/-- LSU_CTRL (R319): a unit that is enabled again has been replaced by a good one (log entry 37). -/
def execLsuCtrl (v : BitVec 2) (s : State) : Out :=
  let old := s.rg (pgEl 0) 0x310
  if !s.up then .next s
  else
    let on := fun i => v.getLsbD i && !bitOf old i
    let s1 := ({ s with lsu := ⟨s.lsu.aGood || on 0, s.lsu.bGood || on 1⟩ }).setRg (pgEl 0) 0x310 (v.zeroExtend 64)
    .next (if old = v.zeroExtend 64 then s1 else s1.raise (pgEl 0) 5)

end Sys2Proof.Machine
end

