-- ==== Sys2Proof/Machine/Edge.lean ====
section
/-! DEFINITION. Machine/Edge.lean: binding a step context, attempts, status beacons, the coordinator's decisions, and what every
block does at a step edge (R30 to R53, R118, R201, R206, R216 to R219, R226, R377, R450). -/

namespace Sys2Proof.Machine

open Sys2Proof

/-! ### Binding (R30, R40, R450) -/

/-- The values BIND checks lie in the ranges of R30. -/
def State.bindOk (s : State) (p : Nat) : Bool :=
  let m := bits (s.rg pgTIME (ctxOff p + 0x10)) 9 0
  decide (1 ≤ s.maxRepeat p ∧ s.maxRepeat p ≤ 15) && decide (2 ≤ m ∧ m ≤ 1000)

/-- BIND: ignored while the context is bound or unbinding; out of range, counted. Otherwise the context takes part in its job
afresh from step 0. -/
def execBind (p : Nat) (s : State) : Out :=
  let c := s.ctx p
  if !s.up || decide (32 ≤ p) || c.bound || c.unbinding then .next s
  else if !s.bindOk p then .next (s.countErr pgTIME)
  else
    let s1 := s.modCtx p fun c => { CtxSt.zero with bound := true, lastEdge := c.lastEdge }
    .next (s1.modCoord p fun _ => { CoordSt.zero with prevEdge := s.time.now })

/-- UNBIND: the context reads unbinding until it has no undecided step. -/
def execUnbind (p : Nat) (s : State) : Out :=
  whenOk (s.up && decide (p < 32) && (s.ctx p).bound && !(s.ctx p).unbinding) (s.modCtx p fun c => { c with unbinding := true }) s

/-- A placed or running launch of the partition: a step not decided. -/
def State.liveLaunch (s : State) (p : Nat) : Bool := s.ents.any fun e => e.part == p && (e.st == .placed || e.st == .running)

/-- UNBIND_EFFECT: no undecided step is left. COORD_LOST and LAST_EDGE stay until BIND and the next edge. With every context
unbound, an UNSYNCED module with a valid source passes to ACQUIRING (Table 2.3). -/
def execUnbindEffect (p : Nat) (s : State) : Out :=
  let c := s.ctx p
  if !s.up || !c.unbinding || s.liveLaunch p then .next s
  else
    let s1 := (s.modCtx p fun c => { CtxSt.zero with coordLost := c.coordLost, lastEdge := c.lastEdge }).modCoord p fun _ => CoordSt.zero
    .next (if s1.time.lock = .unsynced ∧ s1.anyBound = false ∧ s1.role ≠ 1 ∧ s1.sourceLost = false then s1.setLock .acquiring else s1)

/-! ### Attempts (R33, R46, R48, R100) -/

/-- The start of the slot of the attempt to run, and the plan's slot length in ns; none while no launch is placed for the step or
no slot is announced. -/
def State.slotOf (s : State) (p : Nat) : Option (Entry × Plan × Nat) :=
  let c := s.ctx p
  match s.stepLaunch p c.cur with
  | none => none
  | some e =>
    match s.planOf p e.planH with
    | none => none
    | some q =>
      match c.slotNum, c.slotStart with
      | some n, _ => some (e, q, slotAt (s.epoch p) q.slotUs n)
      | none, some t => some (e, q, t.toNat)
      | none, none => none

/-- The clusters a launch runs on: the first CLUSTERS of its partition (R215). -/
def State.launchClusters (s : State) (p : Nat) (q : Plan) : List Nat := (s.clustersOf p).take q.clusters

/-- Every fold engine of a partition sends what its window and credit allow. -/
def State.foldPumpAll (s : State) (p : Nat) : State :=
  s.each ((List.range 16).filter fun e => (s.foldE e).parts.any fun x => x.1 == p) fun s e => s.foldPump e p

/-- Triggers that the step raised while it ran ahead are asked for (log entry 38). -/
def State.askHeld (s : State) (p : Nat) : State :=
  let l := (s.ctx p).askLater.filter fun x => x.1 == (s.ctx p).cur
  s.each l fun s x => (s.modCtx p fun c => { c with askLater := c.askLater.filter (· != x) }).askWiden p x.2.1 x.2.2

/-- ATTEMPT_START: at the slot's start, or at once where the decision or the placement came later. A cluster that has run ahead in
the step goes on; on the others the attempt begins. -/
def execAttemptStart (p : Nat) (s : State) : Out :=
  let c := s.ctx p
  match s.slotOf p with
  | none => .next s
  | some (e, q, t) =>
    if !s.running || !c.bound || c.coordLost || c.frozen || c.running || c.pend.isSome || decide (s.now < t) || decide (t < c.rejoinAt.toNat) then .next s
    else
      let first := (c.firstStart.getD (BitVec.ofNat 64 t))
      let s1 := (s.modCtx p fun c => { c with running := true, slotStart := some (BitVec.ofNat 64 t) }).modEnt e.uid fun e =>
        { e with st := .running, start := first }
      let s2 := s1.each (s1.launchClusters p q) fun s k =>
        if (s.seq k).begun then s
        else (s.beginOn k).modSeq k fun q => { q with begun := true, placing := true, nextOff := 0, bucket := e.bucket, runAheadDepth := 0 }
      .next ((s2.foldPumpAll p).askHeld p)

/-! ### Status beacons (R34, R35, R267) -/

/-- A status beacon (Table 2.4). -/
def statusMsg (job : Nat) (modId : W16) (p : Nat) (gen : Byte) (ready : Bool) (cause step attempt : Nat) (sent : W64) : Msg32 :=
  pack 256 [bfld 0 2 job, bfld 2 2 modId.toNat, bfld 4 1 p, bfld 5 1 gen.toNat, bfld 6 1 (if ready then 2 else 1),
    bfld 7 1 (if ready then 0 else cause), bfld 8 8 step, bfld 16 1 attempt, bfld 24 8 sent.toNat]

/-- No engine of the partition holds an operation of a step: cores, mover, KPM, TXUs and fold engines (R34). -/
def State.stepRetired (s : State) (p n : Nat) : Bool :=
  (s.coresOf p).all (fun k => (s.core k).queues.all (fun e => e.2.all fun q => q.step != n)
      && (s.core k).exec.all fun e => e.2.all fun x => x.stale || x.q.step != n)
    && s.movers.all (fun m => m.2.descs.all fun d => isSteward d || d.noSignal || d.part != p || d.step != n)
    && s.kpms.all (fun m => m.2.ops.all fun o => o.stale || o.part != p || o.step != n)
    && s.txus.all (fun t => t.2.ops.all fun o => o.part != p || o.step != n)
    && (List.range 16).all fun e => decide ((s.foldList p n e).length ≤ (s.fpart e p).cur)

/-- The step's layer is rerunning, or is to rerun, in a wider variant here (R281). -/
def CtxSt.rewinds (c : CtxSt) : Bool := c.widening || (match c.rewind with | some r => !r.absent | none => false)

/-- A coordinator holds a participant's latest beacon of the current step and attempt (R35). -/
def State.takeBeacon (s : State) (p : Nat) (m : Msg32) : State :=
  let k := s.coord p
  let md : W16 := BitVec.ofNat 16 (byteFld m 2 2)
  let pt := byteFld m 4 1
  let gen : Byte := BitVec.ofNat 8 (byteFld m 5 1)
  let sent := byteFld m 24 8
  let ready := byteFld m 6 1 == 2
  let b : Beacon := ⟨md, pt, gen, gen, ready, if ready then 0 else byteFld m 7 1, BitVec.ofNat 64 sent⟩
  let same := fun (x : Beacon) => x.module == md && x.part == pt
  let upd := fun (x : Beacon) => if sent < x.sent.toNat then x else { b with firstGen := x.firstGen }
  if !s.isCoord p || !k.open_ || byteFld m 8 8 != k.step || byteFld m 16 1 != k.attempt then s
  else s.modCoord p fun k =>
    { k with beacons := if k.beacons.any same then replaceFirst same upd k.beacons else k.beacons ++ [b] }

/-- A context's oldest undecided step is ready to be decided: its streams are done, every record has retired, and no rewind is open. -/
def State.saysReady (s : State) (p : Nat) : Bool :=
  let c := s.ctx p
  s.streamsDone p c.cur && s.stepRetired p c.cur && !c.rewinds

/-- STATUS_BEACON_SEND: WORKING or READY for the oldest undecided step, from the start of the attempt to its decision. A failed
attempt, a partition in reset, and a module that is UNLOCKED or UNSYNCED send none. READY says that every record of the step is
placed and has retired, and that no engine of the partition holds an operation of it. -/
def execStatusBeaconSend (p : Nat) (ready : Bool) (s : State) : Out :=
  let c := s.ctx p
  if !s.running || !c.bound || !c.running || c.coordLost || c.frozen || c.pend.isSome || (s.stepLaunch p c.cur).isNone
      || c.fails.any (fun f => f.1 == c.cur) || s.time.lock == .unlocked || s.time.lock == .unsynced || ready != s.saysReady p then .next s
  else
    let cause := if c.rewinds then 2 else if s.txuExpert p then 1 else 0
    let m := statusMsg (s.jobId p) s.moduleId p (s.part p).gen ready cause c.cur c.attempt s.time.now
    let s1 := (s.modCtx p fun c => { c with saidExpert := !ready && cause == 1 }).send (.job p m)
    .next (s1.takeBeacon p m)

/-- The context of this module that coordinates a job. -/
def State.coordOf (s : State) (job : Nat) : Option Nat := (List.range 32).find? fun p => s.isCoord p && s.jobId p == job

/-- The context of this module that takes part in a job. -/
def State.partOf (s : State) (job : Nat) : Option Nat := (List.range 32).find? fun p => (s.ctx p).bound && s.jobId p == job

/-- STATUS_BEACON_RECEIVE. -/
def execStatusBeaconReceive (msg : Msg32) (s : State) : Out :=
  let typ := byteFld msg 6 1
  match s.coordOf (byteFld msg 0 2) with
  | none => .next s
  | some p => whenOk (s.up && (typ == 1 || typ == 2)) (s.takeBeacon p msg) s

/-! ### Decisions (R36 to R38, R41, R206) -/

/-- A participant is absent (R35): no beacon of the attempt sent within the preceding 4 µs, or one of a new generation. -/
def State.absent (s : State) (p : Nat) (m : W16 × Nat) : Bool :=
  match (s.coord p).beacons.find? fun b => b.module == m.1 && b.part == m.2 with
  | none => true
  | some b => decide (b.sent.toNat + 4000 < s.now) || b.gen != b.firstGen

/-- A participant is ready (R36, R284). -/
def State.readyAt (s : State) (p : Nat) (m : W16 × Nat) : Bool :=
  !s.absent p m && (s.coord p).order.isNone &&
    match (s.coord p).beacons.find? fun b => b.module == m.1 && b.part == m.2 with
    | none => false
    | some b => b.ready && (match (s.coord p).lastResume with | some t => decide (t < b.sent) | none => true)

/-- A present participant reports WORKING with cause EXPERT. -/
def State.expertAt (s : State) (p : Nat) (m : W16 × Nat) : Bool :=
  !s.absent p m && (s.coord p).beacons.any fun b => b.module == m.1 && b.part == m.2 && !b.ready && b.cause == 1

/-- COORDINATOR_DECIDE (R36): `members` are the job's participants besides the coordinator; how a coordinator knows them the spec
does not say. -/
def execCoordinatorDecide (p : Nat) (members : List (W16 × Nat)) (s : State) : Out :=
  let k := s.coord p
  if !s.up || !s.isCoord p || !k.open_ then .next s
  else
    let ms := (s.moduleId, p) :: members
    let slotEnd := k.slotStart.toNat + 1000 * k.slotUs
    let edge := s.now + s.marginNs p
    if ms.all (s.readyAt p) ∧ slotEnd ≤ edge then
      let e : W64 := BitVec.ofNat 64 (max slotEnd edge)
      .next ((s.modCoord p fun k => { k with open_ := false, order := none, resume := none, lateExpert := false }).sendDecision p
        ⟨.commit, k.step, k.attempt, 0, e, 0, 0⟩)
    else if slotEnd + 1000 * k.allowUs ≤ s.now then
      let missing := ms.any (s.absent p)
      let reason := if missing then 2 else 1
      let s1 := s.modCoord p fun k => { k with order := none, resume := none, lateExpert := !missing && ms.any (s.expertAt p) }
      if k.attempt = s.maxRepeat p ∨ (s.gfe.level = 1 ∧ missing = false) then
        .next ((s1.modCoord p fun k => { k with open_ := false }).sendDecision p
          ⟨.abandon, k.step, k.attempt, reason, BitVec.ofNat 64 edge, 0, 0⟩)
      else
        let n := slotFrom (s.epoch p) k.slotUs edge
        let a := min (2 * k.allowUs) (8 * k.slotUs)
        let s2 := s1.modCoord p fun k =>
          { k with attempt := k.attempt + 1, slotStart := BitVec.ofNat 64 (slotAt (s.epoch p) k.slotUs n), allowUs := a, beacons := [],
                   positions := [], drained := [], lastResume := none, seq := 0 }
        .next (s2.sendDecision p ⟨.rpt, k.step, k.attempt, reason, BitVec.ofNat 64 edge, n, a⟩)
    else .next s

/-! ### What every block does at an edge (R45, Table 2.6) -/

/-- Bytes put at a partition virtual address, with the offsets of poisoned words. -/
def State.putBytes (s : State) (p va : Nat) (b : Bytes) (bad : List Nat) : State :=
  let s1 := (s.writeVa .store false ⟨p, s.activeCtx p, none, 0, 0, false⟩ va b).2
  s1.each bad fun s o => match s.lookup p (s.activeCtx p) (va + o) false with
    | .ok _ pa => s.poisonWord (pa / 8 * 8)
    | .bad _ => s

/-- A granule as it lies in a shadow. -/
def State.shadowBytes (s : State) (p : Nat) (g : StagedG) : RdRes := (s.readPiece .store ⟨p, s.activeCtx p, none, 0, 0, false⟩ g.shadow 64).1

/-- A commit makes the granules and the held results of the step the committed contents (R474, R269, R332). -/
def State.commitWrites (s : State) (p n : Nat) : State :=
  let c := s.ctx p
  let s1 := s.each (c.staged.filter fun g => g.step == n) fun s g => let r := s.shadowBytes p g; s.putBytes p g.va r.data r.bad
  let s2 := s1.each (c.heldOut.filter fun y => y.step == n) fun s y => s.putBytes p y.va y.data []
  s2.modCtx p fun c => { c with staged := c.staged.filter (fun g => g.step != n), heldOut := c.heldOut.filter fun y => y.step != n }

/-- A token record as it is released (Table 17.1): REPEATED and the edge time set. -/
def relRec (m : Msg32) (rep : Bool) (e : W64) : Msg32 :=
  m ||| pack 256 [⟨89, 89, b2n rep⟩, bfld 24 8 e.toNat]

/-- An edge notice (R377): decision 1 commit, 2 repeat, 3 abandon. -/
def edgeMsg (p dec attempt : Nat) (x : Entry) (step : Nat) (e : W64) : Msg32 :=
  pack 256 [bfld 0 1 p, bfld 1 1 dec, bfld 2 1 attempt, bfld 4 4 (launchStreams x.raw).1, bfld 8 2 (launchStreams x.raw).2,
    bfld 16 8 step, bfld 24 8 e.toNat]

def State.tapNotice (s : State) (p dec attempt : Nat) (x : Entry) (step : Nat) (e : W64) : State :=
  s.modEmit fun g => { g with tap := g.tap ++ [.edge (edgeMsg p dec attempt x step e)] }

/-- Token records of the step are released to the host and cross the tap, in order (R376). -/
def State.emitRelease (s : State) (p n : Nat) (rep : Bool) (e : W64) : State :=
  let mine := (s.emit.held.filter fun h => h.part == p && h.step == n).map fun (h : HeldTok) => { h with bits := relRec h.bits rep e }
  let taps := mine.map fun h => TapMsg.token h.bits
  (s.modEmit fun g =>
    { g with held := g.held.filter (fun h => !(h.part == p && h.step == n)), rel := g.rel ++ mine, tap := g.tap ++ taps }).bump
      (pk tEMIT 0) 0x040 mine.length

/-- Token records that `gone` names are discarded; the tap sees nothing. -/
def State.emitDiscard (s : State) (gone : HeldTok → Bool) : State :=
  let n := (s.emit.held.filter gone).length
  (s.modEmit fun g => { g with held := g.held.filter fun h => !gone h }).bump (pk tEMIT 0) 0x048 n

/-- Shadow samples that `gone` names are dropped and counted (R291). -/
def State.dropShadow (s : State) (p : Nat) (gone : ShadowEnt → Bool) : State :=
  s.each (s.coresOf p) fun s k =>
    let n := ((s.core k).shadowQ.filter gone).length
    (s.modCore k fun c => { c with shadowQ := c.shadowQ.filter fun x => !gone x }).bump (pk tVEC k) 0x080 n

/-- Queued records that `gone` names are removed (R118); those that have started run to completion and signal nothing. -/
def State.dropRecords (s : State) (p : Nat) (count : Bool) (gone : QRec → Bool) : State :=
  s.each (s.coresOf p) fun s k =>
    let n := (((s.core k).queues.map fun e => (e.2.filter gone).length)).sum
    let s1 := s.modCore k fun c => { c with queues := c.queues.map fun e => (e.1, e.2.filter fun q => !gone q) }
    if count then s1.bump (pk tCSQ (coreCluster k)) 0x060 n else s1

def State.staleRecords (s : State) (p : Nat) (gone : QRec → Bool) : State :=
  s.each (s.coresOf p) fun s k => s.modCore k fun c =>
    { c with exec := c.exec.map fun e => (e.1, e.2.map fun (x : ExRec) => if gone x.q then { x with stale := true } else x) }

/-- Mover descriptors of discarded steps: one that has not started leaves, with the port record that waits for it; of a KPM operation
whose copy it was, that is noted. The others complete without a signal (R138). -/
def State.mvDiscard (s : State) (p n : Nat) : State :=
  let mine := fun (d : MDesc) => !isSteward d && d.part == p && decide (n ≤ d.step)
  let idle := fun (d : MDesc) => mine d && d.st == .accepted
  let s1 := s.each (s.movers.map (·.1)) fun s t =>
    s.each ((s.mover t).descs.filter idle) fun s d =>
      match d.src with
      | .port k none => s.setExecs k 7 ((s.execs k 7).filter fun x => x.port != some (uMover t, d.id))
      | .kpm k o => s.modKop k o fun x => { x with cut := true }
      | _ => s
  { s1 with movers := s1.movers.map fun e => (e.1, { e.2 with
      descs := (e.2.descs.filter fun d => !idle d).map fun (d : MDesc) => if mine d then { d with noSignal := true } else d }) }

/-- Everything that the undecided steps from `n` on have staged, placed or asked for is discarded (Table 2.6, R50, R118); `ab`: they are
not to run again. -/
def State.discardFrom (s : State) (p n : Nat) (count ab : Bool) : State :=
  let past := fun (q : QRec) => decide (n ≤ q.step)
  let s1 := (s.kpmEdge p false n).kpmStale p n ab
  let s2 := (s1.emitDiscard fun h => h.part == p && decide (n ≤ h.step)).txuDiscard p n
  let s3 := ((s2.mvDiscard p n).dropRecords p count past).staleRecords p past
  let s4 := s3.dropShadow p fun x => decide (n ≤ x.step)
  s4.modCtx p fun c =>
    { c with staged := c.staged.filter (fun g => decide (g.step < n)), heldOut := c.heldOut.filter (fun y => decide (y.step < n)),
             fails := c.fails.filter (fun f => decide (f.1 < n)), numEvents := Tbl.drop c.numEvents (fun k => decide (n ≤ k)),
             widestOvf := c.widestOvf.filter (fun k => decide (k < n)), marks := c.marks.filter (fun m => decide (m.step < n)),
             logged := c.logged.filter (fun x => decide (x.1 < n)), askLater := c.askLater.filter fun x => decide (x.1 < n) }

/-- The context as every edge leaves it: no attempt running, every layer at its base (R46); marks and triggers of steps that run ahead
stay. -/
def CtxSt.fresh (c : CtxSt) : CtxSt :=
  { c with running := false, slotStart := none, slotNum := none, pend := none, slotClash := false, widening := false, rewind := none,
           marks := c.marks.filter (fun m => decide (c.cur < m.step)), variants := [], lastAxis := [], asked := [],
           askLater := c.askLater.filter (fun x => decide (c.cur < x.1)), seqDone := 0,
           logged := c.logged.filter (fun x => decide (c.cur < x.1)), widened := false, saidExpert := false }

/-- TIME.CTX.LAST_EDGE (Table 20.10). -/
def lastEdgeWord (step attempt kind reason : Nat) : W64 := pack 64 [⟨47, 0, step⟩, ⟨51, 48, attempt⟩, ⟨53, 52, kind⟩, ⟨55, 54, reason⟩]

/-- The sequencers at an edge: `go` for a commit, where a step already begun ahead goes on, stopped if a trigger of it stopped it; else
every step begins anew. -/
def State.seqEdge (s : State) (p : Nat) (go : Bool) : State :=
  s.each (s.clustersOf p) fun s k => s.modSeq k fun q =>
    let on_ := go && decide (0 < q.runAheadDepth)
    { q with placing := !on_ || q.placing, begun := on_, runAheadDepth := if go then q.runAheadDepth - 1 else 0 }

/-- The last part of every edge: the KPM reclaims, statistics latch, and the event is traced. -/
def State.edgeEnd (s : State) (p : Nat) : State :=
  let s1 := (s.kpmReclaim p (s.activeCtx p)).latchEdge p
  ((s1.debugEvent 8 p).progress pgTIME 1).foldPumpAll p

/-- A launch decided at an edge leaves with its status: END is the edge (Table 10.4). -/
def State.launchEnd (s : State) (x : Entry) (err : Err) (e : W64) (f : Entry → Entry) : State :=
  (s.launchDone x err f).modEnt x.uid fun x => { x with endT := e }

/-- The status of a committed launch (R226). -/
def CtxSt.commitStatus (c : CtxSt) (n : Nat) : Err :=
  if c.widestOvf.contains n then ⟨0x0020, 0⟩ else if 0 < c.attempt then ⟨0x0001, 0⟩ else if c.widened then ⟨0x0002, 0⟩ else errOk

/-- A context's step number moves on, at its coordinator too. -/
def State.stepOn (s : State) (p n : Nat) (e : W64) : State :=
  let s1 := s.modCtx p fun c => { c.fresh with cur := n + 1, attempt := 0, firstStart := none, openSlot := none, acted := [], nextStep := max c.nextStep (n + 1) }
  s1.modCoord p fun k => { k with step := n + 1, attempt := 0, open_ := false, prevEdge := e }

/-- What a participant that missed a repeat still holds of the attempt which that repeat discarded goes before a later attempt's decision
is applied (R38). -/
def State.missedRepeat (s : State) (p : Nat) (d : Decision) : State :=
  if (s.ctx p).attempt < d.attempt then
    ((s.discardFrom p (s.ctx p).cur true false).foldDiscard p).modCtx p fun c => { c with attempt := d.attempt }
  else s

/-- A commit edge. -/
def State.commitAt (s0 : State) (p : Nat) (d : Decision) : State :=
  let s := s0.missedRepeat p d
  let c := s.ctx p
  let n := c.cur
  let x := s.stepLaunch p n
  let toks := (s.emit.held.filter fun h => h.part == p && h.step == n).length
  let s1 := ((((s.commitWrites p n).kpmEdge p true n).emitRelease p n (decide (0 < c.attempt)) d.edge).foldCommit p n).txuCommit p n
  let s2 := s1.dropShadow p fun y => y.step == n
  let s3 := match x with
    | none => s2
    | some x => (s2.tapNotice p 1 c.attempt x n d.edge).launchEnd x (c.commitStatus n) d.edge fun y =>
        { y with tokens := toks, numEv := Tbl.get 0 c.numEvents n, repeats := c.attempt, outcome := 1, start := c.firstStart.getD y.start }
  let s4 := (s3.stepOn p n d.edge).modCtx p fun c =>
    { c with lastCommit := some n, lastEdge := lastEdgeWord n d.attempt 1 d.reason, fails := c.fails.filter (fun f => f.1 != n),
             numEvents := Tbl.drop c.numEvents (fun k => k == n), widestOvf := c.widestOvf.filter fun k => k != n }
  (((s4.seqEdge p true).applyPatches p).edgeEnd p).openIfDue p

/-- A repeat edge: the step runs again from committed state, in the slot the decision names (R38, R46). -/
def State.repeatAt (s0 : State) (p : Nat) (d : Decision) : State :=
  let s := s0.missedRepeat p d
  let c := s.ctx p
  let n := c.cur
  let s1 := s.each c.fails fun s f =>
    match s.stepLaunch p f.1 with
    | some x => s.modEnt x.uid fun x => { x with fault := f.2 }
    | none => s
  let s2 := match s.stepLaunch p n with
    | some x => (s1.tapNotice p 2 c.attempt x n d.edge).modEnt x.uid fun x => { x with st := .placed }
    | none => s1
  let s3 := ((s2.discardFrom p n true false).foldDiscard p).seqEdge p false
  -- NEXT_SLOT carries the low 32 bits of the number; the slot is the first such one from the edge on
  let num := match s.stepLaunch p n with
    | some x => match s.planOf p x.planH with
      | some q => slotFrom (s.epoch p) q.slotUs d.edge.toNat
      | none => 0
    | none => 0
  let slot := num / 2 ^ 32 * 2 ^ 32 + d.nextSlot % 2 ^ 32
  let s4 := s3.modCtx p fun c =>
    { c.fresh with attempt := c.attempt + 1, slotNum := some (if slot < num then slot + 2 ^ 32 else slot), allowUs := d.allowUs,
                   slotClash := c.slotClash, lastEdge := lastEdgeWord n d.attempt 2 d.reason }
  (s4.applyPatches p).edgeEnd p

/-- Launches placed above an abandoned step complete with PREDECESSOR_ABANDONED (R50, R217); `stepNo` is the step their entries
report. -/
def State.endPredecessors (s : State) (p n : Nat) (e : W64) (notice : Bool) (stepNo : Option (Option Nat)) : State :=
  let later := s.ents.filter fun x => x.part == p && (x.st == .placed || x.st == .running) && (match x.step with | some k => decide (n < k) | none => false)
  s.each later fun s x =>
    let s1 := if notice then s.tapNotice p 3 0 x (x.step.getD 0) e else s
    let m := x.step.getD 0
    let f := ((s.ctx p).fails.find? fun f => f.1 == m).map (·.2)
    s1.launchEnd x ⟨0x0010, 4⟩ e fun y =>
      { y with outcome := 2, abSub := 4, step := stepNo.getD y.step, fault := f.getD y.fault, numEv := Tbl.get 0 (s.ctx p).numEvents m }

/-- The launch of an abandoned step (R42, R219): a fault of the final attempt stands in STATUS; the abandon in OUTCOME and
ABANDON_SUB. -/
def State.endAbandoned (s : State) (p n : Nat) (sub : Nat) (e : W64) (stepNo : Option (Option Nat)) : State :=
  let c := s.ctx p
  match s.stepLaunch p n with
  | none => s
  | some x =>
    let f := (c.fails.find? fun f => f.1 == n).map (·.2)
    s.launchEnd x (f.getD ⟨0x0010, BitVec.ofNat 16 sub⟩) e fun y =>
      { y with fault := f.getD y.fault, repeats := c.attempt, outcome := 2, abSub := BitVec.ofNat 16 sub,
               numEv := Tbl.get 0 c.numEvents n, step := stepNo.getD y.step, start := c.firstStart.getD y.start }

/-- An abandon edge. A participant that neither coordinates nor reported EXPERT itself does not learn whether another did: of a
late step its sub-status is open between LATE_LIMIT and EXPERT_OVERRUN (log entry 39). -/
def State.abandonAt (s' : State) (p : Nat) (d : Decision) : State :=
  let s := s'.missedRepeat p d
  let c := s.ctx p
  let n := c.cur
  let open_ := d.reason ≠ 2 ∧ s.isCoord p = false ∧ c.saidExpert = false
  let q := s.fresh 1
  let s0 := if open_ then q.2 else s
  let expert := if open_ then q.1 == 1 else if s.isCoord p then (s.coord p).lateExpert else true
  let sub := if d.reason = 2 then 2 else if expert then 3 else 1
  let s1 := match s.stepLaunch p n with
    | some x => s0.tapNotice p 3 c.attempt x n d.edge
    | none => s0
  let s2 := (s1.endAbandoned p n sub d.edge none).endPredecessors p n d.edge true none
  let s3 := ((s2.discardFrom p n true true).foldDiscard p).seqEdge p false
  let s4 := (s3.stepOn p n d.edge).modCtx p fun c => { c with nextStep := n + 1, lastEdge := lastEdgeWord n d.attempt 3 d.reason }
  ((s4.applyPatches p).edgeEnd p).openIfDue p

/-- The pending decision of a kind, once its edge time has come. -/
def State.due (s : State) (p : Nat) (k : DecKind) : Option Decision :=
  match (s.ctx p).pend with
  | some d => if s.up && s.sage.fatal.isNone && d.kind == k && decide (d.edge.toNat ≤ s.now) then some d else none
  | none => none

/-- COMMIT_EDGE. -/
def execCommitEdge (p : Nat) (s : State) : Out :=
  match s.due p .commit with
  | some d => .next (s.commitAt p d)
  | none => .next s

/-- REPEAT_EDGE. -/
def execRepeatEdge (p : Nat) (s : State) : Out :=
  match s.due p .rpt with
  | some d => .next (s.repeatAt p d)
  | none => .next s

/-- ABANDON_EDGE. -/
def execAbandonEdge (p : Nat) (s : State) : Out :=
  match s.due p .abandon with
  | some d => .next (s.abandonAt p d)
  | none => .next s

/-- The decision that a message states (Table 14.4). -/
def decisionOf (m : Msg32) : Decision :=
  let kind : DecKind := match bits m 33 32 with | 0 => .opn | 1 => .commit | 2 => .rpt | _ => .abandon
  ⟨kind, byteFld m 8 8, byteFld m 5 1, bits m 35 34, BitVec.ofNat 64 (byteFld m 16 8), byteFld m 24 4, byteFld m 28 4⟩

/-- DECISION_RECEIVE (R38): of the context's coordinator only. A decision that comes after its edge is applied on receipt and
counted. -/
def execDecisionReceive (msg : Msg32) (s : State) : Out :=
  match s.partOf (byteFld msg 0 2) with
  | none => .next s
  | some p =>
    if !s.up || byteFld msg 6 1 != 0x30 || BitVec.ofNat 16 (byteFld msg 2 2) != s.coordId p then .next s
    else
      let d := decisionOf msg
      let had := (s.ctx p).pend
      let s1 := s.acceptDecision p d
      if had.isSome || (s1.ctx p).pend.isNone || decide (s.now ≤ d.edge.toNat) then .next s1
      else
        let s2 := s1.bump pgTIME 0x040 1
        match d.kind with
        | .commit => .next (s2.commitAt p d)
        | .rpt => .next (s2.repeatAt p d)
        | .abandon => .next (s2.abandonAt p d)
        | .opn => .next s2

/-- COORDINATOR_LOST (R40): no decision by 100 µs past the deadline. Every launch of the context completes and reports the last
committed step. -/
def execCoordinatorLost (p : Nat) (s : State) : Out :=
  let c := s.ctx p
  match s.slotOf p with
  | none => .next s
  | some (_, q, t) =>
    if !s.up || !c.bound || c.coordLost || c.pend.isSome || decide (s.now < t + 1000 * (q.slotUs + c.allowUs) + 100000) then .next s
    else
      let n := c.cur
      let s1 := (s.endAbandoned p n 5 s.time.now (some c.lastCommit)).endPredecessors p n s.time.now false (some c.lastCommit)
      let s2 := ((s1.discardFrom p n true true).foldDiscard p).seqEdge p false
      .next ((s2.modCtx p fun c => { c.fresh with coordLost := true }).raise pgTIME 2)

end Sys2Proof.Machine
end

