-- ==== Sys2Proof/Machine/Widen.lean ====
section
/-! DEFINITION. Machine/Widen.lean: layer marks, the rewind of a layer between the participants and the coordinator, and the
control of the numeric event ring (R280 to R285, R292 to R294, R454, R477). -/

namespace Sys2Proof.Machine

open Sys2Proof

/-! ### Layer marks (R280) -/

/-- No record of a step is queued or started and not retired. -/
def State.stepDrained (s : State) (p n : Nat) : Bool :=
  (s.coresOf p).all fun k => (s.core k).queues.all (fun e => e.2.all fun q => q.step != n)
    && (s.core k).exec.all fun e => e.2.all fun x => x.stale || x.q.step != n

/-- Every record of a step before those of a layer has been placed and has retired. -/
def State.markReady (s : State) (p n rank : Nat) : Bool :=
  let ls := s.layersOf p n
  s.stepDrained p n && (s.stepClusters p n).all fun c =>
    decide (((s.clusterStream p n c).takeWhile fun x => decide (layerRank ls (layerOf ls x.opidx.toNat) < rank)).length ≤ s.placedOf p n c)

/-- What a mark records. The counters of a core whose cluster has not begun the step's attempt are zero when it does (R100). -/
def State.markOf (s : State) (p n layer : Nat) : Mark :=
  let c := s.ctx p
  let begun := fun (k : Nat) => (s.seq k).begun && decide (n ≤ c.cur + (s.seq k).runAheadDepth)
  { step := n, layer := layer, dcs := (s.coresOf p).map (fun k => (k, if begun (coreCluster k) then (s.core k).dc else [])),
    offs := (s.clustersOf p).map (fun k => (k, s.placedOf p n k)),
    staged := (c.staged.filter fun g => g.step == n).map fun g => let r := s.shadowBytes p g; (g, r.data, r.bad) }

/-- A layer's mark may be made in a step now. A rewind lets the layer it names be marked, and holds back the ones behind it and the
steps that run ahead. -/
def State.mayMark (s : State) (p n layer : Nat) : Bool :=
  let c := s.ctx p
  let ls := s.layersOf p n
  let rank := layerRank ls layer
  let held := match c.rewind with
    | some r => !r.absent && (decide (c.cur < n) || decide (layerRank ls r.layer < rank))
    | none => false
  !held && decide (rank < ls.length) && decide (n ≤ c.cur + s.runAheadOf p n) && s.widenable p n layer
    && !(c.marks.any fun m => m.step == n && m.layer == layer) && s.markReady p n rank

/-- LAYER_MARK: before the first record of a widenable layer, once every earlier record of the attempt has retired, in the oldest step in
which it may be made. -/
def execLayerMark (p layer : Nat) (s : State) : Out :=
  let c := s.ctx p
  if !s.running || !c.running || c.frozen then .next s
  else match [c.cur, c.cur + 1, c.cur + 2].find? fun n => s.mayMark p n layer with
  | none => .next s
  | some n =>
    let op := (((s.layersOf p n).find? fun l => l.layer == layer).map (·.firstOp)).getD 0
    let s1 := s.modCtx p fun c => { c with marks := c.marks ++ [s.markOf p n layer] }
    .next (s1.each (s1.clustersOf p) fun s k =>
      (s.modSeq k fun q => { q with markLayer := layer, markOp := op }).bump (pk tCSQ k) 0x068 1)

/-! ### The coordinator (R281, R283, R284) -/

def wType (m : Msg32) : Nat := byteFld m 6 1
def wAxis (m : Msg32) : Nat := bits m 57 56
def wPos (m : Msg32) : Nat := bits m 59 58
def wStep (m : Msg32) : Nat := byteFld m 8 8
def wAttempt (m : Msg32) : Nat := byteFld m 16 1
def wSeq (m : Msg32) : Nat := byteFld m 18 2
def wLayer (m : Msg32) : Nat := byteFld m 20 4

/-- The position that the coordinator's orders have brought a layer to on an axis. -/
def State.coordPos (s : State) (p : Nat) (v : Variant) : Nat := Tbl.get v.base (s.coord p).positions (v.layer * 4 + v.axis)

/-- What records of a layer and of later ones have made in the attempt goes: token records, fold results, TXU stages, samples, and what
they staged in regions, which go back to what they held at the mark (R282, R291). -/
def State.dropLate (s : State) (p : Nat) (l : LayerEnt) : State :=
  let c := s.ctx p
  let n := c.cur
  let ls := s.layersOf p n
  let rank := layerRank ls l.layer
  let s1 := s.emitDiscard fun h => h.part == p && h.step == n && decide (l.firstOp ≤ h.opidx)
  let s2 := (((s1.foldRewind p rank l.tensorFirst).txuRewind p n l.stageFirst).dropShadow p
      fun x => x.step == n && decide (rank ≤ layerRank ls x.layer)).modCtx p fun c =>
    { c with heldOut := c.heldOut.filter (fun y => y.fold || y.step != n || decide (y.key < l.stageFirst)) }
  match c.marks.find? fun m => m.step == n && m.layer == l.layer with
  | none => s2
  | some m =>
    (s2.each m.staged fun s g => s.putBytes p g.1.shadow g.2.1 g.2.2).modCtx p fun c =>
      { c with staged := c.staged.filter (fun g => g.step != n) ++ m.staged.map (·.1) }

/-- A participant acts on an order (R281 step 3, R282, R477): it discards what records of the layer and of later ones have made, their
records that have not started, and the staging of every step ahead, which begins anew after the rewind (R50). -/
def State.takeOrder (s : State) (p seq layer axis pos : Nat) : State :=
  let n := (s.ctx p).cur
  let ls := s.layersOf p n
  match ls.find? fun l => l.layer == layer with
  | none => s.modCtx p fun c => { c with rewind := some ⟨seq, layer, axis, pos, false, true⟩ }
  | some l =>
    let rank := layerRank ls layer
    let s0 := s.modCtx p fun c => { c with rewind := some ⟨seq, layer, axis, pos, false, false⟩, asked := [] }
    let s1 := (s0.discardFrom p (n + 1) false false).dropRecords p false fun q => q.step == n && decide (rank ≤ layerRank ls q.layer)
    let s2 := (s1.dropLate p l).modCtx p fun c =>
      { c with marks := c.marks.filter fun m => decide (layerRank ls m.layer ≤ rank) }
    s2.each (s2.clustersOf p) fun s k => s.modSeq k fun q => if q.runAheadDepth = 0 then q else
      { q with runAheadDepth := 0, nextOff := 128 * (s.clusterStream p n k).length }

/-- An order reaches a participant, which acts on each number once. -/
def State.orderIn (s : State) (p : Nat) (m : Msg32) : State :=
  let c := s.ctx p
  let seen := max c.seqDone (match c.rewind with | some r => r.seq | none => 0)
  if !c.bound || c.coordLost || c.frozen || !c.running || c.pend.isSome || wStep m != c.cur || wAttempt m != c.attempt
      || decide (wSeq m ≤ seen) then s
  else s.takeOrder p (wSeq m) (wLayer m) (wAxis m) (wPos m)

/-- The coordinator sends an order to every participant, itself among them, and repeats it (R281). -/
def State.sendOrder (s : State) (p layer axis pos : Nat) (src : W16) : State :=
  let k := s.coord p
  let m := widenMsg 0x11 (s.jobId p) s.moduleId p (s.part p).gen axis pos k.step k.attempt (k.seq + 1) layer s.time.now
  let s1 := s.modCoord p fun k =>
    { k with seq := k.seq + 1, order := some (k.seq + 1, layer, axis, pos), drained := [], resume := some m, reqFrom := src }
  (s1.send (.job p m)).orderIn p m

/-- WIDEN_REQ at the coordinator (R283). Its own request comes to it as a message like another's. -/
def execWidenReq (msg : Msg32) (s : State) : Out :=
  match s.coordOf (byteFld msg 0 2) with
  | none => .next s
  | some p =>
    let k := s.coord p
    let ls := s.layersOf p k.step
    let lower := match k.order with
      | some o => decide (layerRank ls (wLayer msg) < layerRank ls o.2.1)
      | none => true
    match s.chainOf p k.step (wLayer msg) (wAxis msg) with
    | none => .next s
    | some v =>
      whenOk (s.up && wType msg == 0x10 && k.open_ && wStep msg == k.step && wAttempt msg == k.attempt && lower
          && decide (s.coordPos p v < v.base + v.count))
        (s.sendOrder p (wLayer msg) (wAxis msg) (s.coordPos p v + 1) (BitVec.ofNat 16 (byteFld msg 2 2))) s

/-- WIDEN_ORDER at a participant. -/
def execWidenOrder (msg : Msg32) (s : State) : Out :=
  match s.partOf (byteFld msg 0 2) with
  | none => .next s
  | some p => whenOk (s.up && wType msg == 0x11 && BitVec.ofNat 16 (byteFld msg 2 2) == s.coordId p) (s.orderIn p msg) s

/-- No record and no port operation of the layer or a later one that had started is left in the attempt, and no flit of the request,
response and collective lanes that the partition sent is unacknowledged (R281 step 4). -/
def State.rewindDrained (s : State) (p : Nat) (r : Rewind) : Bool :=
  let c := s.ctx p
  let ls := s.layersOf p c.cur
  let late := fun (step attempt layer : Nat) => step == c.cur && attempt == c.attempt && decide (layerRank ls r.layer ≤ layerRank ls layer)
  (s.coresOf p).all (fun k => (s.core k).exec.all fun e => e.2.all fun x => !late x.q.step x.q.attempt x.q.layer)
    && s.movers.all (fun m => m.2.descs.all fun d => isSteward d || d.part != p || !late d.step d.attempt d.layer)
    && s.kpms.all (fun m => m.2.ops.all fun o => o.part != p || !late o.step o.attempt o.layer)
    && s.txus.all (fun t => t.2.ops.all fun o => o.part != p || !late o.step o.attempt o.layer)
    && s.ports.all fun e => (e.2.replay.all fun f => bits f.flit 33 32 == 3 || f.own != p) && e.2.txq.all fun x => x.1 == 3 || x.2.all fun f => f.own != p

/-- DRAINED_SEND: a participant whose bucket does not hold the layer sends it at once (R477). -/
def execDrainedSend (p : Nat) (s : State) : Out :=
  let c := s.ctx p
  match c.rewind with
  | none => .next s
  | some r =>
    if !s.running || c.frozen || r.drained || !(r.absent || s.rewindDrained p r) then .next s
    else
      let m := widenMsg 0x12 (s.jobId p) s.moduleId p (s.part p).gen r.axis r.pos c.cur c.attempt r.seq r.layer s.time.now
      .next ((s.modCtx p fun c => { c with rewind := some { r with drained := true } }).send (.job p m))

/-- A participant resumes (R281 step 6): counters as they stood at the mark, the layer in its new variant. A participant that holds no
such layer ignores it. -/
def State.resumeIn (s : State) (p : Nat) (m : Msg32) : State :=
  let c := s.ctx p
  match c.rewind with
  | none => s
  | some r =>
    if !c.bound || c.frozen || c.pend.isSome || wStep m != c.cur || wAttempt m != c.attempt || wSeq m != r.seq then s
    else if r.absent then s.modCtx p fun c => { c with rewind := none, seqDone := r.seq }
    else
      -- what records that were still running made since the order goes too
      let s0 := match (s.layersOf p c.cur).find? fun l => l.layer == r.layer with
        | some l => s.dropLate p l
        | none => s
      let s1 := match c.marks.find? fun x => x.step == c.cur && x.layer == r.layer with
        | some mark => (s0.each mark.dcs fun s d => s.modCore d.1 fun k => { k with dc := d.2 }).each mark.offs fun s o =>
            s.modSeq o.1 fun q => { q with nextOff := 128 * o.2 }
        | none => s0
      let s2 := s1.modCtx p fun c =>
        { c with rewind := none, seqDone := r.seq, widening := false, widened := true, asked := [],
                 lastAxis := Tbl.set c.lastAxis r.layer r.axis, variants := Tbl.set c.variants (r.layer * 4 + r.axis) r.pos }
      -- the order does not carry the requesting module; its coordinator knows it (log entry 40)
      let q := s2.fresh 16
      let s3 := if s.isCoord p then s2 else q.2
      let unit := if s.isCoord p then (s.coord p).reqFrom.toNat else q.1
      let s4 := s3.numEvent p ⟨c.cur, c.attempt, 4, r.axis + 4 * r.pos, r.layer, 0xFFFFFFFF, unit, r.seq, r.pos⟩
      s4.each (s4.clustersOf p) fun s k => (s.modSeq k fun q => { q with placing := true }).bumpHi (pk tCSQ k) 0x068 1

/-- DRAINED at the coordinator (R281 step 5): with every participant drained it sends RESUME. -/
def execDrained (msg : Msg32) (members : List (W16 × Nat)) (s : State) : Out :=
  match s.coordOf (byteFld msg 0 2) with
  | none => .next s
  | some p =>
    let k := s.coord p
    match k.order with
    | none => .next s
    | some (seq, layer, axis, pos) =>
      if !s.up || wType msg != 0x12 || !k.open_ || wStep msg != k.step || wAttempt msg != k.attempt || wSeq msg != seq then .next s
      else
        let who : W16 × Nat := (BitVec.ofNat 16 (byteFld msg 2 2), byteFld msg 4 1)
        let got := if k.drained.contains who then k.drained else k.drained ++ [who]
        let s1 := s.modCoord p fun k => { k with drained := got }
        if ((s.moduleId, p) :: members).all got.contains then
          let m := widenMsg 0x13 (s.jobId p) s.moduleId p (s.part p).gen axis pos k.step k.attempt seq layer s.time.now
          let s2 := s1.modCoord p fun k =>
            { k with order := none, resume := some m, lastResume := some s.time.now,
                     positions := Tbl.set k.positions (layer * 4 + axis) pos }
          .next ((s2.send (.job p m)).resumeIn p m)
        else .next s1

/-- WIDEN_RESUME at a participant. -/
def execWidenResume (msg : Msg32) (s : State) : Out :=
  match s.partOf (byteFld msg 0 2) with
  | none => .next s
  | some p => whenOk (s.up && wType msg == 0x13 && BitVec.ofNat 16 (byteFld msg 2 2) == s.coordId p) (s.resumeIn p msg) s

/-! ### The numeric event ring's control (R292 to R294, R453, R454) -/

/-- NER_ENABLE: the configuration is checked; head, tail and PHASE start anew. -/
def execNerEnable (p : Nat) (s : State) : Out :=
  if !s.up || decide (32 ≤ p) || (s.ner p).enabled then .next s
  else if 64 ≤ s.nerSize p ∧ s.nerSize p ≤ 65536 then
    .next ((s.modNer p fun _ => { NerSt.zero with enabled := true }).setRg (pk tVFSTATUS p) 0x230 0)
  else .next (s.noteErr (pk tVFSTATUS p) 0x70 0)

/-- NER_DISABLE. -/
def execNerDisable (p : Nat) (s : State) : Out :=
  whenOk (s.up && decide (p < 32) && (s.ner p).enabled) (s.modNer p fun r => { r with enabled := false }) s

/-- NER_REARM: a ring that is not BROKEN is left as it is. -/
def execNerRearm (p : Nat) (s : State) : Out :=
  whenOk (s.up && decide (p < 32) && (s.ner p).broken) (s.modNer p fun r => { r with broken := false }) s

end Sys2Proof.Machine
end

