-- ==== Sys2Proof/Machine/Views.lean ====
section
/-! DEFINITION. Machine/Views.lean: what Sage reads of each engine, and BLK_STAT (R400, R401, Tables 18.1, 20.1). -/

namespace Sys2Proof.Machine

open Sys2Proof

/-! ### What Sage reads of an engine (R400, R401, Table 18.1) -/

/-- An engine: its page's key × 8 + its number on the page, whether it holds work, waits, is halted, and its progress count. -/
structure EngView where
  key : Nat
  holds : Bool
  waits : Bool
  halted : Bool
  prog : W64
deriving DecidableEq, Repr

def State.engProgOf (s : State) (k e : Nat) : W64 := Tbl.get 0 s.engProg (k * 8 + e)

/-- Array `i` of a core, and its vector unit: operands come at once in this model, so neither waits. -/
def State.arrView (s : State) (k i : Nat) : EngView :=
  ⟨pk tFEED k * 8 + i, !(s.execs k i).isEmpty, false, false, s.engProgOf (pk tFEED k) i⟩
def State.vecView (s : State) (k : Nat) : EngView :=
  ⟨pk tVEC k * 8 + 4, !(s.execs k 4).isEmpty, false, false, (s.hdr (pk tVEC k)).progress⟩

/-- Instructions that may stay where they are for want of a reply, a counter, credit or an acknowledgement. -/
def mayStay (op : Nat) : Bool := decide (0x08 ≤ op ∧ op ≤ 0x0B) || op == 0x10 || op == 0x1C || op == 0x1E || op == 0x20

/-- A scalar pipe waits for another module, or at an instruction that it cannot yet pass. -/
def State.pipeWaits (s : State) (k j : Nat) : Bool :=
  let p := s.pipe k j
  p.wait == .remote || (!p.running && p.remote != 0) ||
    match (s.scFetch k j).1 with
    | .error _ => false
    | .ok w => mayStay (iOp w) && (scExec k j w s).pipe k j == p

def State.pipeView (s : State) (k j : Nat) : EngView :=
  ⟨pk tCORE k * 8 + 5 + j, !(s.execs k (5 + j)).isEmpty, s.pipeWaits k j, (s.pipe k j).halted, s.engProgOf (pk tCORE k) (5 + j)⟩

/-- The port waits while every operation that it has posted is outstanding. -/
def State.portView (s : State) (k : Nat) : EngView :=
  ⟨pk tCORE k * 8 + 7, !(s.execs k 7).isEmpty, (s.execs k 7).all (fun x => x.port.isSome && !x.done), false, s.engProgOf (pk tCORE k) 7⟩

/-- A sequencer could place a record now: of its launch, or of one that runs ahead (log entry 44). -/
def State.seqMoves (s : State) (c : Nat) : Bool :=
  match s.ownerOf c with
  | none => false
  | some p =>
    let x := s.ctx p
    (List.range 3).any fun ahead =>
      match s.seqLaunch c ahead, s.nextRec p c ahead with
      | some e, some r =>
        let step := x.cur + ahead
        s.placeOk r.core ahead e ⟨r.bits, r.opidx, step, if ahead = 0 then x.attempt else 0, layerOf (s.layersOf p step) r.opidx.toNat, e.uid⟩
      | _, _ => false

/-- A cluster sequencer holds work while a placed launch has records that are not placed (log entry 44). -/
def State.seqView (s : State) (c : Nat) : EngView :=
  let q := s.seq c
  let left := match s.ownerOf c with
    | some p => !(s.seqLeft p c).isEmpty || decide (q.runAheadDepth + 1 < q.launches.length)
    | none => false
  ⟨pk tCSQ c * 8, !q.launches.isEmpty && left, !s.seqMoves c, q.halted, (s.hdr (pk tCSQ c)).progress⟩

/-- A command leaves a unit's own state as it is. -/
def sameAfter {α : Type} [DecidableEq α] (o : Out) (f : State → α) (s : State) : Bool :=
  match o with
  | .next t => decide (f t = f s)
  | _ => true

/-- A TXU waits while none of its operations can go on by itself. -/
def State.txuView (s : State) (c : Nat) : EngView :=
  let t := s.txu c
  let stuck := t.ops.all fun o => [execDispatch c o.id s, execSlots c o.id s, execPassDone c o.id s].all fun r => sameAfter r (fun x => x.txu c) s
  ⟨pk tTXU c * 8, !t.ops.isEmpty || decide (0 < t.inflight + t.reserved) || t.stages.any (fun g => !g.slots.isEmpty), stuck, false,
    (s.hdr (pk tTXU c)).progress⟩

/-- A descriptor that waits: for replies, for credit, behind another of its source, or on a page that migrates. -/
def State.descWaits (s : State) (t : Nat) (d : MDesc) : Bool :=
  if d.st = .reading then decide ((s.mvGo t d.id 5).mdesc t d.id = s.mdesc t d.id)
  else if d.st = .accepted then !s.mvMay t d
  else s.mvOutstanding t d.id

def State.mvView (s : State) (t : Nat) : EngView :=
  let m := s.mover t
  ⟨pk tMOVER t * 8, !m.descs.isEmpty, m.descs.all (s.descWaits t), false, (s.hdr (pk tMOVER t)).progress⟩

/-- A KPM operation that waits: for the mover's copies, behind another on its stream, or for room in the mover. -/
def State.kopWaits (s : State) (t : Nat) (o : KOp) : Bool :=
  if o.st = .reading then s.copiesOut t o.id
  else if o.st = .accepted then
    !s.kMay t o || (s.genLive o.part o.gen && match s.kBody t o with | .ok .wait => true | _ => false)
  else false

def State.kpmView (s : State) (t : Nat) : EngView :=
  let m := s.kpm t
  ⟨pk tKPM t * 8, !m.ops.isEmpty, m.ops.all (s.kopWaits t), false, (s.hdr (pk tKPM t)).progress⟩

/-- A fold engine waits for a partition: no block can be summed or broadcast and its entry has not ended. -/
def State.foldWaits (s : State) (e p : Nat) : Bool :=
  let f := s.fpart e p
  (s.foldBlockGo e p).isNone && f.casts.all (fun c => (s.castGo e p c).isNone)
    && match s.foldCur e p with
      | some r => !f.started || f.failed || !s.foldOver e p r
      | none => true

def State.foldView (s : State) (e : Nat) : EngView :=
  let ps := (s.foldE e).parts
  ⟨pk tFOLD e * 8, ps.any (fun x => x.2.started || !x.2.held.isEmpty), ps.all (fun x => s.foldWaits e x.1), false, (s.hdr (pk tFOLD e)).progress⟩

/-- The GFE could fetch, place or complete an entry. -/
def State.gfeMoves (s : State) : Bool :=
  s.sqs.any (fun e =>
    let fn := keyFn (e.1 / 64)
    let q := e.1 % 64
    s.mayFetch fn q || (s.placeable fn q).isSome)
    || s.ents.any fun e => e.st == .done && !(s.cq (qKey e.fn e.cq)).broken && s.bme e.fn

def State.gfeView (s : State) : EngView :=
  let work := !s.ents.isEmpty || s.sqs.any fun e => s.mayFetch (keyFn (e.1 / 64)) (e.1 % 64)
  ⟨pk tGFE 0 * 8, work, !s.gfeMoves, false, (s.hdr (pk tGFE 0)).progress⟩

/-- The emit gate waits while the CQ of every record that it holds of a decided step is BROKEN or its function no bus master. -/
def State.emitView (s : State) : EngView :=
  let stuck := s.emit.rel.all fun h => match s.ent h.uid with
    | some e => (s.cq (qKey e.fn e.cq)).broken || !s.bme e.fn
    | none => false
  ⟨pk tEMIT 0 * 8, !s.emit.rel.isEmpty, stuck, false, (s.hdr (pk tEMIT 0)).progress⟩

/-- A near controller or bridge port holds the requests of movers that it has accepted; a bridge port whose link is down waits. -/
def State.tierView (s : State) (k : Nat) (units : List Nat) : EngView :=
  let down := keyTyp k == tBRIDGE && !(s.bridge (keyUnit k)).linkUp
  ⟨k * 8, units.any (fun u => !(s.tier u).reqs.isEmpty), down, false, (s.hdr k).progress⟩

/-- An Elren port holds the flits that wait on its lanes; it waits while none of them can be sent. -/
def State.linkView (s : State) (e : Nat) : EngView :=
  ⟨pgEl e * 8, (s.port e).txq.any (fun x => !x.2.isEmpty), (s.nextLane e).isNone, false, (s.hdr (pgEl e)).progress⟩

/-- An engine that serves each access at once in this model, and so never holds one: translation units, store slices, TIME
(log entry 45). -/
def State.idleView (s : State) (k : Nat) : EngView := ⟨k * 8, false, false, false, (s.hdr k).progress⟩

/-- The engines of a domain. -/
def State.domEngines (s : State) : SageDom → List EngView
  | .part p =>
    ((s.coresOf p).flatMap fun k =>
        [s.arrView k 0, s.arrView k 1, s.arrView k 2, s.arrView k 3, s.vecView k, s.pipeView k 0, s.pipeView k 1, s.portView k])
      ++ (s.clustersOf p).flatMap fun c => [s.seqView c, s.txuView c]
  | .shared =>
    (List.range 8).flatMap (fun t => [s.mvView t, s.kpmView t, s.idleView (pk tXLAT t), s.idleView (pk tSTORE t), s.tierView (pk tNEAR (2 * t)) [2 * t],
        s.tierView (pk tNEAR (2 * t + 1)) [2 * t + 1], s.tierView (pk tBRIDGE t) [16 + t, 24 + t]])
      ++ (List.range 16).flatMap (fun e => [s.foldView e, s.linkView e])
      ++ [s.gfeView, s.emitView, s.idleView (pk tTIME 0)]

/-- The engines of a page. -/
def State.pageEngines (s : State) (k : Nat) : List EngView :=
  let u := keyUnit k
  let t := keyTyp k
  if t = tCORE then [s.pipeView u 0, s.pipeView u 1, s.portView u]
  else if t = tFEED then [s.arrView u 0, s.arrView u 1, s.arrView u 2, s.arrView u 3]
  else if t = tVEC then [s.vecView u]
  else if t = tCSQ then [s.seqView u] else if t = tTXU then [s.txuView u]
  else if t = tMOVER then [s.mvView u] else if t = tKPM then [s.kpmView u] else if t = tFOLD then [s.foldView u]
  else if t = tNEAR then [s.tierView k [u]] else if t = tBRIDGE then [s.tierView k [16 + u, 24 + u]]
  else if t = tELREN then [s.linkView u] else if t = tGFE then [s.gfeView] else if t = tEMIT then [s.emitView] else []

/-- BLK_STAT of a page but for its waiting and halted bits (Table 20.1). -/
def State.blkFlags (s : State) (k : Nat) : Nat :=
  let h := s.hdr k
  packNat [⟨0, 0, 1⟩, ⟨1, 1, b2n h.frozen⟩, ⟨2, 2, b2n h.resetting⟩, ⟨5, 5, b2n h.hung⟩]

/-- BLK_STAT of a page (Table 20.1): waiting where an engine of it that holds work waits. -/
def State.blkStat (s : State) (k : Nat) : Nat :=
  let l := s.pageEngines k
  s.blkFlags k ||| packNat [⟨3, 3, b2n (l.any fun v => v.holds && v.waits)⟩, ⟨4, 4, b2n (l.any (·.halted))⟩]

end Sys2Proof.Machine
end

