-- ==== Sys2Proof/Machine/Reset.lean ====
section
/-! DEFINITION. Machine/Reset.lean: compute resets of a partition and of the device: what they clear and keep, their records and
notices, and escalation (R94, R118, R139, R256, R272, R340, R359, R406 to R418). -/

namespace Sys2Proof.Machine

open Sys2Proof

/-- The key of the SAGE page. -/
def pgSAGE : Nat := pk tSAGE 0

/-! ### In-flight counts (Table 16.4, step 3) -/

/-- MOVER.PART_INFLIGHT, KPM.PART_INFLIGHT, ELREN.PART_INFLIGHT. -/
def State.mvInflight (s : State) (t p : Nat) : Nat := ((s.mover t).descs.filter fun d => !isSteward d && d.part == p).length
def State.kpmInflight (s : State) (t p : Nat) : Nat := ((s.kpm t).ops.filter fun o => o.part == p).length
def State.elInflight (s : State) (e p : Nat) : Nat := ((s.port e).outReqs.filter fun q => q.part == p).length
/-- FOLD.PART_INFLIGHT (R340); unacknowledged blocks are counted by their flits (log entry 41). -/
def State.foldInflight (s : State) (e p : Nat) : Nat := (s.fpart e p).held.length + s.foldUnacked e p
/-- PART.INFLIGHT. -/
def State.partInflight (s : State) (p : Nat) : Nat :=
  ((List.range 8).map fun t => s.mvInflight t p + s.kpmInflight t p).sum + ((s.clustersOf p).map fun c => (s.txu c).inflight).sum
    + ((List.range 16).map fun e => s.elInflight e p + s.foldInflight e p).sum

/-- No request tagged with a generation of a partition is outstanding (R359). -/
def State.genUnused (s : State) (p : Nat) (g : Byte) : Bool :=
  s.movers.all (fun m => m.2.descs.all fun d => isSteward d || d.part != p || d.gen != g)
    && s.kpms.all (fun m => m.2.ops.all fun o => o.part != p || o.gen != g)
    && s.txus.all (fun t => t.2.ops.all fun o => o.part != p || o.gen != g)
    && s.ports.all fun e => e.2.outReqs.all fun q => q.part != p || q.gen != g

/-! ### Pages (Table 20.1) -/

/-- The pages of a partition's clusters and cores. -/
def State.partPages (s : State) (p : Nat) : List Nat :=
  (s.clustersOf p).flatMap (fun c => [pk tCSQ c, pk tTXU c])
    ++ (s.coresOf p).flatMap fun k => [pk tCORE k, pk tFEED k, pk tVEC k, pk tCBUF k]

/-- The shared blocks that a device compute reset clears (R412). -/
def devPages : List Nat :=
  [pk tGFE 0, pk tEMIT 0] ++ (List.range 8).flatMap (fun t => [pk tMOVER t, pk tKPM t, pk tXLAT t])
    ++ (List.range 16).map fun e => pk tFOLD e

/-- BLK_STAT reads resetting on pages. -/
def State.markResetting (s : State) (l : List Nat) : State := s.each l fun s k => s.modHdr k fun h => { h with resetting := true }

/-- Resetting, hung and CRESET clear on pages. -/
def State.unmarkResetting (s : State) (p : Nat → Bool) : State :=
  { s with hdrs := s.hdrs.map fun e => if p e.1 then (e.1, { e.2 with resetting := false, creset := false, hung := false }) else e }

/-! ### Triggers (R406, R407) -/

/-- A trigger of a partition compute reset. It merges where the partition is resetting, quarantined or being torn down, or while a
device compute reset is in progress. -/
def State.triggerReset (s : State) (p cause : Nat) (drop noCqe : Bool) : State :=
  let q := s.part p
  if 32 ≤ p ∨ q.rst ≠ 0 ∨ q.state ≠ .active ∨ s.sage.devRst ≠ 0 ∨ s.sage.oos = true ∨ s.sage.fatal.isSome then s
  else s.modPart p fun q =>
    { q with rst := 1, rstCause := cause, rstDrop := drop, rstNoCqe := noCqe, rstTrigger := s.time.now,
             rstHung := if cause = 0x11 then s.sage.hung else 0 }

/-- A trigger of a device compute reset. -/
def State.triggerDevice (s : State) (cause : Nat) (noCqe : Bool) : State :=
  if s.sage.devRst ≠ 0 ∨ s.sage.fatal.isSome then s
  else s.modSage fun g =>
    { g with devRst := 1, devCause := cause, devNoCqe := noCqe, devTrigger := s.time.now,
             devHung := if cause = 0x14 then g.hung else 0 }

/-- PRESET (R406, Table 18.10). -/
def execPreset (v : W64) (s : State) : Out := whenOk s.up (s.triggerReset (bits v 4 0) 0x12 (bitOf v 8) false) s

/-- DRESET. -/
def execDreset (v : W64) (s : State) : Out := whenOk (s.up && bitOf v 0) (s.triggerDevice 0x12 false) s

/-! ### Reset records (R413, Tables 18.6, 18.7, 18.11 to 18.13) -/

/-- An absent step number. -/
def noStep : Nat := 0xFFFFFFFFFFFFFFFF

def fnBit : Fn → Nat
  | .pf => 1
  | .vf _ => 0

/-- A QUEUES item of an SQ. -/
def State.sqItem (s : State) (fn : Fn) (q : Nat) : Bytes :=
  let x := s.sq (qKey fn q)
  let st := if x.draining then 4 else match x.state with | .disabled => 0 | .normal => 1 | .failed => 2 | .broken => 3
  let id := if x.head = x.tail then 0xFFFFFFFF else (launchIdOf x.wraps x.head).toNat
  leBytes 16 (packNat [⟨5, 0, q⟩, ⟨8, 8, fnBit fn⟩, bfld 2 1 st, bfld 4 2 x.head, bfld 6 2 x.tail, bfld 8 4 id])

/-- A QUEUES item of a CQ. -/
def State.cqItem (s : State) (fn : Fn) (q : Nat) : Bytes :=
  let x := s.cq (qKey fn q)
  let st := if x.broken then 3 else if x.enabled then 1 else 0
  leBytes 16 (packNat [⟨5, 0, q⟩, ⟨8, 8, fnBit fn⟩, ⟨9, 9, 1⟩, bfld 2 1 st, bfld 4 2 x.head, bfld 6 2 x.tail, bfld 8 4 x.lastId.toNat])

/-- The QUEUES section: the partition's SQs and CQs, and PF SQs that hold an entry naming it. -/
def State.queueItems (s : State) (p : Nat) : List Bytes :=
  (List.range 64).map (s.sqItem (.vf p)) ++ (List.range 64).map (s.cqItem (.vf p))
    ++ ((List.range 16).filter fun q => s.ents.any fun e => e.fn == .pf && e.sq == q && e.part == p).map (s.sqItem .pf)

/-- Entries fetched and not completed: launches and others (a record holds up to 256 of them). -/
def State.liveEnts (s : State) (p : Nat) : List Entry := s.ents.filter fun e => e.part == p && e.st != .done

/-- A LAUNCHES item. -/
def State.launchItem (s : State) (e : Entry) : Bytes :=
  let step := match e.step with | some n => n | none => noStep
  let at_ := if e.step = some (s.ctx e.part).cur then (s.ctx e.part).attempt else 0
  let st := match e.st with | .fetched => 0 | .placed => 1 | _ => 2
  leBytes 64 e.raw.toNat ++ leBytes 16 (packNat [bfld 0 8 step, bfld 8 1 at_, bfld 9 1 st, ⟨85, 80, e.sq⟩, ⟨87, 87, fnBit e.fn⟩,
    bfld 12 4 e.launchId.toNat])

/-- The FENCES section: fences that a wait or a signal of a LAUNCHES item names, each once. -/
def State.fenceItems (s : State) (p : Nat) : List Bytes :=
  let l := ((s.liveEnts p).take 256).flatMap fun e => ((entWaitL e.raw ++ entSigL e.raw).filter fun w => !w.sem).map fun w => (e.ctx, w.idx)
  l.eraseDups.map fun x => leBytes 8 x.2 ++ leBytes 8 (s.fence p x.1 x.2)

/-- The in-flight count of a SHARED item: the partition's, or BRIDGE.CRUMB_INFLIGHT, which counts all. -/
def State.pageInflight (s : State) (p k : Nat) : Nat :=
  let u := keyUnit k
  let t := keyTyp k
  if t = tMOVER then s.mvInflight u p else if t = tKPM then s.kpmInflight u p
  else if t = tELREN then s.elInflight u p else if t = tFOLD then s.foldInflight u p
  else if t = tBRIDGE then s.crumbsAt u else 0

/-- Tile and steward-die blocks. -/
def sharedPages : List Nat :=
  ((List.range 14).map fun i => pk (i + 1) 0)
    ++ (List.range 8).flatMap (fun t => [pk tSTORE t, pk tMOVER t, pk tKPM t, pk tXLAT t, pk tNEAR (2 * t), pk tNEAR (2 * t + 1), pk tBRIDGE t])
    ++ (List.range 16).flatMap fun e => [pk tELREN e, pk tFOLD e]

def State.sharedItem (s : State) (p k : Nat) : Bytes :=
  leBytes 32 (packNat [bfld 0 4 (blkId k), bfld 4 4 (s.blkStat k), bfld 8 8 (s.hdr k).progress.toNat, bfld 16 4 (s.pageInflight p k)])

/-- Sections laid out one behind the other: type, offset, length and item count of each. -/
def sectionDir : Nat → List (Nat × Nat × Bytes) → List (Nat × Nat × Nat × Nat)
  | _, [] => []
  | o, x :: r => (x.1, o, x.2.2.length, x.2.1) :: sectionDir (o + x.2.2.length) r

/-- What the record header states of one reset. -/
structure RecHead where
  part : Nat
  flags : Nat
  cause : Nat
  trigger : W64
  start : W64
  hung : W64

/-- The operation index of the record on a hung engine: of a core's engine, the record that it runs. -/
def State.hungOp (s : State) (hung : W64) : Nat :=
  let typ := bits hung 31 24
  let unit := bits hung 23 8
  let eng := bits hung 34 32
  if 0x30 ≤ typ ∧ typ ≤ 0x32 then
    match (s.execs unit eng).getLast? with
    | some x => x.q.opidx.toNat
    | none => 0xFFFFFFFF
  else 0xFFFFFFFF

/-- A reset record's bytes, with the sections whose items the spec lays out; the items of the others are open but for their number
(log entry 42). -/
def State.recordBytes (s : State) (h : RecHead) (shared : Bool) : Bytes × State :=
  let p := h.part
  let c := s.ctx p
  let qs := s.queueItems p
  let ls := (s.liveEnts p).take 256
  let fs := s.fenceItems p
  let sems := (List.range 4096).map fun i => leBytes 4 (s.sem p (s.activeCtx p) i)
  let nc := (s.coresOf p).length
  let nl := (s.clustersOf p).length
  let q1 := s.freshBytes (512 * nc)
  let q2 := q1.2.freshBytes (64 * nl)
  let q3 := q2.2.freshBytes (64 * nl)
  let q4 := q3.2.freshBytes (64 * 16)
  let base : List (Nat × Nat × Bytes) :=
    [(1, qs.length, qs.flatten), (2, ls.length, ls.flatMap s.launchItem), (3, fs.length, fs.flatten), (4, 4096, sems.flatten),
     (5, nc, q1.1), (6, nl, q2.1), (7, nl, q3.1), (8, 16, q4.1)]
  let secs := if shared then base ++ [(9, sharedPages.length, sharedPages.flatMap (s.sharedItem p))] else base
  let body := secs.flatMap fun x => x.2.2
  let undecided := if (s.stepLaunch p c.cur).isSome || c.slotStart.isSome || c.slotNum.isSome then c.cur else noStep
  let dir := (sectionDir 256 secs).zipIdx.flatMap fun x =>
    [bfld (64 + 16 * x.2) 4 x.1.1, bfld (68 + 16 * x.2) 4 x.1.2.1, bfld (72 + 16 * x.2) 4 x.1.2.2.1, bfld (76 + 16 * x.2) 4 x.1.2.2.2]
  let op := if h.hung = 0 then 0xFFFFFFFF else s.hungOp h.hung
  let head := packNat ([bfld 0 4 0x53455352, bfld 4 1 1, bfld 5 1 h.flags, bfld 6 1 p, bfld 7 1 (s.part p).gen.toNat, bfld 8 2 h.cause,
    bfld 10 2 secs.length, bfld 12 4 (256 + body.length), bfld 16 8 h.trigger.toNat, bfld 24 8 h.start.toNat,
    bfld 32 8 (c.lastCommit.getD noStep), bfld 40 8 undecided, bfld 48 1 c.attempt, bfld 52 4 (bits h.hung 31 0), bfld 56 4 op,
    bfld 60 1 (bits h.hung 34 32)] ++ dir)
  (leBytes 256 head ++ body, q4.2)

/-- The lowest free store slot. -/
def freeSlot (l : List ResetRec) : Nat := ((List.range 64).find? fun i => !l.any fun r => r.slot == i).getD 0

/-- A record collected (R415): with every slot holding an uncopied one, the oldest makes room and is counted lost. -/
def State.collect (s : State) (h : RecHead) (shared : Bool) : State :=
  let q := s.recordBytes h shared
  let full := decide (64 ≤ q.2.sage.recs.length)
  let s1 := if full then q.2.bump pgSAGE 0x070 1 else q.2
  let kept := if full then s1.sage.recs.drop 1 else s1.sage.recs
  let r : ResetRec := ⟨h.part, q.1, h.cause, h.start, (s.ctx h.part).lastCommit, freeSlot kept, none⟩
  s1.modSage fun g => { g with recs := kept ++ [r], handover := g.handover ++ [r] }

/-- Records copied to the host record ring while it has room and no write faults, in order (R415). `fault` is of the first. -/
def State.copyRecords : Nat → Bool → State → State
  | 0, _, s => s
  | n + 1, fault, s =>
    let slots := bits (s.rg pgSAGE 0x258) 7 0
    let head := bits (s.rg pgSAGE 0x268) 7 0
    let t := s.sage.recTail
    let next := (t + 1) % max 1 slots
    let at_ := s.rgN pgSAGE 0x250 / 2 ^ 18 * 2 ^ 18 + 2 ^ 18 * t
    match s.sage.recs with
    | [] => s
    | r :: rest =>
      if slots = 0 ∨ next = head then s
      else if s.writeFaults .pf fault then s.hostFault .pf at_ 1 3
      else
        let s1 := (s.hostWrite .pf at_ r.bytes).modSage fun g =>
          { g with recs := rest, recTail := next,
                   handover := g.handover.map fun (x : ResetRec) => if x.slot = r.slot && x.ring.isNone then { x with ring := some t } else x }
        State.copyRecords n false s1

/-- RESET_RECORD_COPY (R415). -/
def execResetRecordCopy (fault : Bool) (s : State) : Out :=
  whenOk (s.up && !s.sage.recs.isEmpty) (s.copyRecords 1 fault) s

/-- The RESET_RECORD notice of a record (R414). The index of a record that is not in the ring is open (log entry 42). -/
def recordNotice (r : ResetRec) (idx : Nat) (now : W64) : Notice :=
  pack 512 [bfld 4 4 idx, bfld 8 2 0x50, bfld 10 2 r.cause, bfld 16 8 r.start.toNat, bfld 24 8 now.toNat,
    bfld 32 8 (r.lastCommit.getD noStep), bfld 56 1 1, bfld 57 1 (0x80 + r.part)]

/-- Records handed over at a reset's completion: copied where there is room, and a notice for each. -/
def State.handOver (s : State) : State :=
  let s1 := s.copyRecords 64 false
  let l := s1.sage.handover
  let s2 := s1.modSage fun g => { g with handover := [] }
  s2.each l fun s r =>
    match r.ring with
    | some i => s.notice (recordNotice r i s.time.now)
    | none => let q := s.fresh 32
              q.2.notice (recordNotice r q.1 s.time.now)

/-! ### What a compute reset clears (R94, R118, R409, R410) -/

/-- Copies on write and moves cut short are undone; they and the operations that have not taken effect are dropped, and counted in
STALE_DROP (R256). -/
def State.kpmCut (s : State) (p : Nat) : State :=
  s.each (List.range 8) fun s t =>
    let cows := (s.kpm t).streams.filterMap fun k => if k.part = p then k.cow.map fun c => (k, c) else none
    let s1 := s.each cows fun s x => s.cowUndo t ⟨p, x.1.ctx, none, t, 0, false⟩ x.1 x.2
    let gone := (s.kpm t).ops.filter fun o => o.part == p && (o.st == .accepted || cows.any fun x => x.2.op == o.id)
    (s1.modKpm t fun x => { x with ops := x.ops.filter fun o => !gone.contains o }).bump (pgKPM t) 0x078 gone.length

/-- Movers remove the descriptors of a partition that have not started; the others signal nothing, and are over once what they have
asked for has returned (R139). -/
def State.mvReset (s : State) (p : Nat) : State :=
  { s with movers := s.movers.map fun e => (e.1, { e.2 with
      descs := (e.2.descs.filter fun d => isSteward d || d.part != p || d.st != .accepted).map fun (d : MDesc) =>
        if isSteward d || d.part != p then d
        else { d with noSignal := true, st := if s.mvOutstanding e.1 d.id then d.st else .done } }) }

/-- A core cleared; its first-fault registers stay (R442). -/
def CoreSt.clear (c : CoreSt) : CoreSt :=
  { CoreSt.zero with fault := c.fault, faultSet := c.faultSet, cbErr := c.cbErr, lastOvf := c.lastOvf }

/-- A core buffer written with zero: what an upset had left in it is gone. -/
def State.zeroBuffer (s : State) (k : Nat) : State :=
  { s with cb := s.cb.filter (fun c => !decide (k * 2 ^ 23 ≤ c.1 ∧ c.1 < (k + 1) * 2 ^ 23)),
           upsets := Tbl.drop s.upsets (fun w => decide (cbWord k 0 ≤ w ∧ w < cbWord (k + 1) 0)) }

/-- A TXU cleared; its first-error register stays. What it had asked of other modules is awaited no longer. -/
def TxuSt.clear (t : TxuSt) : TxuSt := { TxuSt.zero with nextId := t.nextId, firstErr := t.firstErr, errSet := t.errSet }

/-- A partition's part of a fold engine cleared. -/
def FoldPart.reset (f : FoldPart) : FoldPart :=
  { FoldPart.zero with firstErr := f.firstErr, firstInfo := f.firstInfo, errSet := f.errSet }

/-- The step context frozen: no beacon, no attempt running; its binding, step number and the decisions it receives stay. -/
def CtxSt.freeze (c : CtxSt) : CtxSt :=
  { c with frozen := true, running := false, widening := false, rewind := none, marks := [], variants := [], lastAxis := [], asked := [],
           askLater := [], seqDone := 0, logged := [], widened := false, saidExpert := false }

/-- Host copies in progress end; what they wrote is unknown (R411). -/
def State.cutCopies (s : State) (p : Nat) (err : Err) : State :=
  s.each (s.ents.filter fun e => e.part == p && e.busy && entOpc e.raw == 3) fun s e =>
    let s1 := if entFlag e.raw 0 then s else
      let b := s.freshBytes (byteFld e.raw 4 4)
      (b.2.writeVa .store false (entAcc e) (entOperand e.raw 1 % 2 ^ 49) b.1).2
    s1.entDone e.uid err

/-- From the freeze to the clearing of the cores: staging discarded, the generation advanced, engines cleared. -/
def State.clearPartition (s : State) (p : Nat) : State :=
  let s1 := ((s.kpmCut p).discardFrom p (s.ctx p).cur false true).mvReset p
  let s2 := s1.each (s1.coresOf p) fun s k => (s.modCore k CoreSt.clear).zeroBuffer k
  let s3 := s2.each (s2.clustersOf p) fun s c =>
    (((s.modSeq c fun q => { SeqSt.zero with firstErr := q.firstErr }).modTxu c TxuSt.clear).forgetSent c fun _ => true)
  let s4 := s3.each ((List.range 16).filter fun e => (s3.foldE e).parts.any fun x => x.1 == p) fun s e => s.modFpart e p FoldPart.reset
  let s5 := (s4.modPart p fun q => { q with gen := q.gen + 1, grant := none }).modCtx p CtxSt.freeze
  s5.modSage fun g => { g with runs := Tbl.drop g.runs fun k => (s.partPages p).contains (k / 8) }

/-- A commit decision received and not yet applied (R408). -/
def State.commitPending (s : State) (p : Nat) : Bool :=
  match (s.ctx p).pend with
  | some d => d.kind == .commit
  | none => false

/-- SAGE.LAST. -/
def lastWord (cause p dev : Nat) : W64 := pack 64 [⟨15, 0, cause⟩, ⟨20, 16, p⟩, ⟨21, 21, dev⟩]

/-- Times of a history that lie within `secs` s of now. -/
def recent (now : Nat) (secs : Nat) (l : List W64) : List W64 := l.filter fun t => decide (now ≤ t.toNat + secs * 1000000000)

/-- PARTITION_COMPUTE_RESET (R409): it starts once no commit is pending and the next generation is free. -/
def execPartitionComputeReset (p : Nat) (s : State) : Out :=
  let q := s.part p
  if !s.up || s.sage.fatal.isSome || q.rst != 1 || s.sage.devRst == 2 || s.commitPending p || !s.genUnused p (q.gen + 1) then .next s
  else
    let counted := q.rstCause == 0x11
    let hs := if counted then recent s.now 600 q.hangs ++ [s.time.now] else q.hangs
    let quar := counted && decide (3 ≤ hs.length)
    let s1 := s.modPart p fun q => { q with rst := 2, rstStart := s.time.now, hangs := hs, quarantining := quar }
    let s2 := s1.collect ⟨p, packNat [⟨2, 2, b2n quar⟩], q.rstCause, q.rstTrigger, s.time.now, q.rstHung⟩ false
    let s3 := ((s2.bump pgSAGE 0x048 1).bumpHi pgSAGE 0x048 (b2n counted)).modSage fun g => { g with last := lastWord q.rstCause p 0 }
    .next ((((s3.cutCopies p ⟨0x0050, 1⟩).clearPartition p).markResetting (s.partPages p)).debugEvent 12 p)

/-! ### Completion -/

/-- An entry that a reset ends. With `noCqe` (R433) it writes no CQ entry: its signals are made and it is gone, counted with its
token records in PCIE.DISCARDED. -/
def State.endEntry (s : State) (e : Entry) (err : Err) (noCqe : Bool) : State :=
  let s1 := s.dropLaunch e.uid
  if noCqe then
    let n := (s1.relOf e.uid).length
    let s2 := (s1.signalEnt { e with status := err }).modEmit fun g => { g with rel := g.rel.filter fun h => h.uid != e.uid }
    (({ s2 with ents := s2.ents.filter fun x => x.uid != e.uid }).bump (pk tPCIE 0) 0x070 1).bumpHi (pk tPCIE 0) 0x070 n
  else
    let reps := if e.step = some (s.ctx e.part).cur then (s.ctx e.part).attempt else e.repeats
    (s1.modEnt e.uid fun x => { x with repeats := reps }).entDone e.uid err

/-- A slot or decision has been announced for the context's oldest undecided step. -/
def CtxSt.opened (c : CtxSt) : Bool := c.slotStart.isSome || c.slotNum.isSome || c.pend.isSome || decide (0 < c.attempt)

/-- Every entry that a partition holds ends; the next launch runs as the next step: behind an undecided one where the job has
opened it (R411, R412, log entry 43). -/
def State.endEntries (s : State) (p : Nat) (err : Err) (noCqe : Bool) : State :=
  let s1 := s.each (s.liveEnts p) fun s e => s.endEntry e err noCqe
  s1.modCtx p fun c => { c with nextStep := min c.nextStep (if c.opened then c.cur + 1 else c.cur) }

/-- Kept launches are placed again, in step order, the constants that were copied at placement copied again (R216, R411). -/
def State.placeAgain (s : State) (p : Nat) : State :=
  let live := s.ents.filter fun e => e.part == p && (e.st == .placed || e.st == .running)
  let order := (List.range 32).flatMap fun i => live.filter fun e => e.step == some ((s.ctx p).cur + i)
  s.each order fun s e =>
    match s.planOf p e.planH with
    | none => s
    | some q =>
      let s1 := s.copyConsts e e.consts q (e.step.getD 0)
      (s1.each (s1.launchClusters p q) fun s c => s.modSeq c fun x => { x with launches := x.launches ++ [e.uid], placing := true }).modEnt
        e.uid fun x => { x with st := .placed }

/-- The context serves again: it rejoins at a slot that starts from now on (R411). -/
def State.unfreeze (s : State) (p : Nat) : State := s.modCtx p fun c => { c with frozen := false, rejoinAt := s.time.now }

/-- Step 2 of a teardown (Table 16.4): the generation advances, the partition's compute is cleared with no record, and its entries
end with TEARDOWN. -/
def State.teardownReset (s : State) (p : Nat) : State :=
  (((s.cutCopies p ⟨0x0051, 0⟩).clearPartition p).endEntries p ⟨0x0051, 0⟩ false).modPart p fun q => { q with tdStep := 3 }

/-- A teardown that has waited goes on once the next generation is free. -/
def State.teardownGo (s : State) (p : Nat) : State :=
  if (s.part p).tdStep = 1 ∧ s.genUnused p ((s.part p).gen + 1) = true then s.teardownReset p else s

/-- A partition quarantined (R416, R417). -/
def State.quarantine (s : State) (p : Nat) (noCqe : Bool) : State :=
  ((s.endEntries p ⟨0x0050, 3⟩ noCqe).modPart p fun q => { q with state := .quarantined, quarantining := false }).raise pgSAGE 2

/-- A function that has answered Request Retry Status is ready again, and says so (R433, R434). -/
def State.frs (s : State) (fn : Fn) : State :=
  if bitOf s.pcie.rrs (fnKey fn) then (s.modPcie fun x => { x with rrs := clrBit x.rrs (fnKey fn) }).send (.frs fn) else s

/-- PARTITION_RESET_COMPLETE (R409 to R411, R414, R416). -/
def execPartitionResetComplete (p : Nat) (s : State) : Out :=
  let q := s.part p
  if !s.up || s.sage.fatal.isSome || q.rst != 2 || s.sage.devRst == 2 then .next s
  else
    let s1 := (s.modPart p fun q => { q with rst := 0, rstNoCqe := false }).unmarkResetting fun k => (s.partPages p).contains k
    let s2 := if q.tdStep ≠ 0 then s1.teardownGo p
      else if q.quarantining then s1.quarantine p q.rstNoCqe
      else if q.rstDrop then (s1.endEntries p ⟨0x0050, 1⟩ q.rstNoCqe).unfreeze p
      else (s1.placeAgain p).unfreeze p
    .next ((s2.handOver.frs (.vf p)).raise pgSAGE 1)

/-! ### The device compute reset (R412) -/

/-- ACTIVE partitions, and those being torn down whose compute is not yet reset. -/
def State.activeParts (s : State) : List Nat := (List.range 32).filter fun p => (s.part p).state == .active

/-- The descriptors a mover holds after a device compute reset: those of partitions that have started; and the interrupted MIGRATEs,
which the steward posts again as new ones. -/
def MoverSt.clear (m : MoverSt) (tail : Nat) : MoverSt :=
  let again := (m.descs.filter fun d => isSteward d && (mvOf d.raw).op == 7).zipIdx.map fun x =>
    MDesc.new (m.nextId + x.2) .steward 0 0 0 0 0 0 x.1.raw
  { m with descs := (m.descs.filter fun d => !isSteward d && d.st != .accepted).map (fun (d : MDesc) => { d with noSignal := true }) ++ again,
           nextId := m.nextId + again.length, pqHead := tail, pqNext := tail }

/-- Shared blocks cleared (R412). -/
def State.clearShared2 (s : State) : State :=
  let s1 := { s with
    movers := s.movers.map (fun (e : Nat × MoverSt) => (e.1, e.2.clear (bits (s.rg (pk tMOVER e.1) 0x2A0) 12 0))),
    kpms := s.kpms.map (fun (e : Nat × KpmSt) => (e.1, { e.2 with ops := [] })),
    xlats := s.xlats.map (fun (e : Nat × XlatSt) => (e.1, { e.2 with cache := [] })),
    txus := s.txus.map (fun (e : Nat × TxuSt) => (e.1, e.2.clear)),
    folds := s.folds.map fun (e : Nat × FoldSt) => (e.1, { e.2 with parts := e.2.parts.map fun (x : Nat × FoldPart) => (x.1, x.2.reset) }) }
  s1.each (List.range 32) fun s c => s.forgetSent c fun _ => true

/-- DEVICE_COMPUTE_RESET (R408, R412): it starts once no context has a commit pending, takes over partition resets in progress, and
does for every ACTIVE partition what R409 does for one. -/
def execDeviceComputeReset (s : State) : Out :=
  let ps := s.activeParts
  if !s.up || s.sage.fatal.isSome || s.sage.devRst != 1 || (List.range 32).any s.commitPending
      || ps.any (fun p => !s.genUnused p ((s.part p).gen + 1)) then .next s
  else
    let g := s.sage
    let counted := g.devCause == 0x14 || g.devCause == 0x15
    let hist := if counted then recent s.now 3600 g.counted ++ [s.time.now] else g.counted
    let oos := counted && decide (4 ≤ hist.length)
    let s1 := s.modSage fun g => { g with devRst := 2, devStart := s.time.now, counted := hist, last := lastWord g.devCause 0 1 }
    let s2 := (s1.bump pgSAGE 0x050 1).bumpHi pgSAGE 0x050 (b2n counted)
    let flags := packNat [⟨0, 0, 1⟩, ⟨1, 1, b2n g.stewardRst⟩, ⟨3, 3, b2n oos⟩]
    let s3 := s2.each ps fun s p =>
      s.collect ⟨p, flags, g.devCause, g.devTrigger, s.time.now, g.devHung⟩ (ps.head? == some p)
    let s4 := s3.each ps fun s p => ((s.cutCopies p ⟨0x0050, 2⟩).clearPartition p).markResetting (s.partPages p)
    let s5 := (s4.clearShared2).markResetting devPages
    .next (s5.each ps fun s p => (s.modPart p fun q => { q with rst := 2 }).debugEvent 12 p)

/-- The module goes out of service (R418): every stack and rank in self-refresh; ports count as fenced while it is. -/
def State.goOos (s : State) : State :=
  ((s.each (List.range 32) fun s u => s.modTier u fun t => { t with selfRefresh := true }).modSage fun g => { g with oos := true }).raise pgSAGE 3

/-- DEVICE_RESET_COMPLETE (R412, R414, R416, R418). -/
def execDeviceResetComplete (s : State) : Out :=
  let g := s.sage
  if !s.up || g.fatal.isSome || g.devRst != 2 then .next s
  else
    let counted := g.devCause == 0x14 || g.devCause == 0x15
    let oos := counted && decide (4 ≤ g.counted.length)
    let err : Err := if oos then ⟨0x0050, 3⟩ else ⟨0x0050, 2⟩
    let mine := (List.range 32).filter fun p => (s.part p).rst == 2
    let s1 := (s.modSage fun g => { g with devRst := 0 }).unmarkResetting fun _ => true
    let s2 := s1.each (List.range 32) fun s p => s.endEntries p err (g.devNoCqe || ((s.part p).rst != 0 && (s.part p).rstNoCqe))
    let s3 := s2.each mine fun s p =>
      let q := s.part p
      let s' := s.modPart p fun q => { q with rst := 0, rstNoCqe := false }
      if q.tdStep ≠ 0 then s'.teardownGo p
      else if q.quarantining then (s'.modPart p fun q => { q with state := .quarantined, quarantining := false }).raise pgSAGE 2
      else if oos then s'
      else s'.unfreeze p
    let s4 := (if oos then s3.goOos else s3).handOver
    .next ((s4.each (List.range 33) fun s k => s.frs (keyFn k)).raise pgSAGE 1)

end Sys2Proof.Machine
end

