-- ==== Sys2Proof/Machine/Sage.lean ====
section
/-! DEFINITION. Machine/Sage.lean: progress samples and hangs, the steward watchdog, fatal errors and the dump (R399 to R405,
R419 to R422). -/

namespace Sys2Proof.Machine

open Sys2Proof

/-! ### Samples and hangs (R402, R403, R405) -/

/-- The proof window of a domain, in µs (R402). -/
def State.windowOf (s : State) (d : SageDom) : Nat :=
  match d with
  | .part p => s.partWindow p
  | .shared => bits (s.rg pgSAGE 0x208) 25 0

def domKey : SageDom → Nat
  | .part p => p
  | .shared => 32

/-- One engine sampled. -/
def State.sampleOne (s : State) (v : EngView) : State :=
  let s1 := s.bump pgSAGE 0x058 1
  let s2 := if (v.holds && v.waits) || v.halted then s1.bump pgSAGE 0x060 1 else s1
  let r := s.sage.runs.find? fun x => x.1 == v.key
  let n := if !v.holds || v.waits || v.halted then 0 else
    match r with
    | some x => if x.2.prog = v.prog then x.2.n + 1 else 1
    | none => 1
  let s3 := s2.modSage fun g => { g with runs := if n = 0 then Tbl.drop g.runs (· == v.key) else Tbl.set g.runs v.key ⟨v.prog, n⟩ }
  let still := s3.sage.runs.any fun x => x.1 / 8 == v.key / 8 && decide (17 ≤ x.2.n)
  s3.modHdr (v.key / 8) fun h => { h with hung := h.hung && still }

/-- A hang (R405, Table 18.2): memories, links and TIME are never reset. -/
def State.hang (s : State) (v : EngView) : State :=
  let k := v.key / 8
  let typ := keyTyp k
  let s1 := (s.modSage fun g => { g with hung := pack 64 [⟨31, 0, blkId k⟩, ⟨34, 32, v.key % 8⟩] }).modHdr k fun h => { h with hung := true }
  let s2 := s1.raise pgSAGE 0
  let only := bitOf (s.rg pgSAGE 0x200) 1
  if typ = tCSQ ∨ typ = tTXU ∨ (0x30 ≤ typ ∧ typ ≤ 0x33) then
    let s3 := s2.bump pgSAGE 0x040 1
    let owner := if typ = tCSQ ∨ typ = tTXU then s.ownerOf (keyUnit k) else s.coreOwner (keyUnit k)
    match owner with
    | some p => if only then s3 else s3.triggerReset p 0x11 false false
    | none => s3
  else if typ = tSTORE ∨ typ = tNEAR ∨ typ = tBRIDGE ∨ typ = tELREN ∨ typ = tTIME then (s2.bump pgSAGE 0x078 1).raise pgSAGE 6
  else
    let s3 := s2.bumpHi pgSAGE 0x040 1
    if only then s3 else s3.triggerDevice 0x14 false

/-- SAGE_SAMPLE (R402, R403): a sixteenth of the domain's window after the last. While an engine of a partition is halted by the
debug port, no sample of the partition is counted and its runs restart. -/
def execSageSample (d : SageDom) (s : State) : Out :=
  let last := (s.sage.lastSample.find? fun x => x.1 == domKey d).map (·.2)
  let due := match last with
    | some t => decide (t.toNat + 1000 * s.windowOf d / 16 ≤ s.now)
    | none => true
  let pOk := match d with | .part p => decide (p < 32) | .shared => true
  if !s.up || s.sage.fatal.isSome || !due || !pOk then .next s
  else
    let s0 := s.modSage fun g => { g with lastSample := Tbl.set g.lastSample (domKey d) s.time.now }
    let halted := match d with | .part p => s.partHalted p | .shared => false
    if halted then
      match d with
      | .part p => .next (s0.modSage fun g => { g with runs := Tbl.drop g.runs fun k => (s.partPages p).contains (k / 8) })
      | .shared => .next s0
    else
      let l := s.domEngines d
      let s1 := s0.each l State.sampleOne
      if bitOf (s.rg pgSAGE 0x200) 0 then
        .next (s1.each (l.filter fun v => (Tbl.get ⟨0, 0⟩ s1.sage.runs v.key).n == 17) State.hang)
      else .next s1

/-! ### The watchdog (R419) -/

/-- WDOG_KICK: of the steward only (R422). -/
def execWdogKick (v : W64) (s : State) : Out :=
  whenOk (s.up && bitOf v 0 && (s.boot.code == 3 || s.boot.code == 4)) (s.modSage fun g =>
    { g with kickAt := s.time.mono, wdogHeld := if g.wdogHeld.isSome then some s.time.mono else none }) s

/-- WATCHDOG: the interval passed without a kick, while no steward core is halted (R403). During a steward restart it is fatal
(Table 18.8). -/
def execWatchdog (s : State) : Out :=
  let len := 1000 * bits (s.rg pgSAGE 0x210) 19 0
  let fw := s.boot.code == 3 || s.boot.code == 4
  if !s.up || s.sage.fatal.isSome || !fw || s.sage.wdogHeld.isSome || decide (s.time.mono < s.sage.kickAt + len) then .next s
  else if s.sage.stewardRst then .next ((s.raise pgSAGE 4).fatalNow 4)
  else
    let s1 := (s.modSage fun g => { g with stewardRst := true, kickAt := s.time.mono }).modDebug fun d =>
      { d with stewHalted := 0, stewRegs := [], stewBps := [] }
    .next ((s1.raise pgSAGE 4).triggerDevice 0x15 false)

/-- STEWARD_RESTART_DONE: the firmware copy was checked; one whose digest does not match is fatal. -/
def execStewardRestartDone (digestOk : Bool) (s : State) : Out :=
  if !s.up || s.sage.fatal.isSome || !s.sage.stewardRst then .next s
  else if !digestOk then .next (s.fatalNow 4)
  else .next (s.modSage fun g => { g with stewardRst := false, kickAt := s.time.mono })

/-! ### Fatal errors and the dump (R420, R421) -/

/-- FATAL: of the causes of Table 18.8. -/
def execFatal (cause : Nat) (s : State) : Out := whenOk (s.up && decide (1 ≤ cause ∧ cause ≤ 5)) (s.fatalNow cause) s

/-- DUMP_DONE: the dump's length in units of 4 KiB, at most 2 GiB; or none could be written. -/
def execDumpDone (ok : Bool) (len4k : Nat) (s : State) : Out :=
  whenOk (s.up && s.sage.fatal.isSome && !s.sage.dumpDone && !s.sage.dumpNone)
    (s.modSage fun g => { g with dumpDone := ok, dumpNone := !ok, dumpLen := if ok then min len4k (2 ^ 19) else 0 }) s

/-- DUMP_GO: a range of a dump goes to host memory. -/
def execDumpGo (v : W64) (s : State) : Out :=
  let off := s.rgN pgSAGE 0x280 / 4096 * 4096
  let len := s.rgN pgSAGE 0x288 / 4096 * 4096
  whenOk (s.up && bitOf v 0 && s.sage.dumpDone && !s.sage.dumpBusy)
    ((s.modSage fun g => { g with dumpBusy := true, dumpFault := false }).send
      (.dump (BitVec.ofNat 64 (s.rgN pgSAGE 0x278 / 4096 * 4096)) off len)) s

/-- DUMP_COPY_DONE. -/
def execDumpCopyDone (fault : Bool) (s : State) : Out :=
  if !s.up || !s.sage.dumpBusy || !s.bme .pf then .next s
  else
    let f := s.writeFaults .pf fault
    let s1 := s.modSage fun g => { g with dumpBusy := false, dumpFault := f, dumpCopies := g.dumpCopies + 1 }
    .next (if f then s1.hostFault .pf (s.rgN pgSAGE 0x278 / 4096 * 4096) 1 3
      else (s1.translate .pf (s.rgN pgSAGE 0x278 / 4096 * 4096) (s.rgN pgSAGE 0x288 / 4096 * 4096)).bump64 (pk tPCIE 0) 0x040
        (s.rgN pgSAGE 0x288 / 4096 * 4096))

end Sys2Proof.Machine
end

