-- ==== Sys2Proof/Machine/Tiers.lean ====
section
/-! DEFINITION. Machine/Tiers.lean: near stacks, module and shelf ranks: bursts and crumbs, codes, scrub, repair,
retirement and bridge links (R142 to R170). -/

namespace Sys2Proof.Machine

open Sys2Proof

/-! ### Pages -/

/-- A page of the reserved region of R144. -/
def pageReserved (u page : Nat) : Bool := decide (u < 16 ∧ unitPages u - 64 ≤ page)

/-- A page that the steward holds: of the reserved region, or in place of a retired one of it (R163). -/
def State.pageSteward (s : State) (u page : Nat) : Bool := pageReserved u page || (s.tier u).steward.contains page

/-- Free pages of a unit: not the steward's, retired or owned. -/
def State.pageFree (s : State) (u page : Nat) : Bool :=
  !s.pageSteward u page && !(s.tier u).retired.contains page && (s.back (backKey u page)).owner.isNone

/-- The lowest free page of a unit. -/
def State.freePage (s : State) (u : Nat) : Option Nat := (List.range (unitPages u)).find? (s.pageFree u)

/-- Units of the tier of `u`, `u` first. -/
def tierMates (u : Nat) : List Nat :=
  let all := if u < 16 then List.range 16 else if u < 24 then (List.range 8).map (· + 16) else (List.range 8).map (· + 24)
  u :: all.filter (· != u)

/-! ### Scrub and repair (R161 to R163) -/

/-- A scrub correction in a row counts once a pass; the third pass fails the row (R162). -/
def State.scrubHit (s : State) (u row : Nat) : State :=
  let t := s.tier u
  if t.rowSeen.contains row then s
  else
    let n := Tbl.get 0 t.rowHits row + 1
    let s1 := s.modTier u fun t => { t with rowSeen := t.rowSeen ++ [row], rowHits := Tbl.set t.rowHits row n }
    if n < 3 then s1 else s1.rowFail u row

/-- TIER_SCRUB (R161): the next codeword is read at its pace, and a correction counts for its row. `err` strikes it first. -/
def execTierScrub (u : TierUnit) (err : CwErr) (s : State) : Out :=
  let k := unitKey u
  if !s.up || s.sage.fatal.isSome || !unitOk u || !bitOf (s.rg (tierPage k) 0x210) 0 || s.linkDownOf k || (s.tier k).selfRefresh then .next s
  else
    let off := (s.tier k).scrubOff
    let s0 := s.strike (.tier ((unitBase k + off) / 64) err)
    let res := cwDecode (s0.tier k).die (Tbl.get ⟨[], false, 0⟩ s0.cwUpsets ((unitBase k + off) / 64))
    let s1 := s0.meet (unitBase k + off) 64
    let s2 := match res with
      | .corrected _ => s1.scrubHit k (tierRow off)
      | .miscorrected => s1.scrubHit k (tierRow off)
      | _ => s1
    .next ((s2.modTier k fun t =>
      if off + 64 < unitSize k then { t with scrubOff := off + 64 }
      else { t with scrubOff := 0, passes := t.passes + 1, rowSeen := [], dieHits := [] }).progress (tierPage k) 1)

/-- PPR_DONE (R162): the oldest repair under way completes, and its spare is in use. -/
def execPprDone (u : TierUnit) (s : State) : Out :=
  let k := unitKey u
  match (s.tier k).repairing with
  | [] => .next s
  | row :: rest =>
    if !s.up then .next s
    else
      let g := rowGroup k row
      let s1 := s.modTier k fun t =>
        { t with repairing := rest, spares := Tbl.set t.spares g (Tbl.get 0 t.spares g + 1), rowHits := Tbl.drop t.rowHits (· == row) }
      .next ((s1.modTier (regUnit k) fun t =>
        { t with lastRepair := pack 64 [⟨42, 11, (unitBase k + 2048 * row) / 2048⟩, ⟨1, 0, 1⟩] }).raise (tierPage k) 1)

/-! ### Retirement (R163 to R165) -/

/-- RETIRE (Tables 7.8, 7.9): a write of NEAR.RETIRE or BRIDGE.RETIRE. -/
def execRetire (u : TierUnit) (page : Nat) (s : State) : Out :=
  let k := unitKey u
  whenOk (s.up && unitOk u && decide (page < unitPages k)) (s.retirePage k page) s

/-- A leaf that maps a page of a unit. -/
def leafIn (u page : Nat) (l : Leaf) : Bool :=
  let a := unitBase u + page * 2 ^ 21
  decide (1 ≤ l.target ∧ l.target ≤ 3 ∧ l.addr < a + 2 ^ 21 ∧ a < l.addr + 2 ^ l.log2)

/-- A 1 GiB leaf split into 512 leaves of 2 MiB (R163). -/
def splitLeaf (l : Leaf) : List Leaf :=
  if l.log2 = 30 then (List.range 512).map fun i => { l with va := l.va + i * 2 ^ 21, addr := l.addr + i * 2 ^ 21, log2 := 21 } else [l]

/-- What becomes of a leaf when a page migrates: where it maps the page it is split, and the part that maps it is MIGRATING. -/
def Leaf.migrate (u page : Nat) (l : Leaf) : List Leaf :=
  if leafIn u page l then (splitLeaf l).map fun x => { x with migrating := x.migrating || leafIn u page x }
  else [l]

/-- Leaves that map a page are split and marked MIGRATING (R140, R163). -/
def State.markMigrating (s : State) (u page : Nat) : State :=
  let s := s.migShow (unitBase u + page * 2 ^ 21)
  { s with parts := s.parts.map fun e => (e.1, { e.2 with leaves := e.2.leaves.flatMap (Leaf.migrate u page) }) }

/-- Pages under migration (R354: at most 8 ranges a unit). -/
def State.migrations (s : State) : Nat :=
  (s.movers.map fun e => (e.2.descs.filter fun d => isSteward d && (mvOf d.raw).op == 7).length).sum

/-- The MIGRATE descriptor of a page (R140): old and new tier physical addresses, POISON_OK. -/
def migrateDesc (src dst : Nat) : Desc :=
  pack 512 [bfld 0 1 7, bfld 1 1 2, bfld 4 4 1, ⟨127, 126, 1⟩, ⟨112, 64, src⟩, ⟨191, 190, 1⟩, ⟨176, 128, dst⟩, bfld 32 4 (2 ^ 21)]

/-- No free page of the tier exists: the page stays in service and its retirement is pending (R163). -/
def State.retirementPending (s : State) (u : Nat) : State :=
  (s.modTier u fun t => { t with retirePending := true }).modTier (regUnit u) fun t => { t with lastRepair := (t.lastRepair &&& ~~~3) ||| 3 }

/-- The steward retires a page and logs it (Table 6.5). -/
def State.retireLogged (s : State) (u page : Nat) : State :=
  let s1 := s.retirePage u page
  { s1 with stewLog := s1.stewLog ++ [.retirement (unitBase u + page * 2 ^ 21)] }

/-- RETIREMENT (R163): the steward deals with the oldest row that asks for it: a free page, or one of a partition being torn
down, is retired at once; one of the reserved region is replaced by a free page of any near stack; any other is migrated to the lowest free page of the tier, its own unit first; without one
the page stays in service and RETIRE_PENDING is set. -/
def execRetirement (u : TierUnit) (s : State) : Out :=
  let k := unitKey u
  match (s.tier k).retireReq with
  | [] => .next s
  | row :: _ =>
    let page := row / 1024
    let own := (s.back (backKey k page)).owner
    if !s.running || !unitOk u then .next s
    else
      let torn : Bool := match own with
        | some p => decide ((s.part p).state = .tearingDown ∨ (s.part p).state = .scrubbing)
        | none => true
      if s.pageSteward k page then
        -- a page of the steward's region: a free page of any near stack takes its place
        match (List.range 16).findSome? fun v => (s.freePage ((k + v) % 16)).map fun f => ((k + v) % 16, f) with
        | none => .next (s.retirementPending k)
        | some f => .next ((s.modTier f.1 fun t => { t with steward := t.steward ++ [f.2] }).retireLogged k page)
      else if torn then .next (s.retireLogged k page)
      else match (tierMates k).findSome? fun v => (s.freePage v).map fun f => (v, f) with
        | none => .next (s.retirementPending k)
        | some f =>
          if 8 ≤ s.migrations then .next s
          else
            let src := unitBase k + page * 2 ^ 21
            let dst := unitBase f.1 + f.2 * 2 ^ 21
            match s.postMover (tierTile k) .steward 32 0 0 0 0 (migrateDesc src dst) with
            | none => .next s
            | some r =>
              let b := s.back (backKey k page)
              .next (((r.2.markMigrating k page).modBack (backKey f.1 f.2) fun _ => b).modTier k fun t =>
                let rest := t.retireReq.filter fun r => r / 1024 != page
                { t with retirePending := t.retirePending && !rest.isEmpty, retireReq := rest })

/-- FLASH_APPEND (R165): the oldest retired page not yet in the list in flash is appended. -/
def execFlashAppend (s : State) : Out :=
  match s.boot.retireQueue with
  | [] => .next s
  | e :: rest => whenOk s.up (s.modBoot fun b =>
      { b with retireQueue := rest, retiredList := if b.retiredList.contains e then b.retiredList else b.retiredList ++ [e] }) s

/-- TIER_ADDR_CLR (R159): bit 0 clears CE_ADDR, bit 1 UE_ADDR. -/
def execTierAddrClr (u : TierUnit) (v : W64) (s : State) : Out :=
  whenOk (s.up && unitOk u) (s.modTier (regUnit (unitKey u)) fun t =>
    { t with ceAddr := if bitOf v 0 then 0 else t.ceAddr, ueAddr := if bitOf v 1 then 0 else t.ueAddr }) s

/-! ### Links, initialisation, refresh -/

/-- TIER_INIT (R169): in FIRMWARE every unit writes every codeword with zero, and the retired list is replayed (R165). The bridge
links are up from then on (log entry 26). -/
def execTierInit (s : State) : Out :=
  if !s.up || s.boot.code != 0x03 then .next s
  else
    let s1 := { s with mem := s.mem.filter (fun c => !inTier c.1), poison := s.poison.filter (fun w => !inTier w), cwUpsets := [] }
    let s2 := s1.each (List.range 8) State.bridgeUp
    let s3 := s2.each s2.boot.retiredList fun s e => s.retirePage e.1 e.2
    .next (s3.modBoot fun b => { b with tiersDone := true, retireQueue := b.retireQueue.filter fun e => !b.retiredList.contains e })

/-- REFRESH_2X (R462, Table 7.8): a tier die crosses 85 °C. -/
def execRefresh2x (u : TierUnit) (hot : Bool) (s : State) : Out :=
  whenOk (s.up && unitOk u) (s.modTier (unitKey u) fun t => { t with refresh2x := hot }) s

end Sys2Proof.Machine
end

