-- ==== Sys2Proof/Machine/Partition.lean ====
section
/-! DEFINITION. Machine/Partition.lean: partitions created, torn down and re-enabled; quotas; mapping requests and translation units
(R346 to R361, R371, R417). -/

namespace Sys2Proof.Machine

open Sys2Proof

/-- The key of a PART page. -/
def pgPART (p : Nat) : Nat := pk tPART p

/-! ### Quotas (R347, R348) -/

/-- PART.QUOTA_STORE, _NEAR, _MODULE, _SHELF. -/
def State.quota (s : State) (p target : Nat) : Nat :=
  if target = 0 then bits (s.rg (pgPART p) 0x220) 8 0 else bits (s.rg (pgPART p) (0x220 + 8 * target)) 20 0

/-- PART.USE_STORE, _NEAR, _MODULE, _SHELF. -/
def PartSt.use (q : PartSt) (target : Nat) : Nat :=
  match target with
  | 0 => q.useStore
  | 1 => q.useNear
  | 2 => q.useModule
  | _ => q.useShelf

/-- Units of a target: slices, stacks, ranks. -/
def unitsOf (target : Nat) : Nat := if target = 1 then 16 else 8

/-- The tier unit that unit `u` of a tier is. -/
def tierUnitOf (target u : Nat) : Nat := if target = 1 then u else if target = 2 then 16 + u else 24 + u

/-- PAGES_AVAIL of a tier unit (R164). -/
def State.pagesAvail (s : State) (u : Nat) : Nat :=
  unitPages u - ((s.tier u).retired.filter fun p => !s.pageSteward u p).length - (s.tier u).steward.length - unitReserved u

/-- The capacity of a target: store units, or the pages available in a tier. -/
def State.capacity (s : State) (target : Nat) : Nat :=
  if target = 0 then 504 else ((List.range (unitsOf target)).map fun u => s.pagesAvail (tierUnitOf target u)).sum

/-- A quota fits in the capacity that is not promised to other partitions. -/
def State.quotaFits (s : State) (p target n : Nat) : Bool :=
  decide (n + (((List.range 32).filter (· != p)).map fun q => s.quota q target).sum ≤ s.capacity target)

/-- TDI states as PART.STATE codes them (Table 16.7). -/
def Tdi.code : Tdi → Nat
  | .unlocked => 0
  | .locked => 1
  | .run => 2
  | .error => 3

/-- A change that takes a locked or running interface to ERROR (R371). -/
def State.tdiError (s : State) (p : Nat) : State :=
  s.modPart p fun q => { q with tdi := if q.tdi = .locked ∨ q.tdi = .run then .error else q.tdi }

/-- A request through a PART page makes the module leave IDLE (R459). -/
def State.partReq (s : State) : State := if s.power.idle then s.modPower fun x => { x with wake := true } else s

/-! ### CREATE (R347) -/

/-- The first check of CREATE that fails, as PART.STATE.ERR. -/
def State.createErr (s : State) (p : Nat) : Option Nat :=
  let m := bits (s.rg (pgPART p) 0x200) 31 0
  if m = 0 ∨ (List.range 32).any (fun q => q != p && (s.part q).clusters.toNat &&& m != 0) then some 1
  else if !(List.range 4).all fun t => s.quotaFits p t (s.quota p t) then some 2
  else if !bitOf s.pcie.vfEn p then some 3 else none

/-- Fences and semaphores of a partition set to zero. -/
def State.clearSync (s : State) (p : Nat) : State :=
  let mine := fun (k : Nat) => decide (k / 65536 / 8 = p)
  { s with fences := Tbl.drop s.fences mine, sems := Tbl.drop s.sems mine }

/-- A partition's configuration chain started from its creation record (R367): clusters, quotas, TIER_ENC, generation, VF. -/
def State.measureCreate (s : State) (p : Nat) : State :=
  let q := s.part p
  let rec_ := q.clusters.toNat :: (List.range 4).map (s.quota p) ++ [b2n q.tierEnc, q.gen.toNat, p]
  s.modSec fun x => { x with meas := Tbl.set x.meas (measConfig p) (shake256 (Config.measBytes 0x10 rec_) 64) }

/-- A mapping request extends the chain. -/
def State.measureMap (s : State) (p : Nat) : State :=
  s.measureOpen (measConfig p) 0x11 ([0x260, 0x268, 0x270].map fun o => (s.rg (pgPART p) o).toNat)

/-- CREATE: only of a FREE partition, in a module that serves. SEC generates the tier key. A locked or running interface sees its
clusters change, and one in ERROR stays there (R371). -/
def execCreate (p : Nat) (s : State) : Out :=
  let s := s.partReq
  if !s.running || decide (32 ≤ p) || (s.part p).state == .scrubbing || (s.part p).state == .tearingDown then
    .next (if s.running && decide (p < 32) then s.countErr (pgPART p) else s)
  else if (s.part p).state != .free || s.sage.oos then .next s
  else match s.createErr p with
    | some e => .next (s.modPart p fun q => { q with errCode := e })
    | none =>
      let k := s.fresh 256
      let s1 := k.2.modSec fun x => { x with tierKeys := Tbl.set x.tierKeys p (BitVec.ofNat 256 k.1), meas := Tbl.drop x.meas (· == measPlan p) }
      let m : W32 := BitVec.ofNat 32 (bits (s.rg (pgPART p) 0x200) 31 0)
      .next ((((s1.clearSync p).modPart p fun q =>
        { PartSt.zero with state := .active, gen := q.gen, tdi := q.tdi, clusters := m, tierEnc := bitOf (s.rg (pgPART p) 0x218) 0 }).measureCreate
        p).tdiError p)

/-! ### Teardown (R358 to R361) -/

/-- TEARDOWN: step 1 at once, and step 2 where no compute reset is in progress. -/
def execTeardown (p : Nat) (s : State) : Out :=
  let s := s.partReq
  let q := s.part p
  if !s.running || decide (32 ≤ p) || q.state == .free then .next s
  else if q.state == .tearingDown || q.state == .scrubbing then .next (s.countErr (pgPART p))
  else
    let s1 := (s.modPart p fun q => { q with state := .tearingDown, tdStep := 1 }).tdiError p
    let s2 := s1.modCtx p CtxSt.freeze
    .next (if q.rst = 0 then s2.teardownGo p else s2)

/-- Blocks that a partition holds. -/
def State.blocksOf (s : State) (p : Nat) : List Nat := (s.backing.filter fun e => e.2.owner == some p).map (·.1)

/-- The bytes of a block. -/
def blockSpan (key : Nat) : Nat × Nat := let n := 2 ^ blockLog (blockTarget key); (key * n, n)

/-- A block written with zero and read back by its tile's mover: words that fail are counted and logged (R139, Table 6.4). -/
def State.scrubBlock (s : State) (key : Nat) : State :=
  let b := blockSpan key
  let t := if inStore b.1 then sliceOf b.1 else tierTile (tierKeyOf b.1)
  let s1 := s.zeroRange b.1 b.2
  let wrong := s1.wrongIn b.1 b.2
  { s1.bump (pk tMOVER t) 0x078 wrong.length with stewLog := s1.stewLog ++ wrong.map .scrubFail }

/-- TEARDOWN_DRAINED: with the counts at zero, the partition's store units and near pages are scrubbed and its keys destroyed. Store
units scrubbed here carry no owner from then on (R361). -/
def execTeardownDrained (p : Nat) (s : State) : Out :=
  let q := s.part p
  if !s.up || s.sage.fatal.isSome || q.rst != 0 then .next s
  else if q.tdStep = 1 then .next (s.teardownGo p)
  else if q.tdStep ≠ 3 ∨ s.partInflight p ≠ 0 then .next s
  else
    let l := s.blocksOf p
    let s1 := s.each (l.filter fun k => decide (blockTarget k ≤ 1)) State.scrubBlock
    let s2 := s1.each l fun s k => s.modBack k fun b => { b with last := if blockTarget k = 0 then none else some p }
    let s3 := s2.modSec fun x => { x with tierKeys := Tbl.drop x.tierKeys (· == p), flowKeys := Tbl.drop x.flowKeys (· == p) }
    .next (s3.modPart p fun q => { q with state := .scrubbing, tdStep := 4 })

/-- The queue state of a function returns to its reset values: SQs, CQs, token rings, numeric event ring (R358, R433). -/
def State.clearQueues (s : State) (fn : Fn) : State :=
  let key := fnKey fn
  let pages := match fn with
    | .pf => [pk tPFDB 0, pk tPFSQ 0, pk tPFCQ 0]
    | .vf p => [pk tVFDB p, pk tVFSQ p, pk tVFCQ p, pk tVFSTATUS p]
  let s1 := { s with sqs := Tbl.drop s.sqs (fun k => k / 64 == key), cqs := Tbl.drop s.cqs (fun k => k / 64 == key),
                     rf := Tbl.drop s.rf (fun k => pages.contains (k / 4096)), hdrs := Tbl.drop s.hdrs (fun k => pages.contains k),
                     live := Tbl.drop s.live (fun k => pages.contains (k / 4096)), latched := Tbl.drop s.latched (fun k => pages.contains (k / 4096)),
                     holds := s.holds.filter (fun h => !pages.contains h.pkey), latches := s.latches.filter fun h => !pages.contains h.pkey }
  match fn with
  | .pf => s1
  | .vf p => { s1 with ners := Tbl.drop s1.ners (· == p) }

/-- TEARDOWN_RELEASE: clusters, quotas, queues, VF configuration and KPM pools are freed; the generation stays. -/
def execTeardownRelease (p : Nat) (s : State) : Out :=
  if !s.up || s.sage.fatal.isSome || (s.part p).tdStep != 4 then .next s
  else
    let s1 := s.each (s.blocksOf p) fun s k => s.modBack k fun b => { b with owner := none, uses := 0 }
    let ks := s1.kpms.map fun e => (e.1, { e.2 with parts := Tbl.drop e.2.parts (· == p), streams := e.2.streams.filter fun k => k.part != p })
    let xs := s1.xlats.map fun e => (e.1, { e.2 with cache := e.2.cache.filter fun x => x.part != p })
    let fs := s1.folds.map fun e => (e.1, { e.2 with parts := Tbl.drop e.2.parts (· == p) })
    let s1 := { s1 with kpms := ks, xlats := xs, folds := fs, plans := s1.plans.filter (fun q => q.part != p) }
    let s2 := { s1 with saved := s1.saved.filter (fun x => x.part != p), ents := s1.ents.filter (fun e => !(e.fn == Fn.vf p)),
                        ctxs := Tbl.drop s1.ctxs (· == p), coords := Tbl.drop s1.coords (· == p) }
    let s3 := (s2.clearQueues (.vf p)).clearSync p
    let s4 := s3.modGfe fun g => { g with activeCtx := Tbl.drop g.activeCtx (· == p), lastSq := Tbl.drop g.lastSq (· == p) }
    let s5 := s4.modEmit fun g => { g with held := g.held.filter (fun h => h.part != p), rel := g.rel.filter fun h => h.part != p }
    let gone := fun (k : Nat) => decide (k / 4096 = pgPART p ∧ (k % 4096 = 0x200 ∨ (0x220 ≤ k % 4096 ∧ k % 4096 ≤ 0x238)))
    .next ({ s5 with rf := Tbl.drop s5.rf gone }.modPart p fun q => { PartSt.zero with gen := q.gen })

/-- REENABLE (R417): a QUARANTINED partition serves again, its counted history cleared. -/
def execReenable (p : Nat) (s : State) : Out :=
  let s := s.partReq
  if !s.running || (s.part p).state != .quarantined then .next s
  else .next ((s.modPart p fun q => { q with state := .active, hangs := [] }).unfreeze p)

/-! ### Mapping (R350, R351, R353) -/

/-- A mapping request (Table 16.7). -/
structure MapReq where
  va : Nat
  log2 : Nat
  target : Nat
  ctx : Nat
  op : Nat
  w : Bool
  count : Nat
  unit : Nat
  module : W16
  home : Nat
deriving DecidableEq, Repr

/-- The request that PART.MAP_REQ0 to 2 state. A reserved page size reads as 0. -/
def State.mapReq (s : State) (p : Nat) : MapReq :=
  let a := s.rg (pgPART p) 0x260
  let b := s.rg (pgPART p) 0x268
  let lg := match bits a 50 49 with | 0 => 16 | 1 => 21 | 2 => 30 | _ => 0
  ⟨bits a 48 16 * 65536, lg, bits a 53 51, bits a 56 54, bits a 58 57, bitOf a 59, bits b 23 0, bits b 31 24,
    BitVec.ofNat 16 (bits b 47 32), bits (s.rg (pgPART p) 0x270) 48 16 * 65536⟩

/-- The request's virtual range. -/
def MapReq.len (r : MapReq) : Nat := r.count * 2 ^ r.log2

/-- A request in range: defined fields, aligned addresses inside the space, an existing unit. -/
def MapReq.inRange (r : MapReq) : Bool :=
  r.log2 != 0 && decide (r.op ≤ 2) && aligned r.va (2 ^ r.log2) && decide (r.va + r.len ≤ 2 ^ 49)
    && (r.op != 0 || (decide (r.target ≤ 4)
      && (if r.target = 4 then aligned r.home (2 ^ r.log2) && decide (r.home + r.len ≤ 2 ^ 49)
          else r.unit == 0xFF || decide (r.unit < unitsOf r.target))))

/-- A leaf's virtual range overlaps a request's, in the same tenant context. -/
def MapReq.overlaps (r : MapReq) (l : Leaf) : Bool := l.ctx == r.ctx && decide (l.va < r.va + r.len ∧ r.va < l.va + 2 ^ l.log2)

/-- The leaves inside a request's range cover it. -/
def MapReq.covered (r : MapReq) (ls : List Leaf) : Bool :=
  let hit := ls.filter r.overlaps
  hit.all (fun l => decide (r.va ≤ l.va ∧ l.va + 2 ^ l.log2 ≤ r.va + r.len)) && (hit.map fun l => 2 ^ l.log2).sum == r.len

/-- The lowest number from `i` on, of `n`, that `f` accepts. -/
def firstFrom (f : Nat → Bool) : Nat → Nat → Option Nat
  | 0, _ => none
  | n + 1, i => if f i then some i else firstFrom f n (i + 1)

/-- First physical address and bytes of unit `u` of a target. -/
def unitSpan (target u : Nat) : Nat × Nat :=
  if target = 0 then (u * 2 ^ 32, 0xFC000000) else (unitBase (tierUnitOf target u), unitSize (tierUnitOf target u))

/-- A block free to be handed out. -/
def State.blockFree (s : State) (target key : Nat) : Bool :=
  if target = 0 then (s.back key).owner.isNone && key % 64 != 63
  else
    let u := (List.range 32).find? fun u => decide (unitBase u / 2 ^ 21 ≤ key ∧ key < unitBase u / 2 ^ 21 + unitPages u)
    match u with
    | some u => s.pageFree u (key - unitBase u / 2 ^ 21)
    | none => false

/-- What an allocation has handed out so far: addresses of the pages, and blocks newly taken. -/
structure Backed where
  pages : List Nat
  fresh : List Nat
deriving DecidableEq, Repr

/-- A run for one page in unit `u`: the lowest in blocks that the partition holds, else the lowest that takes free ones. -/
def State.runIn (s : State) (p : Nat) (r : MapReq) (b : Backed) (u : Nat) : Option Nat :=
  let span := unitSpan r.target u
  let sz := 2 ^ r.log2
  let q := s.part p
  let used := fun (a : Nat) => (q.leaves ++ q.held).any (fun l => decide (l.target < 4 ∧ l.addr < a + sz ∧ a < l.addr + 2 ^ l.log2))
    || b.pages.any fun x => decide (x < a + sz ∧ a < x + sz)
  let keys := fun (a : Nat) =>
    let k := blockKey r.target a
    (List.range (blockKey r.target (a + sz - 1) - k + 1)).map (k + ·)
  let mine := fun (k : Nat) => (s.back k).owner == some p || b.fresh.contains k
  let at_ := fun (i : Nat) => span.1 + i * sz
  let n := span.2 / sz
  match firstFrom (fun i => !used (at_ i) && (keys (at_ i)).all mine) n 0 with
  | some i => some (at_ i)
  | none => (firstFrom (fun i => !used (at_ i) && (keys (at_ i)).all fun k => mine k || s.blockFree r.target k) n 0).map at_

/-- The units a page may come from, in order (R351). -/
def MapReq.units (r : MapReq) : List Nat :=
  let all := List.range (unitsOf r.target)
  if r.unit = 0xFF then all else if r.target = 0 then [r.unit] else r.unit :: all.filter (· != r.unit)

/-- One page backed. -/
def State.backPage (s : State) (p : Nat) (r : MapReq) (b : Backed) : Option Backed :=
  match r.units.findSome? fun u => s.runIn p r b u with
  | none => none
  | some a =>
    let k := blockKey r.target a
    let ks := (List.range (blockKey r.target (a + 2 ^ r.log2 - 1) - k + 1)).map (k + ·)
    some ⟨b.pages ++ [a], b.fresh ++ ks.filter fun k => (s.back k).owner != some p && !b.fresh.contains k⟩

/-- Every page of a request backed, before any table is edited; none where one cannot be. -/
def State.backAll (s : State) (p : Nat) (r : MapReq) : Nat → Backed → Option Backed
  | 0, b => some b
  | n + 1, b => match s.backPage p r b with
    | none => none
    | some b1 => s.backAll p r n b1

/-- The blocks that a request which cannot be backed whole would take: those found for the pages before the first that has none, and
those that the remaining pages would need, which no block held can take. -/
def State.blocksWanted (s : State) (p : Nat) (r : MapReq) : Nat → Backed → Nat
  | 0, b => b.fresh.length
  | n + 1, b => match s.backPage p r b with
    | none => b.fresh.length + ((n + 1) * 2 ^ r.log2 + 2 ^ blockLog r.target - 1) / 2 ^ blockLog r.target
    | some b1 => s.blocksWanted p r n b1

/-- A cached entry translates some address of a request's range. -/
def XEnt.meets (x : XEnt) (p : Nat) (r : MapReq) : Bool :=
  x.part == p && x.ctx == r.ctx && decide (x.va < r.va + r.len ∧ r.va < x.va + 2 ^ x.log2)

/-- Cached translations of a range of a partition's context leave every translation unit. -/
def State.invalRange (s : State) (p : Nat) (r : MapReq) : State :=
  { s with xlats := s.xlats.map fun e => (e.1, { e.2 with cache := e.2.cache.filter fun x => !x.meets p r }) }

/-- A request ends with a result code. -/
def State.mapEnd (s : State) (p res done : Nat) : State := s.modPart p fun q => { q with mapRes := res, mapDone := done, mapPend := false }

/-- The leaves of a request on the pages `l`. -/
def MapReq.leavesOn (r : MapReq) (l : List Nat) : List Leaf :=
  l.zipIdx.map fun x => ⟨r.ctx, r.va + x.2 * 2 ^ r.log2, r.log2, r.target, x.1, if r.target = 4 then r.module else 0, r.w, false⟩

/-- MAP carried out. A block that another partition held last is scrubbed first (R361). -/
def State.doMap (s : State) (p : Nat) (r : MapReq) : State :=
  let q := s.part p
  if q.leaves.any r.overlaps then s.mapEnd p 2 0
  else
    let got := if r.target = 4 then some ⟨(List.range r.count).map fun i => r.home + i * 2 ^ r.log2, []⟩ else s.backAll p r r.count ⟨[], []⟩
    match got with
    | none =>
      -- NO_PAGE, or QUOTA where the whole request would pass the quota (R348, R351; log entry 46)
      if s.quota p r.target < (s.part p).use r.target + s.blocksWanted p r r.count ⟨[], []⟩ then s.mapEnd p 1 0 else s.mapEnd p 6 0
    | some b =>
      if r.target < 4 ∧ s.quota p r.target < q.use r.target + b.fresh.length then s.mapEnd p 1 0
      else
        let s1 := s.each b.fresh fun s k =>
          let foreign := match (s.back k).last with | some x => x != p | none => false
          (if foreign then s.scrubBlock k else s).modBack k fun _ => ⟨some p, none, 0⟩
        let ls := r.leavesOn b.pages
        let s2 := s1.modPart p fun q => (q.modUse r.target (· + b.fresh.length))
        let s3 := (s2.modPart p fun q => { q with leaves := q.leaves ++ ls }).settleBlocks p ls
        ((s3.invalRange p r).measureMap p).mapEnd p 0 r.count

/-- UNMAP carried out: pages that a KPM holds return only once it releases them. -/
def State.doUnmap (s : State) (p : Nat) (r : MapReq) : State :=
  let q := s.part p
  if !r.covered q.leaves then s.mapEnd p 3 0
  else
    let gone := q.leaves.filter r.overlaps
    let kept := gone.filter (s.kpmHolds p)
    let s1 := s.modPart p fun q => { q with leaves := q.leaves.filter (fun l => !r.overlaps l), held := q.held ++ kept }
    (((s1.settleBlocks p gone).invalRange p r).measureMap p).mapEnd p 0 r.count

/-- PROTECT carried out. -/
def State.doProtect (s : State) (p : Nat) (r : MapReq) : State :=
  if !r.covered (s.part p).leaves then s.mapEnd p 3 0
  else
    let s1 := s.modPart p fun q => { q with leaves := q.leaves.map fun l => if r.overlaps l then { l with w := r.w } else l }
    ((s1.invalRange p r).measureMap p).mapEnd p 0 r.count

/-- A request carried out by the steward: its state and range are checked first. -/
def State.doRequest (s : State) (p : Nat) : State :=
  let r := s.mapReq p
  if (s.part p).state != .active then s.mapEnd p 5 0
  else if !r.inRange then s.mapEnd p 4 0
  else if r.op = 0 then s.doMap p r else if r.op = 1 then s.doUnmap p r else s.doProtect p r

/-- A write of PART.MAP_GO. The request waits while the steward restarts (R419); of a partition being torn down it is ignored and
counted (R360); while another is in progress it is ignored (R373). -/
def State.mapGo (s : State) (p op : Nat) : Out :=
  let s := s.partReq
  let q := s.part p
  let opOk := if op = 2 then decide (2 ≤ (s.mapReq p).op) else (s.mapReq p).op == op
  if !s.running || decide (32 ≤ p) || !opOk || q.mapBusy then .next s
  else if q.state == .tearingDown || q.state == .scrubbing then .next (s.countErr (pgPART p))
  else
    let s1 := s.modPart p fun q => { q with mapBusy := true, mapPend := true, mapDone := 0 }
    .next (if s.sage.stewardRst then s1 else s1.doRequest p)

/-- MAP, UNMAP, PROTECT: PART.MAP_GO with the OP that PART.MAP_REQ0 holds. A reserved OP is refused with RANGE as a PROTECT is. -/
def execMap (p : Nat) (s : State) : Out := s.mapGo p 0
def execUnmap (p : Nat) (s : State) : Out := s.mapGo p 1
def execProtect (p : Nat) (s : State) : Out := s.mapGo p 2

/-- MAP_COMPLETE: PART.MAP_STATUS leaves BUSY. -/
def execMapComplete (p : Nat) (s : State) : Out :=
  let q := s.part p
  if !s.running || s.sage.stewardRst || !q.mapBusy then .next s
  else
    let s1 := if q.mapPend then s.doRequest p else s
    .next (s1.modPart p fun q => { q with mapBusy := false })

/-! ### Translation units (R352 to R354) -/

/-- The entries that translate an address in a tree (R350), from level 0 to the leaf; those before the missing one where no leaf does: a
table stands where some leaf of the context lies in the range that its entry translates. -/
def State.walkOf (s : State) (p ctx va : Nat) : List XEnt :=
  let ls := (s.part p).leaves.filter fun l => l.ctx == ctx
  let leaf := s.leafAt p ctx va
  let ent := fun (k : Nat) =>
    let a := va / 2 ^ k * 2 ^ k
    (⟨p, ctx, a, k, leaf.filter fun l => l.log2 == k⟩ : XEnt)
  ([39, 30, 21, 16].filter fun k => match leaf with
    | some l => decide (l.log2 ≤ k)
    | none => ls.any fun l => decide (l.log2 < k ∧ va / 2 ^ k = l.va / 2 ^ k)).map ent

/-- Entries that a walk read join a unit's cache, 4,096 at most, the oldest making room (log entry 11). -/
def XlatSt.keep (x : XlatSt) (l : List XEnt) : XlatSt := { x with cache := let c := x.cache ++ l; c.drop (c.length - 4096) }

/-- The unit holds the leaf of an address. -/
def XlatSt.hits (x : XlatSt) (p ctx va : Nat) : Bool :=
  x.cache.any fun e => e.part == p && e.ctx == ctx && e.leaf.isSome && decide (e.va ≤ va ∧ va < e.va + 2 ^ e.log2)

/-- TRANSLATION_WALK: a translation of a tile's unit. Where its leaf is not cached it walks the tree, taking about 45 ns, 90 store
clocks, for each level that is not (log entry 66). A write to a MIGRATING page stalls. -/
def execTranslationWalk (tile p ctx va : Nat) (wr : Bool) (s : State) : Out :=
  if !s.running || decide (8 ≤ tile) || decide (32 ≤ p) then .next s
  else
    let pg := pk tXLAT tile
    let s1 := s.bump pg 0x040 1
    let new := (s.walkOf p ctx va).filter fun x => !(s.xlat tile).cache.contains x
    let n := new.length + b2n (s.leafAt p ctx va).isNone
    let s2 := if (s.xlat tile).hits p ctx va then s1 else (((s1.bump pg 0x048 1).bump64 pg 0x050 (90 * n)).progress pg 1).modXlat tile fun x => x.keep new
    match s.leafAt p ctx va with
    | none => .next (s2.noteFault p tile va 1)
    | some l =>
      if wr && !l.w then .next (s2.noteFault p tile va 2)
      else if wr && l.migrating then .next (s2.bump pg 0x060 1)
      else .next s2

/-- XLAT_INVAL (Table 16.9). -/
def execXlatInval (tile : Nat) (v : W64) (s : State) : Out :=
  let va := bits v 48 16 * 65536
  let p := bits v 53 49
  let ctx := bits v 56 54
  let hit := fun (x : XEnt) => bitOf v 63 || (x.part == p && x.ctx == ctx
    && (bitOf v 62 || decide (x.va ≤ va ∧ va < x.va + 2 ^ x.log2)))
  whenOk (s.up && decide (tile < 8))
    (s.modXlat tile fun x => { x with cache := x.cache.filter (fun e => !hit e), invalDone := x.invalDone + 1 }) s

end Sys2Proof.Machine
end

