-- ==== Sys2Proof/Machine/Boot.lean ====
section
/-! DEFINITION. Machine/Boot.lean: contract pins, the boot ROM's checks, the boot mailbox, rollback, and PERST_N (R204, R362 to R367,
R436, R442, R446, R460). -/

namespace Sys2Proof.Machine

open Sys2Proof

/-- The key of the PCIE page, and of the SEC page. -/
def pgPCIE : Nat := pk tPCIE 0
def pgSEC : Nat := pk tSEC 0

/-! ### The image (R362, R363, Table 16.5) -/

/-- The 512 B header, with bytes 24 to 258 as given. -/
def fwHeader (i : FwImage) (mid : Bytes) : Bytes :=
  leBytes 4 i.magic.toNat ++ leBytes 2 i.target.toNat ++ leBytes 1 i.hdrVer.toNat ++ leBytes 1 i.keySlot ++ leBytes 1 i.svn
    ++ List.replicate 7 0 ++ leBytes 8 i.imageLen ++ mid ++ List.replicate 253 0

/-- `b` cut or filled with zero to `n` bytes. -/
def toLen (n : Nat) (b : Bytes) : Bytes := (b ++ List.replicate (n - b.length) 0).take n

/-- The image's bytes, and those that DIGEST covers. -/
def fwBytes (i : FwImage) : Bytes := fwHeader i (toLen 64 i.digest ++ toLen 57 i.pubkey ++ toLen 114 i.sig) ++ i.body
def fwDigested (i : FwImage) : Bytes := fwHeader i (List.replicate 235 0) ++ i.body

/-- The first check of R363 that fails, as its code of Table 16.6. There are slots 0 to 3 only: another is KEY_REVOKED. -/
def State.checkImage (s : State) (i : FwImage) : Option Nat :=
  if i.magic != 0x57464C48 || i.target != 0x0840 || i.hdrVer != 1 || i.imageLen != 512 + i.body.length
      || decide (60 * 2 ^ 20 < i.imageLen) then some 0x81
  else if decide (4 ≤ i.keySlot) || bitOf s.sec.revoked i.keySlot || shake256 i.pubkey 64 != Config.fusedKeyHash i.keySlot then some 0x82
  else if i.svn < s.sec.fusedSvn then some 0x83
  else if shake256 (fwDigested i) 64 != i.digest then some 0x84
  else if !Config.edVerify i.pubkey i.digest i.sig then some 0x85
  else none

/-- BOOT.STATUS.CODE changes: the milliseconds since PERST_N are noted (Table 20.6). -/
def State.setCode (s : State) (c : Nat) : State :=
  s.modBoot fun b => { b with code := c, codeMs := (s.time.mono - b.perstAt) / 1000000 }

/-- An image that passed every check runs: the alias key is derived, the measurements 0x01 and 0x02 are taken (R366, R367), and the steward firmware starts. -/
def State.runImage (s : State) (i : FwImage) (pushed : Bool) : State :=
  let s1 := s.modSec fun x => { x with aliasReady := true, imageSvn := i.svn, imageSlot := i.keySlot, fwDigest := i.digest,
                                       stewGrants := [], meas := Tbl.set (Tbl.set x.meas 1 (toLen 64 Config.romMeasure)) 2 i.digest }
  ((s1.modBoot fun b => { b with pushed := pushed, tiersDone := false }).modSage fun g => { g with kickAt := s.time.mono }).setCode 0x03

/-- A check failed: LAST_FAIL keeps its code, and CODE shows WAIT_PUSH. -/
def State.bootFail (s : State) (c : Nat) : State := (s.modBoot fun b => { b with lastFail := c }).setCode 0x10

/-- PERST_N_DEASSERT (R204, R363, R446): the pins are sampled, and with a contract level they name the ROM checks the flash image and
starts the firmware, or waits for a pushed image. `sel` is CONTRACT_SEL1, CONTRACT_SEL0. -/
def execPerstNDeassert (sel : BitVec 2) (s : State) : Out :=
  if !s.boot.on || !s.boot.perst then .next s
  else
    let s1 := s.modBoot fun b =>
      { b with perst := false, perstAt := s.time.mono, count := b.count + 1, straps := (b.straps &&& 4) ||| sel.zeroExtend 3 }
    if 2 ≤ sel.toNat then .next ((s1.modBoot fun b => { b with lastFail := 0x86 }).setCode 0x86)
    else
      let s2 := (s1.modGfe fun g => { g with level := if sel = 1 then 1 else 2 }).setCode 0x02
      match s2.boot.flash with
      | none => .next (s2.bootFail 0x81)
      | some i => match s2.checkImage i with
        | some c => .next (s2.bootFail c)
        | none => .next (s2.runImage i false)

/-- BOOT_READY (R169, Table 16.6): the tiers are initialised and the retired list is replayed. -/
def execBootReady (s : State) : Out :=
  whenOk (s.up && s.boot.code == 0x03 && s.boot.tiersDone && s.sage.fatal.isNone) (s.setCode 0x04) s

/-! ### The boot mailbox (R364, R436, Tables 19.5, 19.6) -/

/-- Something serves the mailbox, and no command of it is in progress: the ROM in WAIT_PUSH, else the firmware. -/
def State.mbxFree (s : State) : Bool :=
  s.up && !s.pcie.mbxBusy && s.boot.code != 0x86 && s.sage.fatal.isNone && !s.sage.stewardRst && s.bme .pf

/-- A command is in progress with the result it will end with. -/
def State.mbxTake (s : State) (res failed : Nat) : State :=
  s.modPcie fun x => { x with mbxBusy := true, mbxRes := res, mbxFail := failed }

/-- A mailbox command: where CODE is not `code` it ends with BAD_STATE, and where reading the image fails with HOST_FAULT. -/
def State.mbxRun (s : State) (code : Nat) (img : Option FwImage) (go : FwImage → State → State) : State :=
  if !s.mbxFree then s
  else if s.boot.code ≠ code then s.mbxTake 1 0
  else match img with
    | none => (s.hostFault .pf (s.rgN pgPCIE 0x280) 2 4).mbxTake 3 0
    | some i => go i (s.hostGet .pf (s.rgN pgPCIE 0x280) (fwBytes i).length)

/-- A pushed image is read to store physical address 0 and checked; one that passes goes on to `go`. -/
def State.takePush (i : FwImage) (go : State → State) (s : State) : State :=
  let s1 := s.physWrite 0 (fwBytes i)
  match s1.checkImage i with
  | some c => (s1.bootFail c).mbxTake 2 c
  | none => go s1

/-- PUSH. -/
def execPush (img : Option FwImage) (s : State) : Out :=
  .next (s.mbxRun 0x10 img fun i => State.takePush i fun s => (s.runImage i true).mbxTake 0 0)

/-- PUSH_WRITE: the image runs once it is in flash and verified. A write that fails leaves no image there (R364). -/
def execPushWrite (img : Option FwImage) (flashOk : Bool) (s : State) : Out :=
  .next (s.mbxRun 0x10 img fun i => State.takePush i fun s =>
    if flashOk then ((s.modBoot fun b => { b with flash := some i }).runImage i true).mbxTake 0 0
    else (s.modBoot fun b => { b with flash := none }).mbxTake 4 0)

/-- STAGE_FLASH: the trace stops; the running image is unchanged. Until MBX_DONE a fatal error cuts it short (R473). -/
def execStageFlash (img : Option FwImage) (flashOk : Bool) (s : State) : Out :=
  .next (s.mbxRun 0x04 img fun i s =>
    let s1 := s.modDebug fun d => { d with traceOn := false, traceStop := if d.traceOn then 2 else d.traceStop }
    match s1.checkImage i with
    | some c => s1.mbxTake 2 c
    | none =>
      if flashOk then ((s1.modBoot fun b => { b with flash := some i }).modDebug fun d => { d with staging := true }).mbxTake 0 0
      else (s1.modBoot fun b => { b with flash := none }).mbxTake 4 0)

/-- MBX_DONE: MBX_STATUS and the interrupt. -/
def execMbxDone (s : State) : Out :=
  if !s.up || !s.pcie.mbxBusy then .next s
  else
    let s1 := s.modPcie fun x => { x with mbxBusy := false, mbxStat := pack 64 [⟨15, 8, x.mbxRes⟩, ⟨23, 16, x.mbxFail⟩] }
    .next ((s1.modDebug fun d => { d with staging := false }).raise pgPCIE 2)

/-- ROLLBACK_COMMIT (R365): the fused SVN advances to the running image's, and the slots below its own are revoked. -/
def execRollbackCommit (v : W64) (s : State) : Out :=
  if !s.up || !bitOf v 0 || !s.sec.aliasReady then .next s
  else
    let low : BitVec 4 := BitVec.ofNat 4 (2 ^ s.sec.imageSlot - 1)
    .next (s.modSec fun x => { x with fusedSvn := min 64 (max x.fusedSvn x.imageSvn), revoked := x.revoked ||| low })

/-! ### PERST_N (R442, R460) -/

/-- Pages whose registers no PERST_N resets: METER (R375). -/
def keptPage (k : Nat) : Bool := keyTyp k == tMETER

/-- Registers and statistics of the METER page. -/
def keepMeter {α : Type} (t : Tbl α) : Tbl α := t.filter fun e => keptPage (e.1 / 4096)

/-- What fuses, flash, spare rows and pins hold through a reset; a flash write cut short leaves no image (R364). -/
def BootSt.afterPerst (b : BootSt) (staging : Bool) : BootSt :=
  { BootSt.reset with on := b.on, perst := true, straps := b.straps, count := b.count, cause := 2,
                      flash := if staging then none else b.flash, retiredList := b.retiredList, thermtrip := b.thermtrip,
                      pwrEn := b.pwrEn }

/-- Spare rows in use stay in use. -/
def SliceSt.afterPerst (c : SliceSt) : SliceSt := { SliceSt.zero with spares := c.spares, exhausted := c.exhausted }
def TierSt.afterPerst (t : TierSt) : TierSt := { TierSt.zero with spares := t.spares, refresh2x := t.refresh2x }

/-- Store units that hold a partition's data are marked as another's, so that they are scrubbed before they are mapped (R361, log
entry 47). -/
def backAfterPerst (l : Tbl Backing) : Tbl Backing :=
  (l.filter fun e => decide (e.1 < 2 ^ 19) && (e.2.owner.isSome || e.2.last.isSome)).map fun e => (e.1, ⟨none, some 32, 0⟩)

/-- The state after PERST_N asserts: every register and unit at reset but the FMU, which stops writing to the host (R375), what flash,
fuses and repairs keep, and the store's contents (log entry 47). The conditions behind ALERT_N other than a fatal error stay (R464). -/
def State.perstReset (s : State) : State :=
  { State.reset with
    pending := s.pending, out := s.out, freeCtr := s.freeCtr, mem := s.mem, poison := s.poison,
    rf := keepMeter s.rf, live := keepMeter s.live, latched := keepMeter s.latched, hdrs := s.hdrs.filter (fun e => keptPage e.1),
    holds := s.holds.filter (fun h => keptPage h.pkey), latches := s.latches.filter (fun h => keptPage h.pkey),
    time := { TimeSt.reset with mono := s.time.mono },
    slices := s.slices.map (fun e => (e.1, e.2.afterPerst)), tiers := s.tiers.map (fun e => (e.1, e.2.afterPerst)),
    lsu := s.lsu, backing := backAfterPerst s.backing,
    sec := { SecSt.reset with fusedSvn := s.sec.fusedSvn, revoked := s.sec.revoked },
    boot := { s.boot.afterPerst s.dbg.staging with alert := s.power.hot90 || s.power.vinRange },
    fmu := { s.fmu with stopped := true }, emit := ⟨[], [], s.emit.tap, s.fmu.hold⟩,
    power := { PowerSt.reset with hot90 := s.power.hot90, vinRange := s.power.vinRange, vinOkSince := s.power.vinOkSince },
    dbg := { DebugSt.reset with ir := s.dbg.ir } }

/-- PERST_N_ASSERT. -/
def execPerstNAssert (s : State) : Out := whenOk (s.boot.on && !s.boot.perst) s.perstReset s

end Sys2Proof.Machine
end

