-- ==== Sys2Proof/Machine/Entries.lean ====
section
/-! DEFINITION. Machine/Entries.lean: the entries of submission queues other than launches: SIGNAL and NOP, HOST_COPY, LOAD, UNLOAD and
PATCH (R196, R197, R200, R201, R211 to R214, R424, R430, R431). -/

namespace Sys2Proof.Machine

open Sys2Proof

/-- SIGNAL (R213, R221): a SIGNAL or NOP entry whose waits are met completes; its signals are made with its completion. -/
def execSignal (fn : Fn) (q : Nat) (s : State) : Out :=
  match s.toPlace fn q with
  | none => .next s
  | some e =>
    if entOpc e.raw = 0 ∨ entOpc e.raw = 2 then .next ((s.takeHead fn q e).entDone e.uid errOk)
    else .next s

/-! ### HOST_COPY (R211, R213, R430, R431) -/

/-- A host address that fails a read is recorded. -/
def State.copyReadFault (s : State) (e : Entry) (sub : Nat) : State :=
  let va := entOperand e.raw 1 % 2 ^ 49
  let b := s.freshBytes (byteFld e.raw 4 4)
  let w := b.2.writeVa .store false (entAcc e) va b.1
  (w.2.hostFault e.fn (entOperand e.raw 0) sub 0).entDone e.uid (errHost sub)

/-- HOST_COPY: the copy is made at once: host to store with the bytes that the host read returns, or store to host, by bulk writes with
Relaxed Ordering (R424). It completes with HOST_COPY_COMPLETE, or at once with the error that it met. -/
def execHostCopy (fn : Fn) (q : Nat) (rd : HostRd) (s : State) : Out :=
  match s.toPlace fn q with
  | none => .next s
  | some e =>
    if entOpc e.raw ≠ 3 then .next s
    else
      let len := byteFld e.raw 4 4
      let va := entOperand e.raw 1 % 2 ^ 49
      let s0 := (s.takeHead fn q e).modEnt e.uid fun x => { x with busy := true, start := s.time.now }
      if entFlag e.raw 0 then
        let r := s0.readVa .store false (entAcc e) va len
        match r.1.use va with
        | .error f => .next (r.2.entDone e.uid f.err)
        | .ok b =>
          .next (if r.2.writeFaults fn false then r.2.modEnt e.uid fun x => { x with wrFault := true }
            else r.2.hostIssue fn (entOperand e.raw 0) b true)
      else match rd with
        | .refused => .next (s0.copyReadFault e 2)
        | .timeout => .next (s0.copyReadFault e 3)
        | .data b =>
          let w := (s0.hostGet fn (entOperand e.raw 0) len).writeVa .store false (entAcc e) va ((b ++ List.replicate (len - b.length) 0).take len)
          match w.1 with
          | some f => .next (w.2.entDone e.uid f.err)
          | none => .next w.2

/-- The copy that an SQ has in progress. -/
def State.copying (s : State) (fn : Fn) (q : Nat) : Option Entry :=
  s.ents.find? fun e => e.fn == fn && e.sq == q && e.busy && entOpc e.raw == 3

/-- HOST_COPY_COMPLETE (R213): the last write is visible, or a host write faulted (R226, Table 10.5). -/
def execHostCopyComplete (fn : Fn) (q : Nat) (fault : Bool) (s : State) : Out :=
  match s.copying fn q with
  | none => .next s
  | some e =>
    if !s.running then .next s
    else if entFlag e.raw 0 && (e.wrFault || (fault && s.atsOn fn)) then
      .next ((s.hostFault fn (entOperand e.raw 0) 1 0).entDone e.uid (errHost 1))
    else .next (s.entDone e.uid errOk)

/-! ### LOAD (R196, R203, R212) -/

/-- LOAD: the image is read from the central store, checked and made resident. With no handle free the entry waits (R230). -/
def execLoad (fn : Fn) (q : Nat) (s : State) : Out :=
  match s.toPlace fn q with
  | none => .next s
  | some e =>
    if entOpc e.raw ≠ 4 then .next s
    else match s.freeHandle e.part with
      | none => .next s
      | some h =>
        let va := entOperand e.raw 0 % 2 ^ 49
        let s0 := s.takeHead fn q e
        let r := s0.readVa .store false (entAcc e) va 256
        match r.1.use va with
        | .error f => .next (r.2.entDone e.uid f.err)
        | .ok hd =>
          if !hdrImageOk hd || !aligned va 64 then .next (r.2.entDone e.uid (errPlan 1))
          else
            let r2 := r.2.readVa .store false (entAcc e) va (fld hd 40 8)
            match r2.1.use va with
            | .error f => .next (r2.2.entDone e.uid f.err)
            | .ok b =>
              let plan := planAt e.part e.ctx h va b
              match r2.2.loadFail e.part va b plan with
              | some sub => .next (r2.2.entDone e.uid (errPlan sub))
              | none =>
                let s1 := { r2.2 with plans := r2.2.plans ++ [plan] }
                let s2 := (s1.modGfe fun g => { g with planLoaded := true }).measure (measPlan e.part) plan.digest
                .next ((s2.modEnt e.uid fun x => { x with planH := h }).entDone e.uid errOk)

/-! ### UNLOAD (R197, R212) -/

/-- UNLOAD: the plan is marked; the entry completes when the plan is unloaded. -/
def execUnload (fn : Fn) (q : Nat) (s : State) : Out :=
  match s.toPlace fn q with
  | none => .next s
  | some e =>
    if entOpc e.raw ≠ 5 then .next s
    else match s.namedPlan e with
      | none => .next ((s.takeHead fn q e).entDone e.uid (errPlan 0x0E))
      | some pl =>
        .next (((s.takeHead fn q e).modPlan e.part pl.handle fun x => { x with unloading := true }).modEnt e.uid fun x =>
          { x with busy := true, planH := pl.handle, start := s.time.now })

/-- UNLOAD_COMPLETE (R197): no placed launch names the plan any more. -/
def execUnloadComplete (p handle : Nat) (s : State) : Out :=
  match s.planOf p handle with
  | none => .next s
  | some q =>
    if !s.running || !q.unloading || s.planInUse p handle then .next s
    else
      let done := s.ents.filter fun e => e.part == p && e.busy && entOpc e.raw == 5 && e.planH == handle
      let s1 := { s with plans := s.plans.filter fun x => !(x.part == p && x.ctx == q.ctx && x.handle == handle) }
      .next ((s1.each done fun s e => s.entDone e.uid errOk).measureOpen (measPlan p) 0x30 [handle])

/-! ### PATCH (R200, R201) -/

/-- PATCH: from a PF queue only. A context that runs the plan takes the value at its next step edge; else it takes effect at
once. -/
def execPatch (fn : Fn) (q : Nat) (s : State) : Out :=
  match s.toPlace fn q with
  | none => .next s
  | some e =>
    if entOpc e.raw ≠ 6 then .next s
    else
      let s0 := s.takeHead fn q e
      let id := byteFld e.raw 6 2
      let v : W64 := BitVec.ofNat 64 (byteFld e.raw 8 8)
      match s.namedPlan e with
      | none => .next (s0.entDone e.uid (if fn = .pf then errPlan 0x0E else errPlan 0x0A))
      | some pl =>
        match pl.patches.find? fun t => t.id == id with
        | none => .next (s0.entDone e.uid (errPlan 0x0A))
        | some t =>
          if fn ≠ .pf ∨ patchLenOk t.kind v = false then .next (s0.entDone e.uid (errPlan 0x0A))
          else
            let s1 := if s.planRuns e.part pl.handle then
                s0.modPlan e.part pl.handle fun x => { x with pendPatch := x.pendPatch ++ [(id, v)] }
              else s0.patchPlan pl [] [(id, v)]
            .next ((s1.measureOpen (measPlan e.part) 0x31 [pl.handle, id, v.toNat]).entDone e.uid errOk)

end Sys2Proof.Machine
end

