-- ==== Sys2Proof/Machine/Fmu.lean ====
section
/-! DEFINITION. Machine/Fmu.lean: the Fenjan metrology unit: taps, counts, windows, records, rings, commands, hold and seal
(R374 to R398, R475, R476). -/

namespace Sys2Proof.Machine

open Sys2Proof

/-- The key of the METER page. -/
def pgMETER : Nat := pk tMETER 0

/-- Elements in the order of a key, lowest first; equal keys keep their order. -/
def insertBy {α : Type} (key : α → Nat) (x : α) : List α → List α
  | [] => [x]
  | y :: r => if key x < key y then x :: y :: r else y :: insertBy key x r

def sortBy {α : Type} (key : α → Nat) : List α → List α
  | [] => []
  | x :: r => insertBy key x (sortBy key r)

/-! ### Buffer and hold (R390, R394) -/

/-- METER.BUF: records and waiting copies. -/
def FmuSt.buffered (f : FmuSt) : Nat := f.buf.length + (f.vf.map fun e => e.2.copies.length).sum

/-- Records that the buffer holds. -/
def fmuCap : Nat := 16384

/-- The hold follows the buffer's level. Each change raises HOLD in METER and in EMIT. -/
def State.holdUpdate (s : State) : State :=
  let f := s.fmu
  let h := f.emitHold && (if 8192 < f.buffered then true else if f.buffered ≤ 4096 then false else f.hold)
  if h = f.hold then s
  else (((s.modFmu fun f => { f with hold := h, heldInWin := f.heldInWin || h }).modEmit fun g => { g with hold := h }).raise pgMETER 4).raise
    (pk tEMIT 0) 0

/-! ### Records (R385, Tables 17.4, 17.5) -/

/-- SEAL (Table 17.5, METER.STATUS): 0 sealed, 1 unsealed, 2 evaluation part. -/
def FmuSt.sealCode (f : FmuSt) : Nat := if Config.sealS1 then b2n f.sealBlown else 2

/-- FLAGS of a record. -/
def FmuSt.flags (f : FmuSt) (late : Bool) : Nat :=
  packNat [⟨0, 0, b2n (!Config.sealS1)⟩, ⟨1, 1, b2n (Config.sealS1 && f.sealBlown)⟩, ⟨2, 2, b2n f.suspect⟩, ⟨3, 3, b2n (f.tapLock != .locked)⟩,
    ⟨4, 4, b2n (f.heldInWin || f.hold)⟩, ⟨5, 5, b2n late⟩]

/-- What a record states besides its body. -/
structure RecPart where
  typ : Nat
  time : Nat
  winMs : Nat
  part : Option Nat
  late : Bool
deriving DecidableEq, Repr

/-- A record of 256 B. -/
def FmuSt.record (f : FmuSt) (r : RecPart) (body : List Fld) : Flit :=
  let part := match r.part with | some p => 0x80 + p % 32 | none => 0
  let head := packNat ([bfld 0 1 r.typ, bfld 1 1 1, bfld 2 2 (f.flags r.late), bfld 4 4 f.boot.toNat, bfld 8 8 f.seq, bfld 16 8 r.time,
    bfld 24 4 r.winMs, bfld 28 1 part, bfld 29 3 (min f.lost 0xFFFFFF), bfld 110 32 (ofLe f.prev)] ++ body)
  BitVec.ofNat 2048 (head ||| (Config.fmuSign (shake256 (leBytes 142 head) 64) % 2 ^ 912) <<< (8 * 142))

/-- The record appended, with no thought of START: lost where the buffer is full (R390), else chained, buffered and copied to the
partition's ring within its share (R389). -/
def State.putRecord (s : State) (r : RecPart) (body : List Fld) : State :=
  let f := s.fmu
  if fmuCap ≤ f.buffered then (s.modFmu fun f => { f with lost := f.lost + 1, lostAll := f.lostAll + 1 }).raise pgMETER 2
  else
    let x := f.record r body
    let s1 := (s.modFmu fun f => { f with buf := f.buf ++ [x], seq := f.seq + 1, prev := shake256 (leBytes 256 x.toNat) 32, lost := 0 }).bump
      pgMETER 0x058 1
    match r.part with
    | none => s1
    | some p =>
      let v := Tbl.get VfRing.zero s1.fmu.vf p
      if !v.configured then s1
      else if 1024 ≤ v.copies.length ∨ fmuCap ≤ s1.fmu.buffered then
        s1.modFmu fun f => { f with vf := Tbl.set f.vf p { v with dropped := v.dropped + 1 }, vfLost := Tbl.set f.vfLost p (Tbl.get 0 f.vfLost p + 1) }
      else s1.modFmu fun f => { f with vf := Tbl.set f.vf p { v with copies := v.copies ++ [x] } }

/-- START (R386). -/
def State.meterFirst (s : State) : State :=
  s.putRecord ⟨1, s.fmu.tapNow.toNat, s.fmu.winMs, none, false⟩
    [bfld 32 8 Config.fmuSerial.toNat, bfld 40 4 Config.fmuRom.toNat, bfld 44 57 (ofLe Config.fmuPubkey), bfld 101 1 s.fmu.sealCode]

/-- A record built; START comes before the first of a power-on. -/
def State.buildRecord (s : State) (r : RecPart) (body : List Fld) : State :=
  ((if s.fmu.seq = 0 then s.meterFirst else s).putRecord r body).holdUpdate

/-! ### Counts (R380, R383, R384, Tables 17.2, 17.3) -/

/-- The latency bin of a sample in ns. -/
def itlBin (v : Nat) : Nat := ((List.range 15).filter fun b => decide (25000 * 2 ^ b ≤ v)).length

/-- `n` samples of `v` ns. -/
def FCounts.samples (c : FCounts) (n v : Nat) : FCounts :=
  let b := itlBin v
  { c with itl := c.itl.zipIdx.map (fun x => if x.2 = b then min (x.1 + n) 0xFFFFFF else x.1), itlMax := max c.itlMax v }

/-- Whether any count is above zero. -/
def FCounts.any (c : FCounts) : Bool :=
  decide (0 < c.tokens + c.steps + c.repeats + c.abandons + c.firsts) || c.itl.any fun n => decide (0 < n)

/-- The stream is metered at house time `e` (R387). -/
def FStream.at (x : FStream) (e : W64) : Bool :=
  (decide (x.regAt ≤ e) && (match x.goneAt with | some t => decide (e < t) | none => true))
    || x.spans.any fun q => decide (q.1 ≤ e ∧ e < q.2)

/-- Where a count of house time `e` goes: the window in progress, a closed window by its start, or a window that has not opened. -/
inductive Place where
  | current
  | late (win : Nat)
  | ahead
deriving DecidableEq, Repr

def FmuSt.winEnd (f : FmuSt) : Nat := f.winStart.toNat + f.winMs * 1000000

/-- The start of the window of `ms` that contains `t` (R54). -/
def winOf (ms t : Nat) : Nat := t / (ms * 1000000) * (ms * 1000000)

/-- The window length that held at `t`. -/
def FmuSt.lenAt (f : FmuSt) (t : Nat) : Nat :=
  match f.lens.find? fun x => decide (x.1 ≤ t) with
  | some x => x.2
  | none => f.winMs

def FmuSt.placeOf (f : FmuSt) (e : W64) : Place :=
  let t := e.toNat
  if f.winStart.toNat ≤ t ∧ t < f.winEnd then .current
  else if t < f.closed ∨ t < f.winStart.toNat then .late (winOf (f.lenAt t) t)
  else .ahead

/-- Counts of a stream changed, in the window of `e`. -/
def FmuSt.count (f : FmuSt) (p : Nat) (st : W32) (e : W64) (g : FCounts → FCounts) : FmuSt :=
  match f.placeOf e with
  | .late w =>
    let mine := fun (x : FLate) => x.win == w && x.part == p && x.stream == st
    if f.late.any mine then { f with late := f.late.map fun (x : FLate) => if mine x then { x with c := g x.c } else x }
    else { f with late := f.late ++ [⟨w, p, st, g FCounts.zero⟩] }
  | _ => { f with streams := f.streams.map fun (x : FStream) => if x.part = p ∧ x.stream = st then { x with c := g x.c } else x }

/-- The tokens of an edge are all tapped: its inter-token samples are added (R384). -/
def FmuSt.closeRun (f : FmuSt) (r : EdgeRun) : FmuSt :=
  match r.first, r.prevE with
  | false, some e0 => f.count r.part r.stream r.e fun c => c.samples r.n ((r.e.toNat - e0.toNat) / r.n)
  | _, _ => f

/-- Runs that `p` names end. -/
def FmuSt.closeRuns (f : FmuSt) (p : EdgeRun → Bool) : FmuSt :=
  let f1 := (f.edgeRun.filter p).foldl FmuSt.closeRun f
  { f1 with edgeRun := f1.edgeRun.filter fun r => !p r }

/-- A token of a metered stream (R380, R383, R384). -/
def FmuSt.token (f : FmuSt) (x : FStream) (e : W64) : FmuSt :=
  let mine := fun (r : EdgeRun) => r.part == x.part && r.stream == x.stream
  let f1 := f.closeRuns fun r => mine r && r.e != e
  if f1.edgeRun.any mine then
    ({ f1 with edgeRun := f1.edgeRun.map fun (r : EdgeRun) => if mine r then { r with n := r.n + 1 } else r }).count x.part x.stream e
      fun c => { c with tokens := c.tokens + 1 }
  else
    let a := match x.arr with | some t => if x.awaiting && decide (t < e) then some t else none | none => none
    let run : EdgeRun := ⟨x.part, x.stream, e, 1, a.isSome, x.prevE⟩
    let sts := f1.streams.map fun (y : FStream) =>
      if y.part = x.part ∧ y.stream = x.stream then
        { y with prevE := some e, awaiting := y.awaiting && a.isNone, arr := if a.isSome then none else y.arr }
      else y
    let f2 := { f1 with edgeRun := f1.edgeRun ++ [run], streams := sts }
    f2.count x.part x.stream e fun c =>
      match a with
      | some t => { c with tokens := c.tokens + 1, firsts := c.firsts + 1, ttft := e.toNat - t.toNat }
      | none => { c with tokens := c.tokens + 1 }

/-- A stream of the FMU's list, metered at `e`. -/
def FmuSt.meteredAt (f : FmuSt) (p : Nat) (st : W32) (e : W64) : Option FStream :=
  f.streams.find? fun x => x.part == p && x.stream == st && x.at e

/-- The FMU is powered. -/
def State.fmuOn (s : State) : Bool := s.boot.on && s.fmu.alive

/-- The next message of the emit gate tap is taken, where it is of the form wanted and its window has opened (log entry 48). -/
def State.takeTap (s : State) : State := s.modEmit fun g => { g with tap := g.tap.drop 1 }

/-- TOKEN_RECORD_TAP (R380). -/
def execTokenRecordTap (s : State) : Out :=
  match s.emit.tap with
  | .token m :: _ =>
    let p := byteFld m 10 1 % 32
    let st : W32 := BitVec.ofNat 32 (byteFld m 0 4)
    let e : W64 := BitVec.ofNat 64 (byteFld m 24 8)
    if !s.fmuOn || s.fmu.placeOf e == .ahead then .next s
    else
      let s1 := s.takeTap.bump pgMETER 0x040 1
      match s1.fmu.meteredAt p st e with
      | some x => .next (s1.modFmu fun f => f.token x e)
      | none => .next (s1.modFmu fun f => { f with unreg := f.unreg + 1 })
  | _ => .next s

/-- EDGE_NOTICE (R377, R383): steps, repeats or abandons of the metered streams that it names. -/
def execEdgeNotice (s : State) : Out :=
  match s.emit.tap with
  | .edge m :: _ =>
    let p := byteFld m 0 1
    let dec := byteFld m 1 1
    let lo := byteFld m 4 4
    let n := byteFld m 8 2
    let e : W64 := BitVec.ofNat 64 (byteFld m 24 8)
    if !s.fmuOn || s.fmu.placeOf e == .ahead then .next s
    else
      let s1 := s.takeTap.bump pgMETER 0x048 1
      let named := fun (st : W32) => decide (lo ≤ st.toNat ∧ st.toNat < lo + n)
      let l := s1.fmu.streams.filter fun x => x.part == p && named x.stream && x.at e
      let f1 := s1.fmu.closeRuns fun r => dec == 1 && r.part == p && named r.stream && r.e == e
      let f2 := l.foldl (fun f x => f.count p x.stream e fun c =>
        if dec = 1 then { c with steps := c.steps + 1 } else if dec = 2 then { c with repeats := c.repeats + 1 }
        else { c with abandons := c.abandons + 1 }) f1
      .next (s1.modFmu fun _ => f2)
  | _ => .next s

/-- DOORBELL_TAP (R378): the oldest doorbell in the tap. -/
def execDoorbellTap (s : State) : Out :=
  match s.fmu.doorTap with
  | d :: r => whenOk s.fmuOn (s.modFmu fun f => { f with doorTap := r, doors := f.doors ++ [d] }) s
  | [] => .next s

/-- Ring indices that a doorbell submitted: from the old tail up to the new one. -/
def Door.covers (d : Door) (i : Nat) : Bool :=
  if d.old ≤ d.tail then decide (d.old ≤ i ∧ i < d.tail) else decide (d.old ≤ i ∨ i < d.tail)

/-- The arrival time of a fetched LAUNCH (R378). Doorbells still in the tap before it come first. -/
def FmuSt.arrival (f : FmuSt) (x : FetchTap) : W64 :=
  match (f.doors ++ f.doorTap).find? fun d =>
      d.fn == x.fn && d.sq == x.sq && decide (x.after < d.ord ∧ d.ord < x.ord) && d.covers x.idx with
  | some d => d.t
  | none => x.t

/-- LAUNCH_TAP (R378, R383): request arrivals of the streams that await one. -/
def execLaunchTap (s : State) : Out :=
  match s.fmu.fetchTap with
  | x :: r =>
    if !s.fmuOn then .next s
    else
      let a := s.fmu.arrival x
      let hit := fun (y : FStream) => y.part == x.part && decide (x.stream0.toNat ≤ y.stream.toNat ∧ y.stream.toNat < x.stream0.toNat + x.nstreams)
        && y.awaiting && y.arr.isNone && y.goneAt.isNone && decide (y.reqAt ≤ x.t)
      .next ((s.modFmu fun f => { f with fetchTap := r, streams := f.streams.map fun (y : FStream) => if hit y then { y with arr := some a } else y }).bump
        pgMETER 0x050 1)
  | [] => .next s

/-! ### Windows (R382, R386, R475, R476) -/

/-- The body of a STREAM record. -/
def streamBody (st : W32) (c : FCounts) : List Fld :=
  [bfld 32 4 st.toNat, bfld 36 4 (min c.tokens 0xFFFFFFFF), bfld 40 4 (min c.steps 0xFFFFFFFF), bfld 44 2 (min c.repeats 0xFFFF),
    bfld 46 2 (min c.abandons 0xFFFF), bfld 48 6 (if c.firsts = 0 then 0xFFFFFFFFFFFF else min c.ttft 0xFFFFFFFFFFFF),
    bfld 54 2 (min c.firsts 0xFFFF)] ++ c.itl.zipIdx.map (fun x => bfld (56 + 3 * x.2) 3 x.1) ++ [bfld 104 6 (min c.itlMax 0xFFFFFFFFFFFF)]

/-- Order of STREAM records: window, partition, stream. -/
def streamKey (win p : Nat) (st : W32) : Nat := (win * 32 + p) * 2 ^ 32 + st.toNat

/-- The window in progress closes: supplementary records, STREAM records, WINDOW, and the counts restart; and the shared blocks latch
where no context is bound (R52). -/
def State.closeWindow (s : State) : State :=
  let s0 := s.modFmu fun f => f.closeRuns fun _ => true
  let f := s0.fmu
  let lates := sortBy (fun (x : FLate) => streamKey x.win x.part x.stream) f.late
  let own := sortBy (fun (x : FStream) => streamKey 0 x.part x.stream) (f.streams.filter fun x => x.c.any)
  let s1 := s0.each lates fun s x => s.buildRecord ⟨2, x.win, f.lenAt x.win, some x.part, true⟩ (streamBody x.stream x.c)
  let s2 := s1.each own fun s x => s.buildRecord ⟨2, f.winStart.toNat, f.winMs, some x.part, false⟩ (streamBody x.stream x.c)
  let toks := (lates.map fun x => x.c.tokens).sum + (own.map fun x => x.c.tokens).sum
  let s3 := s2.buildRecord ⟨3, f.winStart.toNat, f.winMs, none, false⟩
    [bfld 32 8 toks, bfld 40 8 f.unreg, bfld 48 4 (lates.length + own.length), bfld 52 4 f.acks, bfld 56 4 f.lastAck.toNat,
      bfld 60 2 (codeOf 16 f.drift), bfld 64 8 f.heldNs]
  (s3.latch fun k => k == pgMETER).latchUnbound.modFmu fun g =>
    { g with streams := g.streams.map (fun (x : FStream) => { x with c := FCounts.zero }), late := [], unreg := 0, acks := 0, heldNs := 0,
             heldInWin := g.hold, closed := max g.closed f.winEnd }

/-- The window that holds house time `t` opens; at an edge that is a whole multiple of a pending length, that length takes effect. -/
def FmuSt.openWindow (f : FmuSt) (t : Nat) (edge : Bool) : FmuSt :=
  let ms := if edge ∧ f.winEnd % (f.winPend * 1000000) = 0 then f.winPend else f.winMs
  let w := winOf ms t
  { f with winMs := ms, winStart := BitVec.ofNat 64 w, lens := if ms = f.winMs then f.lens else (w, ms) :: f.lens }

/-- The edges that house time has reached, before the record of any event at or after them (R386). -/
def State.edgesFirst : Nat → State → State
  | 0, s => s
  | n + 1, s =>
    let e := s.fmu.winEnd
    if s.fmu.tapSeen = true ∧ e ≤ s.fmu.tapNow.toNat then State.edgesFirst n (s.closeWindow.modFmu fun f => f.openWindow e true) else s

/-- METER_WINDOW_EDGE: house time has reached the end of the window in progress. -/
def execMeterWindowEdge (s : State) : Out :=
  let e := s.fmu.winEnd
  whenOk (s.fmuOn && decide (e ≤ s.fmu.tapNow.toNat)) (s.closeWindow.modFmu fun f => f.openWindow e true) s

/-- TIME_SUSPECT set, raised where it was clear. -/
def State.setSuspect (s : State) : State :=
  let s1 := s.modFmu fun f => { f with suspect := true, clean := 0, stepped := true }
  if s.fmu.suspect then s1 else s1.raise pgMETER 3

/-- TIME_TAP (R379, R381, R476): house time that has gone back, or on by more than 1 ms, closes the window in progress at once. -/
def execTimeTap (s : State) : Out :=
  if !s.fmuOn then .next s
  else
    let f := s.fmu
    let new := s.time.now
    let step := f.tapSeen && (decide (new < f.tapNow) || decide (f.tapNow.toNat + 1000000 < new.toNat))
    let take := fun (s : State) => s.modFmu fun f => { f with tapNow := new, tapLock := s.time.lock, tapSeen := true }
    if step then .next (take s.setSuspect.closeWindow |>.modFmu fun f => f.openWindow new.toNat false)
    else
      let s1 := if f.hold then s.modFmu fun f => { f with heldNs := f.heldNs + (new.toNat - f.tapNow.toNat) } else s
      .next (if f.tapSeen then take s1 else (take s1).modFmu fun f => f.openWindow new.toNat false)

/-- FMU_SECOND (R381): the rate difference of a second, in units of 0.1 ppm, and what it makes of TIME_SUSPECT. -/
def execFmuSecond (s : State) : Out :=
  if !s.fmuOn then .next s
  else
    let f := s.fmu
    let diff : Int := (f.tapNow.toNat : Int) - f.secNow.toNat - 1000000000
    let bad := decide (50000 < diff.natAbs) || f.stepped
    let n := if bad then 0 else f.clean + 1
    let d := diff / 100
    let s1 := s.modFmu fun f =>
      { f with secNow := f.tapNow, drift := max (-32768) (min 32767 d), stepped := false, clean := n, suspect := bad || (f.suspect && decide (n < 10)) }
    .next (if bad && !f.suspect then s1.raise pgMETER 3 else s1)

/-! ### Rings (R388 to R391) -/

/-- RECORD_WRITE: the oldest buffered record goes to the PF ring, then the new tail; a fault stops the ring. -/
def execRecordWrite (fault : Bool) (s : State) : Out :=
  let f := s.fmu
  let next := (f.ringTail + 1) % max 1 f.ringSize
  match f.buf with
  | [] => .next s
  | x :: rest =>
    if !s.fmuOn || !s.up || !f.ringSet || f.ringFault || f.stopped || next == f.ringHead || !s.bme .pf then .next s
    else
      let a := f.ringBase.toNat + 256 * f.ringTail
      if s.writeFaults .pf fault then
        .next (((s.hostFault .pf a 1 2).modFmu fun f => { f with ringFault := true }).raise pgMETER 0)
      else
        let s1 := (s.hostWrite .pf a (leBytes 256 x.toNat)).hostWrite .pf f.ringTailAddr.toNat (leBytes 8 next)
        .next ((s1.modFmu fun f => { f with buf := rest, ringTail := next }).bumpHi pgMETER 0x058 1).holdUpdate

/-- A VF ring stops (R389). -/
def State.vfFaultNow (s : State) (p addr sub : Nat) : State :=
  ((s.hostFault (.vf p) addr sub 2).modFmu fun f => { f with vfFault := setBit f.vfFault p }).raise pgMETER 5

/-- The head that a read of a full ring gives: one outside the ring or beyond the copies written is discarded. -/
def VfRing.takeHead (v : VfRing) (h : Nat) : VfRing :=
  let n := max 1 v.entries
  if v.entries ≤ h ∨ (v.tail + n - v.head) % n < (h + n - v.head) % n then v else { v with head := h }

/-- VF_COPY_WRITE: the oldest copy for a VF's ring; where the ring is full its head is read first. -/
def execVfCopyWrite (p : Nat) (head : Option HostRd) (fault : Bool) (s : State) : Out :=
  let v := Tbl.get VfRing.zero s.fmu.vf p
  let next := (v.tail + 1) % max 1 v.entries
  match v.copies with
  | [] => .next s
  | x :: rest =>
    if !s.fmuOn || !s.up || s.fmu.stopped || decide (32 ≤ p) || !v.configured || bitOf s.fmu.vfFault p || !s.bme (.vf p) then .next s
    else
      let full := next == v.head
      match (if full then head else some (.data (leBytes 8 v.head))) with
      | none => .next s
      | some .refused => .next (s.vfFaultNow p v.headAddr.toNat 2)
      | some .timeout => .next (s.vfFaultNow p v.headAddr.toNat 3)
      | some (.data b) =>
        let w := if full then v.takeHead (ofLe (b.take 8)) else v
        let s := if full then s.hostGet (.vf p) v.headAddr.toNat 8 else s
        if next = w.head then .next (s.modFmu fun f => { f with vf := Tbl.set f.vf p w })
        else
          let a := w.base.toNat + 256 * w.tail
          if s.writeFaults (.vf p) fault then .next ((s.modFmu fun f => { f with vf := Tbl.set f.vf p w }).vfFaultNow p a 1)
          else
            let s1 := (s.hostWrite (.vf p) a (leBytes 256 x.toNat)).hostWrite (.vf p) w.tailAddr.toNat (leBytes 8 next ++ leBytes 8 w.dropped)
            .next ((s1.modFmu fun f => { f with vf := Tbl.set f.vf p { w with copies := rest, tail := next } }).bump pgMETER 0x060 1).holdUpdate

/-! ### Commands (R392, Table 17.6) -/

/-- METER.CMD[0..7], as 64 B. -/
def State.meterCmd (s : State) : Desc := pack 512 ((List.range 8).map fun i => bfld (8 * i) 8 (s.rgN pgMETER (0x300 + 8 * i)))

def cmdF (c : Desc) (off len : Nat) : Nat := byteFld c off len

/-- The reserved bytes of a known command are zero. -/
def cmdZero (c : Desc) : Bool :=
  let z := fun (o n : Nat) => byteFld c o n == 0
  z 1 3 && match byteFld c 0 1 with
    | 1 => z 4 4 && z 12 52
    | 2 => z 5 3 && z 12 52
    | 3 => z 5 3 && z 12 52
    | 4 => z 4 4 && z 20 4 && z 32 32
    | 5 => z 4 4 && z 12 52
    | 6 => z 5 3 && z 20 4 && z 40 24
    | 7 => z 4 4 && z 9 55 && decide (byteFld c 8 1 < 2)
    | _ => z 4 4

/-- The partition that a command names. -/
def cmdPart (c : Desc) : Option Nat :=
  let k := byteFld c 0 1
  if (k = 2 ∨ k = 3 ∨ k = 6) ∧ byteFld c 4 1 < 32 then some (byteFld c 4 1) else none

/-- A ring's arguments: base, entries and tail address. -/
def ringOk (c : Desc) : Bool :=
  let n := byteFld c 16 4
  aligned (byteFld c 8 8) 4096 && (List.range 11).any (fun i => n == 1024 * 2 ^ i) && aligned (byteFld c 24 8) 8

/-- REGISTER: metering starts, or a new request. -/
def FmuSt.register (f : FmuSt) (p : Nat) (st : W32) : Nat × FmuSt :=
  let mine := fun (x : FStream) => x.part == p && x.stream == st
  let live := (f.streams.filter fun x => x.goneAt.isNone).length
  match f.streams.find? mine with
  | some x =>
    if x.goneAt.isSome && decide (8192 ≤ live) then (2, f)
    else
      let y := match x.goneAt with
        | some t => { x with spans := x.spans ++ [(x.regAt, t)], regAt := f.tapNow, goneAt := none, prevE := none }
        | none => x
      (0, { f with streams := f.streams.map fun (z : FStream) => if mine z then { y with awaiting := true, arr := none, reqAt := f.tapNow } else z })
  | none =>
    if 8192 ≤ live then (2, f)
    else (0, { f with streams := f.streams ++ [⟨p, st, f.tapNow, none, [], f.tapNow, true, none, none, FCounts.zero⟩] })

/-- UNREGISTER: metering stops; the window in progress still reports the counts. -/
def FmuSt.unregister (f : FmuSt) (p : Nat) (st : W32) : Nat × FmuSt :=
  let mine := fun (x : FStream) => x.part == p && x.stream == st && x.goneAt.isNone
  if f.streams.any mine then
    (0, { f with streams := f.streams.map fun (x : FStream) => if mine x then { x with goneAt := some f.tapNow, awaiting := false, arr := none } else x })
  else (3, f)

/-- What a well-formed command does: its result, and the FMU's state. -/
def FmuSt.command (f : FmuSt) (c : Desc) : Nat × FmuSt :=
  match byteFld c 0 1 with
  | 1 =>
    let n := byteFld c 8 4
    if 100 ≤ n ∧ 3600000 % n = 0 then (0, { f with winPend := n }) else (1, f)
  | 2 => if byteFld c 4 1 < 32 then f.register (byteFld c 4 1) (BitVec.ofNat 32 (byteFld c 8 4)) else (1, f)
  | 3 => if byteFld c 4 1 < 32 then f.unregister (byteFld c 4 1) (BitVec.ofNat 32 (byteFld c 8 4)) else (1, f)
  | 4 =>
    if ringOk c then
      (0, { f with ringBase := BitVec.ofNat 64 (byteFld c 8 8), ringSize := byteFld c 16 4, ringTailAddr := BitVec.ofNat 64 (byteFld c 24 8),
                   ringTail := 0, ringHead := 0, ringSet := true, ringFault := false, stopped := false })
    else (1, f)
  | 5 =>
    let h := byteFld c 8 4
    let n := max 1 f.ringSize
    if f.ringSet && decide (h < f.ringSize ∧ (h + n - f.ringHead) % n ≤ (f.ringTail + n - f.ringHead) % n) then
      (0, { f with ringHead := h, acks := f.acks + 1, lastAck := BitVec.ofNat 32 h })
    else (1, f)
  | 6 =>
    let p := byteFld c 4 1
    let v := Tbl.get VfRing.zero f.vf p
    if 32 ≤ p then (1, f)
    else if byteFld c 16 4 = 0 then (0, { f with vf := Tbl.set f.vf p { VfRing.zero with copies := v.copies }, vfFault := clrBit f.vfFault p })
    else if ringOk c && aligned (byteFld c 32 8) 8 then
      (0, { f with vf := Tbl.set f.vf p ⟨BitVec.ofNat 64 (byteFld c 8 8), byteFld c 16 4, BitVec.ofNat 64 (byteFld c 24 8),
                     BitVec.ofNat 64 (byteFld c 32 8), 0, 0, 0, v.copies, true⟩, vfFault := clrBit f.vfFault p })
    else (1, f)
  | 7 => (0, { f with emitHold := bitOf c 64 })
  | 8 => (0, f)
  | _ => (4, f)

/-- METER.CMD_GO: the command in METER.CMD is carried out, its result shown, and an AUDIT record built. An accepted RING_ACK builds
none: WINDOW counts it (log entry 49). Edges that house time has reached come first. -/
def State.meterGo (s0 : State) : State :=
  let s := s0.edgesFirst 64
  let c := s.meterCmd
  let k := byteFld c 0 1
  let r : Nat × FmuSt := if k = 0 ∨ 8 < k then (4, s.fmu) else if !cmdZero c then (1, s.fmu) else s.fmu.command c
  let s1 := s.modFmu fun _ => { r.2 with cmdRes := BitVec.ofNat 8 r.1 }
  let s2 := if k = 5 ∧ r.1 = 0 then s1
    else s1.buildRecord ⟨4, s.fmu.tapNow.toNat, s.fmu.winMs, cmdPart c, false⟩ [bfld 32 1 k, bfld 33 1 r.1, bfld 36 64 c.toNat]
  s2.holdUpdate

/-- METER.CMD_GO with the command `k` in METER.CMD. -/
def State.meterGoOf (s : State) (k : Nat) : Out := whenOk (s.fmuOn && s.up && byteFld s.meterCmd 0 1 == k) s.meterGo s

/-- SET_WINDOW, REGISTER, UNREGISTER, RING_SET, RING_ACK, VF_RING_SET, SET_HOLD, NOTE: METER.CMD_GO with that command. -/
def execSetWindow (s : State) : Out := s.meterGoOf 1
def execRegister (s : State) : Out := s.meterGoOf 2
def execUnregister (s : State) : Out := s.meterGoOf 3
def execRingSet (s : State) : Out := s.meterGoOf 4
def execRingAck (s : State) : Out := s.meterGoOf 5
def execVfRingSet (s : State) : Out := s.meterGoOf 6
def execSetHold (s : State) : Out := s.meterGoOf 7
def execNote (s : State) : Out := s.meterGoOf 8

/-- SEAL (R395 to R397): on an S1 part the loop, open for 10 ms, blows the fuse; the SEAL record is itself UNSEALED. -/
def execSeal (s : State) : Out :=
  if !s.fmuOn || !Config.sealS1 || s.fmu.sealBlown then .next s
  else
    let s1 := (s.edgesFirst 64).modFmu fun f => { f with sealBlown := true }
    .next ((s1.buildRecord ⟨5, s.fmu.tapNow.toNat, s.fmu.winMs, none, false⟩ []).raise pgMETER 1)

end Sys2Proof.Machine
end

