-- ==== Sys2Proof/Machine/Pcie.lean ====
section
/-! DEFINITION. Machine/Pcie.lean: the PCI Express function's side: interrupts, page control, function resets, bus mastering, ATS,
link changes and completion timeouts (R406, R425 to R439). -/

namespace Sys2Proof.Machine

open Sys2Proof

/-- A function of the module. -/
def fnOk : Fn → Bool
  | .pf => true
  | .vf p => decide (p < 32)

/-! ### Interrupts (R427, R428, R430) -/

/-- MSI-X vectors of a function. -/
def vecOk (fn : Fn) (v : Nat) : Bool := match fn with | .pf => decide (v < 2048) | .vf p => decide (p < 32 ∧ v < 64)

/-- The MSI-X tables of the functions lie in the register file: the key of the 4 KiB of function u's table that an offset falls in. -/
def tMSIX : Nat := 0x101
def msixKey (u off : Nat) : Nat := pk tMSIX (u * 8 + off / 4096)

/-- A pending message is sent where its vector is unmasked and its function a bus master. -/
def State.flushVec (s : State) (fn : Fn) (v : Nat) : State :=
  let k := fnKey fn * 4096 + v
  if Tbl.get false s.pcie.pending k && Tbl.get false s.pcie.unmasked k && s.bme fn then
    (s.modPcie fun x => { x with pending := Tbl.set x.pending k false }).send (.msix fn v)
  else s

/-- MSIX_UNMASK. -/
def execMsixUnmask (fn : Fn) (vec : Nat) (s : State) : Out :=
  whenOk (s.up && vecOk fn vec)
    ((s.modPcie fun x => { x with unmasked := Tbl.set x.unmasked (fnKey fn * 4096 + vec) true }).flushVec fn vec) s

/-- IRQ_ACK: a class still pending sends its message again. -/
def execIrqAck (v : W64) (s : State) : Out :=
  whenOk s.up (s.each (setBits v.toNat 16) fun s c => if s.classPending c then s.msix .pf (s.ivec c) else s) s

/-- FAULT_CLR. -/
def execFaultClr (v : W64) (s : State) : Out :=
  whenOk (s.up && bitOf v 0) (s.modPcie fun x => { x with faultAddr := 0, faultInfo := 0 }) s

/-- INT_STAT: write 1 to clear. -/
def execIntStat (pg : Page) (v : W32) (s : State) : Out :=
  whenOk (s.up && pageOk pg) (s.modIrq (pageKey pg) fun h => { h with intStat := h.intStat &&& ~~~v }) s

/-- INT_SET: the bits that the page has. -/
def execIntSet (pg : Page) (v : W32) (s : State) : Out :=
  whenOk (s.up && pageOk pg) (s.modIrq (pageKey pg) fun h => { h with intStat := h.intStat ||| (v &&& irqMask (pageKey pg)) }) s

/-! ### BLK_CTRL (R53, R406, R438, R439) -/

/-- CLR_ERR. -/
def execClrErr (pg : Page) (s : State) : Out :=
  whenOk (s.up && pageOk pg) (s.modHdr (pageKey pg) fun h => { h with errFirst := 0, errCount := 0 }) s

/-- FREEZE. -/
def execFreeze (pg : Page) (on : Bool) (s : State) : Out :=
  whenOk (s.up && pageOk pg) (s.modHdr (pageKey pg) fun h => { h with frozen := on }) s

/-- What a CRESET of a page asks for. -/
inductive ResetScope where
  | part (p : Nat)
  | device
  | none
deriving DecidableEq, Repr

/-- The reset that a page's block implies (R406, R439): METER, PART, VF and spare pages have none, nor has a block of a cluster that no
partition owns. -/
def State.resetScope (s : State) (pg : Page) : ResetScope :=
  let t := pg.typ
  if t = tMETER ∨ t = tPART ∨ (0x60 ≤ t ∧ t ≤ 0x63) then .none
  else if t = tCSQ ∨ t = tTXU ∨ (0x30 ≤ t ∧ t ≤ 0x33) then
    match (if t = tCSQ ∨ t = tTXU then s.ownerOf pg.unit else s.coreOwner pg.unit) with
    | some p => .part p
    | none => .none
  else .device

/-- CRESET: the reset is triggered or merged into; the bit reads 1 while one that covers the block is pending or in progress. -/
def execCreset (pg : Page) (s : State) : Out :=
  if !s.up || !pageOk pg then .next s
  else
    let mark := fun (s : State) => s.modHdr (pageKey pg) fun h => { h with creset := true }
    match s.resetScope pg with
    | .none => .next s
    | .part p =>
      let s1 := s.triggerReset p 0x12 false false
      .next (if (s1.part p).rst ≠ 0 ∨ s1.sage.devRst ≠ 0 then mark s1 else s1)
    | .device =>
      let s1 := s.triggerDevice 0x12 false
      .next (if s1.sage.devRst ≠ 0 then mark s1 else s1)

/-! ### Bus mastering, ATS, the link (R429 to R432, R437) -/

/-- Writes that a function is owed are issued, in order. -/
def State.issueOwed (s : State) (fn : Fn) : State :=
  let mine := s.pcie.owed.filter fun w => w.1 == fnKey fn
  (s.modPcie fun x => { x with owed := x.owed.filter fun w => w.1 != fnKey fn }).each mine fun s w => s.hostIssue fn w.2.1 w.2.2.1 w.2.2.2

/-- BUS_MASTER_ENABLE (R432): with Bus Master Enable set in D0 the waiting writes go in their order, then the waiting messages. -/
def execBusMasterEnable (fn : Fn) (en d0 : Bool) (s : State) : Out :=
  if !s.up || !fnOk fn then .next s
  else
    let s1 := s.modPcie fun x => { x with bme := Tbl.set x.bme (fnKey fn) (en && d0) }
    if en && d0 then
      let vecs := ((Tbl.keys s1.pcie.pending).filter fun k => k / 4096 == fnKey fn).map (· % 4096)
      .next ((s1.issueOwed fn).each vecs fun s v => s.flushVec fn v)
    else .next s1

/-- ATS_INVALIDATE (R429): accesses are issued at once in this model, so the request completes, and a later access asks again. `refuse`: what the host answers to the
function's translation requests from then on. -/
def execAtsInvalidate (fn : Fn) (refuse : Bool) (s : State) : Out :=
  whenOk (s.up && fnOk fn)
    (((s.modPcie fun x => { x with refused := Tbl.set x.refused (fnKey fn) refuse, atc := x.atc.filter fun e => e.1 != fnKey fn }).bumpHi pgPCIE 0x060 1).send (.atsDone fn)) s

/-- LINK_CHANGE (R437): the rate, 1 to 6, the width, and whether the link is up. -/
def execLinkChange (rate width : Nat) (isUp : Bool) (s : State) : Out :=
  whenOk (s.up && decide (1 ≤ rate ∧ rate ≤ 6 ∧ 1 ≤ width ∧ width ≤ 8))
    ((s.modPcie fun x => { x with rate := rate, width := width, linkUp := isUp }).raise pgPCIE 0) s

/-- COMPLETION_TIMEOUT (R430, R431): the read of a copy in progress or about to run, the fetch of an SQ entry, or the mailbox's image read
that the command in MBX_CMD makes, fails with TIMEOUT. -/
def execCompletionTimeout (fn : Fn) (q : Nat) (s : State) : Out :=
  let isRead := fun (e : Entry) => entOpc e.raw == 3 && !entFlag e.raw 0
  match s.copying fn q, s.placeHead fn q with
  | some e, _ => if s.running && isRead e then .next (s.copyReadFault e 3) else .next s
  | none, some e =>
    if isRead e then execHostCopy fn q .timeout s
    else if s.mayFetch fn q then .next (s.breakSq fn q 3) else .next s
  | none, none =>
    if s.mayFetch fn q then .next (s.breakSq fn q 3)
    else
      let cmd := bits (s.rg pgPCIE 0x278) 7 0
      let code := if cmd = 3 then 0x04 else 0x10
      if fn == .pf && s.mbxFree && decide (1 ≤ cmd ∧ cmd ≤ 3) && s.boot.code == code then
        .next ((s.hostFault .pf (s.rgN pgPCIE 0x280) 3 4).mbxTake 3 0)
      else .next s

/-! ### Function resets (R433, R434) -/

/-- Completed entries that wait for their CQ, with their token records, are discarded and counted. -/
def State.discardDone (s : State) (p : Entry → Bool) : State :=
  let gone := s.ents.filter fun e => e.st == .done && p e
  let mine := fun (h : HeldTok) => gone.any fun e => e.uid == h.uid
  let n := (s.emit.rel.filter mine).length
  let s1 := (s.each gone fun s e => s.signalEnt e).modEmit fun g => { g with rel := g.rel.filter fun h => !mine h }
  (({ s1 with ents := s1.ents.filter fun e => !gone.contains e }).bump pgPCIE 0x070 gone.length).bumpHi pgPCIE 0x070 n

/-- A function's configuration space and MSI-X table return to their reset values. -/
def State.clearFn (s : State) (fn : Fn) : State :=
  let k := fnKey fn
  { s with rf := Tbl.drop s.rf fun a => keyTyp (a / 4096) == tMSIX && keyUnit (a / 4096) / 8 == k }.modPcie fun x =>
    { x with ats := Tbl.drop x.ats (· == k), bme := Tbl.drop x.bme (· == k), owed := x.owed.filter (fun w => w.1 != k),
             refused := Tbl.drop x.refused (· == k), atc := x.atc.filter (fun e => e.1 != k), unmasked := Tbl.drop x.unmasked (fun v => v / 4096 == k),
             pending := Tbl.drop x.pending (fun v => v / 4096 == k) }

/-- Step 1 of R433. -/
def State.flrVf (s : State) (p : Nat) : State := ((s.clearFn (.vf p)).clearQueues (.vf p)).tdiError p

/-- A trigger of a partition compute reset of `p` starts one, and does not merge into what is in progress (R407). -/
def State.resetStarts (s : State) (p : Nat) : Bool :=
  (s.part p).rst == 0 && (s.part p).state == .active && s.sage.devRst == 0 && !s.sage.oos && s.sage.fatal.isNone

/-- VF_FLR (R433). Where the partition is ACTIVE a compute reset starts, and what the VF's queues hold completed is discarded; else only
steps 1 and 3 run. Where no reset runs the VF is ready at once. -/
def execVfFlr (p : Nat) (s : State) : Out :=
  if !s.up || decide (32 ≤ p) || !bitOf s.pcie.vfEn p then .next s
  else
    let s1 := s.flrVf p
    let s2 := if s.resetStarts p then
        ((s1.triggerReset p 0x13 true true).discardDone fun e => e.fn == Fn.vf p)
      else s1
    let s3 := (s2.modPcie fun x => { x with rrs := setBit x.rrs (1 + p) }).raise pgPCIE 3
    .next (if (s3.part p).rst = 0 ∧ s3.sage.devRst = 0 then s3.frs (.vf p) else s3)

/-- PF_FLR (R434): a PF function-level reset or hot reset, or the link going down. -/
def execPfFlr (linkDown : Bool) (s : State) : Out :=
  if !s.up then .next s
  else
    let s1 := (s.each (List.range 32) State.flrVf).clearFn .pf
    let s2 := (s1.clearQueues .pf).setRg pgGFE 0x208 0
    let s3 := (s2.modPcie fun x => { x with vfEn := 0, rrs := 1, linkUp := x.linkUp && !linkDown }).modSec fun x =>
      { x with sessions := [], ideLink := false, ideKeys := [] }
    let s4 := ((s3.modFmu fun f => { f with stopped := true }).modBoot fun b => { b with cause := if linkDown then 8 else 4 }).triggerDevice 0x13 true
    let s5 := (s4.discardDone fun _ => true).modSage fun g => { g with devNoCqe := g.devRst != 0 }
    .next (if s5.sage.devRst = 0 then s5.frs .pf else s5)

end Sys2Proof.Machine
end

