-- ==== Sys2Proof/Machine/Power.lean ====
section
/-! DEFINITION. Machine/Power.lean: power states, the arithmetic clock step, thermal stages, sequencing and the management sideband
(R455 to R469). -/

namespace Sys2Proof.Machine

open Sys2Proof

/-- The key of the POWER page. -/
def pgPOWER : Nat := pk tPOWER 0

/-! ### The clock step (R456, R457, R462, R463) -/

/-- The step demanded, and its cause: thermal before input voltage before power cap. -/
def PowerSt.demand (p : PowerSt) : Nat × Nat :=
  let m := min p.mTherm (min p.mVin p.mCap)
  (m, if m = 16 then 0 else if p.mTherm = m then 2 else if p.mVin = m then 3 else 1)

/-- The clock runs at the lowest step demanded; each change raises THROTTLE. -/
def State.applyStep (s : State) : State :=
  let d := s.power.demand
  let s1 := s.modPower fun p => { p with m := d.1, cause := d.2, lowM := if p.lowM = 0 then (if d.1 = p.m then 0 else d.1) else min p.lowM d.1 }
  if d.1 ≠ s.power.m ∧ s.up = true then s1.raise pgPOWER 0 else s1

/-- One step down from `m`, at least 8; one step up from a demand, at most 16. -/
def stepDown (m : Nat) : Nat := max 8 (m - 1)
def stepUp (d : Nat) : Nat := min 16 (d + 1)

/-- The tick plus one since which a condition holds, 0 while it does not; whether it has held for 1 ms. -/
def sinceOf (cond : Bool) (old mono : Nat) : Nat := if cond then (if old = 0 then mono + 1 else old) else 0
def heldMs (since mono : Nat) : Bool := since != 0 && decide (since + 1000000 ≤ mono + 1)

/-- POWER_CONTROL (R456): the 1 ms and 100 µs averages of input power, W, each 100 µs. -/
def execPowerControl (avg1ms avg100us : Nat) (s : State) : Out :=
  if !s.boot.on then .next s
  else
    let cap := bits (s.rg pgPOWER 0x210) 12 0
    let since := sinceOf (decide (avg1ms * 100 < 97 * cap)) s.power.lowSince s.time.mono
    let e := s.power.energyRem + avg100us
    let s1 := s.modPower fun p =>
      { p with lowSince := since, watts := avg1ms, aboveTdp := decide (4400 < avg1ms), energyRem := e % 10,
               mCap := if 5200 < avg100us then 8 else if cap < avg1ms then stepDown p.m
                       else if heldMs since s.time.mono then stepUp p.mCap else p.mCap }
    let s2 := s1.bump64 pgPOWER 0x050 (e / 10)
    let s3 := if decide (4400 < avg1ms) && !s.power.aboveTdp then s2.bump pgPOWER 0x048 1 else s2
    .next s3.applyStep

/-- VIN_RANGE (R457): the 1 ms average of input voltage, mV. -/
def execVinRange (mv : Nat) (s : State) : Out :=
  if !s.boot.on then .next s
  else
    let out := decide (mv < 36000 ∨ 44000 < mv)
    let since := sinceOf (!out) s.power.vinOkSince s.time.mono
    let range := out || (s.power.vinRange && !heldMs since s.time.mono)
    let s1 := s.modPower fun p => { p with mv := mv, vinOkSince := since, vinRange := range, mVin := if mv < 36000 then 8 else 16 }
    let s2 := if range && !s.power.vinRange && s.up then s1.raise pgPOWER 2 else s1
    .next s2.applyStep.alertUpdate

/-- THERMAL_STAGE (R462, Table 21.6): the tiles' hottest junctions, 0.1 °C, each 100 µs. -/
def execThermalStage (tj : List Nat) (s : State) : Out :=
  if !s.boot.on then .next s
  else
    let t := tj.foldl max 0
    let since := sinceOf (decide (t < 920)) s.power.coolSince s.time.mono
    let s1 := s.modPower fun p =>
      { p with tj := tj.take 8, tjMax := t, hot90 := decide (900 ≤ t), coolSince := since,
               mTherm := if 1010 ≤ t then 8 else if 950 ≤ t then stepDown p.m
                         else if heldMs since s.time.mono then stepUp p.mTherm else p.mTherm }
    .next s1.applyStep.alertUpdate

/-! ### Registers (Table 20.15) -/

/-- CLK_CLR: the lowest m becomes the current m. -/
def execClkClr (v : W64) (s : State) : Out := whenOk (s.up && bitOf v 0) (s.modPower fun p => { p with lowM := p.m }) s

/-- POWER_CAP: from the PF, or from the sideband, which serves while PG is asserted (R467). -/
def execPowerCap (sideband : Bool) (v : W64) (s : State) : Out :=
  let n := bits v 12 0
  if !(if sideband then s.boot.on else s.up) then .next s
  else if 1000 ≤ n ∧ n ≤ 4400 then .next (s.setRg pgPOWER 0x210 (BitVec.ofNat 64 n))
  else .next (s.countErr pgPOWER)

/-! ### IDLE (R458, R459) -/

/-- POWER.CTRL.IDLE_REQ. -/
def State.idleReqOn (s : State) : Bool := bitOf (s.rg pgPOWER 0x208) 0

/-- IDLE_REQ. -/
def execIdleReq (v : W64) (s : State) : Out := whenOk s.up (s.setRg pgPOWER 0x208 (BitVec.ofNat 64 (b2n (bitOf v 0)))) s

/-- Every tier unit enters self-refresh, or leaves it but for those that another cause holds in it. -/
def State.refreshAll (s : State) (on : Bool) : State :=
  s.each (List.range 32) fun s u =>
    let down := decide (16 ≤ u) && !(s.bridge ((u - 16) % 8)).linkUp
    s.modTier u fun t => { t with selfRefresh := on || s.sage.oos || down }

/-- IDLE_ENTRY: nothing is bound or in hand. -/
def execIdleEntry (s : State) : Out :=
  let busy := s.anyBound || !s.ents.isEmpty || s.movers.any (fun m => !m.2.descs.isEmpty) || s.kpms.any (fun k => !k.2.ops.isEmpty)
    || s.folds.any fun e => e.2.parts.any fun x => x.2.started || !x.2.held.isEmpty
  whenOk (s.up && s.idleReqOn && !s.power.idle && !busy) ((s.modPower fun p => { p with idle := true, wake := false }).refreshAll true) s

/-- IDLE_EXIT. -/
def execIdleExit (s : State) : Out :=
  let wake := !s.idleReqOn || s.power.wake || s.anyBound || s.sqs.any fun e => e.2.state != .disabled && e.2.head != e.2.tail
  whenOk (s.up && s.power.idle && wake) ((s.modPower fun p => { p with idle := false, wake := false }).refreshAll false) s

/-! ### Sequencing (R460) -/

/-- The state of a module that is off: what flash, fuses, spare rows and the meter die's own store hold, and the pins. Nothing is known
of memory at the next power-up: it reads as memory that nothing has written (log entry 4). -/
def State.powerOff (s : State) : State :=
  { State.reset with
    pending := s.pending, out := s.out, freeCtr := s.freeCtr, lsu := s.lsu,
    slices := s.slices.map (fun e => (e.1, e.2.afterPerst)), tiers := s.tiers.map (fun e => (e.1, { e.2.afterPerst with refresh2x := false })),
    sec := { SecSt.reset with fusedSvn := s.sec.fusedSvn, revoked := s.sec.revoked },
    boot := { s.boot.afterPerst s.dbg.staging with on := false },
    fmu := { FmuSt.reset with alive := false, boot := s.fmu.boot, sealBlown := s.fmu.sealBlown } }

/-- PWR_EN_ASSERT: the module powers up with PERST_N asserted, and the FMU builds START. -/
def execPwrEnAssert (loopClosed : Bool) (s : State) : Out :=
  if s.boot.pwrEn || s.boot.on then .next s
  else
    let s1 := s.modBoot fun b => { b with pwrEn := true, on := true, perst := true, cause := 1, straps := if loopClosed then 4 else 0 }
    .next (s1.modFmu fun f => { f with alive := true, boot := f.boot + 1 }).meterFirst

/-- PWR_EN_DEASSERT: as PERST_N and power-down; THERMTRIP_N is released. -/
def execPwrEnDeassert (s : State) : Out :=
  let s1 := if s.boot.on then s.powerOff else s
  .next (s1.modBoot fun b => { b with pwrEn := false, thermtrip := false })

/-- VIN_SHUTDOWN (R457): input below 33 V for 1 ms or above 46 V for 100 µs. -/
def execVinShutdown (mv : Nat) (s : State) : Out := whenOk (s.boot.on && decide (mv < 33000 ∨ 46000 < mv)) s.powerOff s

/-- THERMTRIP (R462): a junction at 110 °C or above. -/
def execThermtrip (tj : Nat) (s : State) : Out :=
  whenOk (s.boot.on && decide (1100 ≤ tj)) (s.powerOff.modBoot fun b => { b with thermtrip := true }) s

/-! ### The sideband (R467, Table 21.8) -/

/-- POWER.STATE: 0 ACTIVE, 1 IDLE, 2 THROTTLED. -/
def State.powerState (s : State) : Nat := if s.power.idle then 1 else if s.power.m < 16 then 2 else 0

/-- POWER.CLK. -/
def State.powerClk (s : State) : Nat := packNat [⟨4, 0, s.power.m⟩, ⟨12, 8, s.power.lowM⟩, ⟨19, 16, s.power.cause⟩]

/-- ID.NEAR_PAGES, ID.MODULE_PAGES, ID.SHELF_PAGES (R447): zero until CODE first reads READY. -/
def State.idPages (s : State) (target : Nat) : Nat := if s.boot.code = codeReady then s.capacity target else 0

/-- ID.DEGRADED. -/
def State.degradedBits (s : State) : Nat := packNat ((List.range 32).map fun u => ⟨u, u, b2n (s.tier u).degraded⟩)

/-- ELREN.LSU but for its outputs: both units are present; one that is disabled or has failed leaves SINGLE. -/
def State.lsuBits (s : State) : Nat :=
  let c := s.rg (pgEl 0) 0x310
  let a := s.lsu.aGood && bitOf c 0
  let b := s.lsu.bGood && bitOf c 1
  let pct := fun (x y : Bool) => if x then (if y then 50 else 100) else 0
  packNat [⟨0, 0, 1⟩, ⟨1, 1, b2n s.lsu.aGood⟩, ⟨2, 2, b2n (!bitOf c 0)⟩, ⟨3, 3, 1⟩, ⟨4, 4, b2n s.lsu.bGood⟩, ⟨5, 5, b2n (!bitOf c 1)⟩,
    ⟨6, 6, b2n (a != b)⟩, ⟨15, 8, pct a b⟩, ⟨23, 16, pct b a⟩]

/-- SAGE.FATAL. -/
def State.fatalWord (s : State) : Nat :=
  packNat [⟨7, 0, s.sage.fatal.getD 0⟩, ⟨8, 8, b2n s.sage.dumpDone⟩, ⟨9, 9, b2n s.sage.dumpNone⟩, ⟨31, 12, s.sage.dumpLen⟩]

/-- PLDM_SENSOR_READ. Input current and the coolant's temperatures are readings that nothing here determines: they are free. -/
def execPldmSensorRead (id : Nat) (s : State) : Out :=
  if !s.boot.on || id = 0 || decide (15 < id) then .next s
  else
    let f := s.fresh 20
    let answer := fun (v : Nat) => s.send (.pldm id (BitVec.ofNat 64 v))
    match id with
    | 1 => .next (answer s.power.mv)
    | 3 => .next (answer s.power.watts)
    | 4 => .next (answer s.power.tjMax)
    | 5 => .next (answer s.powerClk)
    | 8 => .next (answer s.powerState)
    | 9 => .next (answer (s.idPages 1))
    | 10 => .next (answer (s.idPages 2))
    | 11 => .next (answer (s.idPages 3))
    | 12 => .next (answer s.degradedBits)
    | 13 => .next (answer s.lsuBits)
    | 14 => .next (answer s.boot.code)
    | 15 => .next (answer (s.sage.fatal.getD 0))
    | _ => .next (f.2.send (.pldm id (BitVec.ofNat 64 f.1)))

end Sys2Proof.Machine
end

