-- ==== Sys2Proof/Machine/Sec.lean ====
section
/-! DEFINITION. Machine/Sec.lean: partition reports, the SPDM responder, keys, IDE and TDISP (R368 to R372, R454). -/

namespace Sys2Proof.Machine

open Sys2Proof

/-! ### Measurements (R367, Table 16.7A) -/

/-- The stored measurements: the boot ROM, the firmware DIGEST and the partitions' chains. -/
def SecSt.measured (x : SecSt) (idx : Nat) : Option Bytes := (x.meas.find? fun e => e.1 == idx).map (·.2)

/-- Measurement 0x03: image SVN, fused SVN, contract level and the part number's seal field. -/
def State.measureSvn (s : State) : Bytes :=
  shake256 (Config.measBytes 3 [s.sec.imageSvn, s.sec.fusedSvn, s.gfe.level, b2n Config.sealS1]) 64

/-- Measurement 0x04: module ID, time role and Elren enables, extended by each debug grant of the steward since boot (R471). -/
def State.measureModule (s : State) : Bytes :=
  let base := shake256 (Config.measBytes 4 (s.moduleId.toNat :: bits (s.rg pgTIME 0x200) 1 0 :: (List.range 16).map fun e =>
    b2n (bitOf (s.rg (pgEl e) 0x200) 0))) 64
  s.sec.stewGrants.foldl (fun m g => shake256 (m ++ g) 64) base

/-- Every measurement the module holds, by index: from boot on, 0x03 and 0x04 as they stand. -/
def State.measTable (s : State) : Tbl Bytes :=
  if s.sec.aliasReady then Tbl.set (Tbl.set s.sec.meas 3 s.measureSvn) 4 s.measureModule else s.sec.meas

def State.measured (s : State) (idx : Nat) : Option Bytes := (s.measTable.find? fun e => e.1 == idx).map (·.2)

/-! ### Reports (R368, R454) -/

/-- The key of a VF_STATUS page. -/
def pgVS (p : Nat) : Nat := pk tVFSTATUS p

/-- REPORT_NONCE. -/
def State.nonceOf (s : State) (p : Nat) : Bytes := (List.range 8).flatMap fun i => leBytes 8 (s.rgN (pgVS p) (0x300 + 8 * i))

/-- REPORT_REQUEST: ignored while BUSY. The nonce is taken as it stands. -/
def execReportRequest (p : Nat) (s : State) : Out :=
  whenOk (s.up && decide (p < 32) && !bitOf (s.rg (pgVS p) 0x348) 0)
    ((s.setRg (pgVS p) 0x348 1).modSec fun x => { x with nonces := Tbl.set x.nonces p (s.nonceOf p) }) s

/-- A partition's report (R368): the module ID, the partition, the VF number, the generation, house time, the nonce, four measurements
and the TDI state, in 512 B whose layout and signature are open (log entry 50). -/
def State.report (s : State) (p : Nat) : Bytes :=
  toLen 512 (Config.reportBytes [s.moduleId.toNat, p, p, (s.part p).gen.toNat, s.now, (s.part p).tdi.code]
    (Tbl.get [] s.sec.nonces p :: [2, 3, measConfig p, measPlan p].map fun i => (s.measured i).getD []))

/-- REPORT_DONE: the report is in the buffer, and DONE reads 1. -/
def execReportDone (p : Nat) (s : State) : Out :=
  if !s.running || decide (32 ≤ p) || !bitOf (s.rg (pgVS p) 0x348) 0 then .next s
  else
    let b := s.report p
    let s1 := s.each (List.range 64) fun s i => s.setRg (pgVS p) (0x400 + 8 * i) (BitVec.ofNat 64 (ofLe ((b.drop (8 * i)).take 8)))
    .next ((s1.setRg (pgVS p) 0x348 2).bump pgSEC 0x048 1)

/-! ### SPDM (R369) -/

/-- The responder serves: the firmware runs and holds the alias key. -/
def State.spdmOn (s : State) : Bool := s.up && s.sec.aliasReady && s.sage.fatal.isNone && !s.sage.stewardRst

/-- A request served: counted, and its answer sent. `code` numbers the requests of R369 in its order. -/
def State.spdmAnswer (s : State) (code : Nat) (data : Bytes) : State := (s.bump pgSEC 0x040 1).send (.spdm code data)

/-- A request that is refused is answered with an error. -/
def State.spdmRefuse (s : State) : State := s.send (.spdm 0x7F [])

/-- A request served after version, capabilities and algorithms have been agreed, as SPDM orders them (PRESUMED, log entry 51). -/
def State.spdmServe (s : State) (ok : Bool) (go : State → State) : Out :=
  if !s.spdmOn then .next s
  else if ok then .next (go s) else .next s.spdmRefuse

def SecSt.agreed (x : SecSt) : Bool := x.versionDone && x.capsDone && x.algsDone

/-- An answer with `n` bytes that the spec does not lay out. -/
def State.spdmOpen (s : State) (code n : Nat) : State :=
  let b := s.freshBytes n
  b.2.spdmAnswer code b.1

/-- GET_VERSION starts a new connection. -/
def execGetVersion (s : State) : Out :=
  s.spdmServe true fun s => (s.modSec fun x => { x with versionDone := true, capsDone := false, algsDone := false }).spdmAnswer 0 [0x12]

/-- GET_CAPABILITIES. -/
def execGetCapabilities (s : State) : Out :=
  s.spdmServe s.sec.versionDone fun s => (s.modSec fun x => { x with capsDone := true }).spdmOpen 1 16

/-- NEGOTIATE_ALGORITHMS: the one set of R369. -/
def execNegotiateAlgorithms (s : State) : Out :=
  s.spdmServe (s.sec.versionDone && s.sec.capsDone) fun s => (s.modSec fun x => { x with algsDone := true }).spdmOpen 2 16

/-- GET_DIGESTS: of the chain in slot 0. -/
def execGetDigests (s : State) : Out := s.spdmServe s.sec.agreed fun s => s.spdmOpen 3 64

/-- GET_CERTIFICATE: a part of the alias chain, which lies in slot 0. -/
def execGetCertificate (slot off len : Nat) (s : State) : Out :=
  s.spdmServe (s.sec.agreed && slot == 0 && decide (off + len ≤ 65535)) fun s => s.spdmOpen 4 len

/-- CHALLENGE: signed with the alias key. -/
def execChallenge (nonce : Bytes) (s : State) : Out := s.spdmServe (s.sec.agreed && decide (nonce.length ≤ 64)) fun s => s.spdmOpen 5 114

/-- GET_MEASUREMENTS: index 0 asks their number, 0xFF all of them, another index its raw 64 B value. -/
def execGetMeasurements (idx : Nat) (s : State) : Out :=
  let all := s.measTable.flatMap fun e => leBytes 1 e.1 ++ e.2
  let data := if idx = 0 then some (leBytes 1 s.measTable.length) else if idx = 0xFF then some all else s.measured idx
  s.spdmServe (s.sec.agreed && data.isSome) fun s => s.spdmAnswer 6 (data.getD [])

/-- KEY_EXCHANGE: a session number, up to four sessions. -/
def execKeyExchange (data : Bytes) (s : State) : Out :=
  s.spdmServe (s.sec.agreed && decide (s.sec.sessions.length < 4) && decide (data.length ≤ 4096)) fun s =>
    (s.modSec fun x => { x with sessions := x.sessions ++ [(x.nextSid, false)], nextSid := x.nextSid + 1 }).spdmAnswer 7 (leBytes 2 s.sec.nextSid)

/-- A session is established. -/
def SecSt.open (x : SecSt) (sid : Nat) : Bool := x.sessions.any fun e => e.1 == sid && e.2

/-- FINISH: a session whose exchange verifies is established; one that does not ends. -/
def execFinish (sid : Nat) (verified : Bool) (s : State) : Out :=
  let begun := s.sec.sessions.any fun e => e.1 == sid && !e.2
  if !s.spdmOn then .next s
  else if !begun then .next s.spdmRefuse
  else if verified then
    .next ((s.modSec fun x => { x with sessions := x.sessions.map fun e => if e.1 = sid then (sid, true) else e }).spdmAnswer 8 [])
  else .next (s.modSec fun x => { x with sessions := x.sessions.filter fun e => e.1 != sid }).spdmRefuse

/-- KEY_UPDATE: of an established session; the keys themselves are not part of this state. -/
def execKeyUpdate (sid : Nat) (s : State) : Out := s.spdmServe (s.sec.open sid) fun s => s.spdmAnswer 9 []

/-- END_SESSION. -/
def execEndSession (sid : Nat) (s : State) : Out :=
  s.spdmServe (s.sec.open sid) fun s =>
    (s.modSec fun x => { x with sessions := x.sessions.filter fun e => e.1 != sid }).spdmAnswer 10 []

/-! ### Keys (R306, R360, R370, R372, R471) -/

/-- A KEY_SET is refused and counted. -/
def State.keyRefuse (s : State) : State := (s.bumpHi pgSEC 0x050 1).spdmRefuse

/-- A partition's flow key set: its flow counters start anew (R306), and its measurement is extended where it exists. -/
def State.setFlowKey (s : State) (p : Nat) (key : BitVec 256) : State :=
  let s1 := s.modSec fun x => { x with flowKeys := Tbl.set x.flowKeys p key }
  let ps := s1.ports.map fun (e : Nat × PortSt) => (e.1, { e.2 with fctr := Tbl.drop e.2.fctr fun k => k / 4 == p })
  let s2 := { s1 with ports := ps }
  ((if (s2.part p).state = .free then s2 else s2.measureOpen (measConfig p) 0x12 [p, key.toNat]).tdiError p)

/-- KEY_SET (R372): over an established session. A flow key is taken only while the partition's context is unbound, and is counted in
PART's ERR_COUNT and refused while the partition is torn down (R360). -/
def execKeySet (sid : Nat) (target : Option Nat) (key : BitVec 256) (s : State) : Out :=
  if !s.spdmOn then .next s
  else if !s.sec.open sid then .next s.keyRefuse
  else match target with
    | none =>
      .next (((s.modSec fun x => { x with linkKey := some key, linkKeyGen := x.linkKeyGen + 1, keySets := x.keySets + 1 }).bump pgSEC 0x050 1).spdmAnswer 11 [])
    | some p =>
      let q := s.part p
      if 32 ≤ p then .next s.keyRefuse
      else if q.state = .tearingDown ∨ q.state = .scrubbing then .next (s.countErr (pgPART p)).keyRefuse
      else if (s.ctx p).bound then .next s.keyRefuse
      else .next (((s.setFlowKey p key).bump pgSEC 0x050 1).spdmAnswer 11 [])

/-- DBG_KEY_SET (R471). -/
def execDbgKeySet (sid : Nat) (key : Bytes) (s : State) : Out :=
  s.spdmServe (s.sec.open sid && key.length == 57) fun s => (s.modSec fun x => { x with dbgKey := some key }).spdmAnswer 11 []

/-- IDE_KM (R370): stream 0 is the link stream, stream 1 + p the selective stream of VF p. -/
def execIdeKm (sid : Nat) (stream : Nat) (key : BitVec 256) (s : State) : Out :=
  s.spdmServe (s.sec.open sid && decide (stream ≤ 32)) fun s =>
    (s.modSec fun x => { x with ideKeys := Tbl.set x.ideKeys stream key, ideLink := x.ideLink || stream == 0 }).spdmAnswer 12 []

/-! ### TDISP (R371) -/

/-- A VF that exists (R425). -/
def State.vfExists (s : State) (p : Nat) : Bool := decide (p < 32) && bitOf s.pcie.vfEn p

/-- LOCK_INTERFACE: CONFIG_UNLOCKED to CONFIG_LOCKED. -/
def execLockInterface (p : Nat) (s : State) : Out :=
  s.spdmServe (s.vfExists p && (s.part p).tdi == .unlocked) fun s => (s.modPart p fun q => { q with tdi := .locked }).spdmAnswer 13 []

/-- START_INTERFACE: CONFIG_LOCKED to RUN. -/
def execStartInterface (p : Nat) (s : State) : Out :=
  s.spdmServe (s.vfExists p && (s.part p).tdi == .locked) fun s => (s.modPart p fun q => { q with tdi := .run }).spdmAnswer 14 []

/-- STOP_INTERFACE: to CONFIG_UNLOCKED, from RUN or ERROR; from CONFIG_LOCKED too (PRESUMED, log entry 51). -/
def execStopInterface (p : Nat) (s : State) : Out :=
  s.spdmServe (s.vfExists p) fun s => (s.modPart p fun q => { q with tdi := .unlocked }).spdmAnswer 15 []

end Sys2Proof.Machine
end

