-- ==== Sys2Proof/Machine/Debug.lean ====
section
/-! DEFINITION. Machine/Debug.lean: the debug port: TAP, grants, halts, steps, breakpoints, memory and registers; trace (R451, R470 to
R473). -/

namespace Sys2Proof.Machine

open Sys2Proof

/-! ### The TAP (R465, R470, Table 21.9) -/

/-- IDCODE: the 32-bit ID register. -/
def execIdcode (s : State) : Out :=
  whenOk s.boot.on ((s.modDebug fun d => { d with ir := 0x01 }).send (.tap 0x01 0x10840A35)) s

/-- BYPASS, and any instruction that is not of Table 21.9. -/
def execBypass (ir : Byte) (s : State) : Out :=
  whenOk (s.boot.on && ir != 0x01 && ir != 0x20) ((s.modDebug fun d => { d with ir := ir }).send (.tap ir 0)) s

/-- DBG_TRST_N resets the TAP alone: IDCODE is selected, as IEEE 1149.1 has it (PRESUMED, log entry 52). -/
def execDbgTrstN (s : State) : Out := whenOk s.boot.on (s.modDebug fun d => { d with ir := 0x01 }) s

/-! ### Commands (Table 21.10) -/

def dbgData (c : BitVec 192) : W64 := BitVec.ofNat 64 (bits c 191 128)
def dbgAddr (c : BitVec 192) : Nat := bits c 127 64
def dbgArg (c : BitVec 192) : Nat := bits c 63 32
def dbgIndex (c : BitVec 192) : Nat := bits c 31 16
def dbgSpace (c : BitVec 192) : Nat := bits c 15 12
def dbgKind (c : BitVec 192) : Nat := bits c 11 8
def dbgOp (c : BitVec 192) : Nat := bits c 7 0

/-- Results of Table 21.10. -/
def rOK : Nat := 0
def rNO_GRANT : Nat := 1
def rBAD_TARGET : Nat := 2
def rDENIED : Nat := 3
def rBAD_GRANT : Nat := 5
def rEXPIRED : Nat := 6

/-- What a command names. -/
inductive Target where
  | steward (i : Nat)
  | seq (c : Nat)
  | pipe (k j : Nat)
deriving DecidableEq, Repr

def dbgTarget (c : BitVec 192) : Option Target :=
  let i := dbgIndex c
  match dbgKind c with
  | 0 => if i < 4 then some (.steward i) else none
  | 1 => if i < 32 then some (.seq i) else none
  | 2 => if i < 256 then some (.pipe (i / 2) (i % 2)) else none
  | _ => none

/-- The partition that owns a target; none of the steward's cores, and of a cluster that no partition owns. -/
def State.targetOwner (s : State) : Target → Option Nat
  | .steward _ => none
  | .seq c => s.ownerOf c
  | .pipe k _ => s.coreOwner k

/-- The target state of a response: 0 running, 1 halted, 2 not owned. -/
def State.targetState (s : State) : Target → Nat
  | .steward i => b2n (bitOf s.dbg.stewHalted i)
  | .seq c => if (s.ownerOf c).isSome then b2n (s.seq c).halted else 2
  | .pipe k j => if (s.coreOwner k).isSome then b2n (s.pipe k j).halted else 2

/-- The answer to a command. -/
def State.dbgAnswer (s : State) (c : BitVec 192) (res : Nat) (data : W64) : State :=
  let st := match dbgTarget c with | some t => s.targetState t | none => 2
  (s.modDebug fun d => { d with ir := 0x20 }).send (.dbg (pack 192 [⟨191, 128, data.toNat⟩, ⟨127, 64, dbgAddr c⟩, ⟨63, 32, st⟩,
    ⟨31, 16, dbgIndex c⟩, ⟨15, 8, dbgOp c⟩, ⟨7, 0, res⟩]))

/-- The firmware serves debug commands: STATUS from PERST_N on, the others once CODE reads READY (R470). -/
def State.dbgServed (s : State) (op : Nat) : Bool := if op = 1 then s.up else s.running && !s.sage.stewardRst

/-- A command of OP `op`: served or not, then `go`. -/
def State.dbgRun (s : State) (op : Nat) (c : BitVec 192) (go : State → State) : Out := whenOk (s.dbgServed op && dbgOp c == op) (go s) s

/-- The grant over a target, while it is valid. -/
def State.grantOver (s : State) (t : Target) : Option Grant :=
  let g := match t with
    | .steward _ => s.dbg.stewGrant
    | _ => match s.targetOwner t with
      | some p => (s.part p).grant
      | none => none
  match g with
  | some g => if s.now < g.notAfter.toNat then some g else none
  | none => none

/-- A command on a target that needs a right (Table 21.11): refused without a target, a grant or the right. -/
def State.dbgWith (s : State) (op right : Nat) (c : BitVec 192) (go : Target → State → State) : Out :=
  s.dbgRun op c fun s =>
    match dbgTarget c with
    | none => s.dbgAnswer c rBAD_TARGET 0
    | some t => match s.grantOver t with
      | none => s.dbgAnswer c rNO_GRANT 0
      | some g => if bitOf g.rights right then go t s else s.dbgAnswer c rDENIED 0

/-! ### Halts (R403, R471, R472) -/

/-- The watchdog is held while a steward core is halted: the time since its last kick stands still. -/
def State.wdogHold (s : State) : State :=
  if s.dbg.stewHalted ≠ 0 then s.modSage fun g => { g with wdogHeld := if g.wdogHeld.isSome then g.wdogHeld else some s.time.mono }
  else match s.sage.wdogHeld with
    | some t => s.modSage fun g => { g with wdogHeld := none, kickAt := g.kickAt + (s.time.mono - t) }
    | none => s

/-- A target halted, or released: it then passes a breakpoint that it stands at. -/
def State.setHalt (s : State) (on : Bool) : Target → State
  | .steward i => (s.modDebug fun d =>
      { d with stewHalted := if on then setBit d.stewHalted i else clrBit d.stewHalted i,
               stewRegs := if on then d.stewRegs else Tbl.drop d.stewRegs fun k => k / 2 ^ 32 == i }).wdogHold
  | .seq c => s.modSeq c fun q => { q with halted := on, step1 := false, pass := q.pass || !on }
  | .pipe k j => s.modPipe k j fun p => { p with halted := on, pass := p.pass || !on }

/-- Every sequencer and scalar pipe of a partition. -/
def State.partTargets (s : State) (p : Nat) : List Target :=
  (s.clustersOf p).map Target.seq ++ (s.coresOf p).flatMap fun k => [.pipe k 0, .pipe k 1]

/-- The targets of HALT and RESUME: with ARG bit 0, all of the partition's, or every steward core. -/
def State.haltSet (s : State) (c : BitVec 192) (t : Target) : List Target :=
  if dbgArg c % 2 = 0 then [t]
  else match t with
    | .steward _ => (List.range 4).map Target.steward
    | _ => match s.targetOwner t with
      | some p => s.partTargets p
      | none => [t]

/-- Halts of a partition released. -/
def State.releaseHalts (s : State) (p : Nat) : State :=
  s.each ((s.partTargets p).filter fun t => s.targetState t == 1) fun s t => s.setHalt false t

/-- A partition's grant ends, and its halts are released. -/
def State.endGrant (s : State) (p : Nat) : State := (s.releaseHalts p).modPart p fun q => { q with grant := none }

/-- The steward's grant ends, and its halts are released. -/
def State.endStewGrant (s : State) : State :=
  (s.each ((List.range 4).map Target.steward) fun s t => s.setHalt false t).modDebug fun d => { d with stewGrant := none }

/-- A halt of a partition's target is a debug event (R451). -/
def State.haltEvent (s : State) (t : Target) : State :=
  match s.targetOwner t with
  | some p => s.debugEvent 14 p
  | none => s

/-- HALT. -/
def execDbgHalt (cmd : BitVec 192) (s : State) : Out :=
  s.dbgWith 4 0 cmd fun t s =>
    ((s.each (s.haltSet cmd t) fun s t => s.setHalt true t).haltEvent t).dbgAnswer cmd rOK 0

/-- RESUME. -/
def execDbgResume (cmd : BitVec 192) (s : State) : Out :=
  s.dbgWith 5 0 cmd fun t s =>
    (s.each ((s.haltSet cmd t).filter fun t => s.targetState t == 1) fun s t => s.setHalt false t).dbgAnswer cmd rOK 0

/-- STATUS. -/
def execDbgStatus (cmd : BitVec 192) (s : State) : Out :=
  s.dbgRun 1 cmd fun s =>
    (s.modDebug fun d => { d with attn := 0 }).dbgAnswer cmd (if (dbgTarget cmd).isSome then rOK else rBAD_TARGET) 0

/-- One instruction of a halted pipe that can issue. -/
def State.stepPipe (s : State) (k j : Nat) : State :=
  let s1 := s.modPipe k j fun p => { p with halted := false, pass := true }
  let s2 := if s1.scReady k j then
      let f := s1.scFetch k j
      match f.1 with
      | .error e => f.2.scFail k j e
      | .ok w => scExec k j w f.2
    else s1
  s2.modPipe k j fun p => { p with halted := true }

/-- STEP: a halted pipe runs one instruction, a sequencer places one record, a steward core runs one instruction, whose effect the spec
does not describe: its registers are read afresh. A target that is not halted is none (log entry 53). -/
def execDbgStep (cmd : BitVec 192) (s : State) : Out :=
  s.dbgWith 6 0 cmd fun t s =>
    if s.targetState t ≠ 1 then s.dbgAnswer cmd rBAD_TARGET 0
    else match t with
      | .pipe k j => (((s.stepPipe k j).attn 2).haltEvent t).dbgAnswer cmd rOK 0
      | .seq c => (s.modSeq c fun q => { q with halted := false, pass := true, step1 := true }).dbgAnswer cmd rOK 0
      | .steward i => ((s.modDebug fun d => { d with stewRegs := Tbl.drop d.stewRegs fun k => k / 2 ^ 32 == i }).attn 2).dbgAnswer cmd rOK 0

/-- A breakpoint slot changed. -/
def State.setBp (s : State) (t : Target) (slot : Nat) (v : Option Nat) : State :=
  match t with
  | .steward i => s.modDebug fun d => { d with stewBps := Tbl.set d.stewBps (4 * i + slot) v }
  | .seq c => s.modSeq c fun q => { q with bps := Tbl.set q.bps slot v }
  | .pipe k j => s.modPipe k j fun p => { p with bps := Tbl.set p.bps slot v }

/-- BP_SET and BP_CLR: slots 0 to 3. -/
def execBpSet (cmd : BitVec 192) (s : State) : Out :=
  s.dbgWith 7 0 cmd fun t s =>
    if 4 ≤ dbgArg cmd then s.dbgAnswer cmd rBAD_TARGET 0 else (s.setBp t (dbgArg cmd) (some (dbgAddr cmd))).dbgAnswer cmd rOK 0
def execBpClr (cmd : BitVec 192) (s : State) : Out :=
  s.dbgWith 8 0 cmd fun t s =>
    if 4 ≤ dbgArg cmd then s.dbgAnswer cmd rBAD_TARGET 0 else (s.setBp t (dbgArg cmd) none).dbgAnswer cmd rOK 0

/-! ### Memory and registers (R471, R472) -/

/-- A debug access of a partition: no attempt's, so never staged. -/
def State.dbgAcc (s : State) (p : Nat) : Target → Acc
  | .pipe k _ => ⟨p, s.activeCtx p, none, coreTile k, k, false⟩
  | .seq c => ⟨p, s.activeCtx p, none, c / 4, 4 * c, false⟩
  | .steward _ => ⟨p, s.activeCtx p, none, 0, 0, false⟩

/-- MEM_RD: 8 B, aligned. Steward memory that the port has not seen reads as a free value. -/
def execMemRd (cmd : BitVec 192) (s : State) : Out :=
  s.dbgWith 9 1 cmd fun t s =>
    let a := dbgAddr cmd
    if a % 8 ≠ 0 then s.dbgAnswer cmd rDENIED 0
    else match dbgSpace cmd, t, s.targetOwner t with
      | 0, _, some p =>
        let r := s.readVa .tiers false (s.dbgAcc p t) a 8
        match r.1.use a with
        | .ok b => r.2.dbgAnswer cmd rOK (BitVec.ofNat 64 (ofLe b))
        | .error _ => r.2.dbgAnswer cmd rDENIED 0
      | 1, .pipe k _, _ =>
        if a + 8 ≤ 2 ^ 23 then s.dbgAnswer cmd rOK (BitVec.ofNat 64 (ofLe (s.cbRead k a 8))) else s.dbgAnswer cmd rDENIED 0
      | 2, .steward _, _ =>
        match s.dbg.stewMem.find? fun e => e.1 == a with
        | some e => s.dbgAnswer cmd rOK e.2
        | none =>
          let f := s.fresh 64
          let v : W64 := BitVec.ofNat 64 f.1
          (f.2.modDebug fun d => { d with stewMem := Tbl.set d.stewMem a v }).dbgAnswer cmd rOK v
      | _, _, _ => s.dbgAnswer cmd rBAD_TARGET 0

/-- MEM_WR: a plain write. -/
def execMemWr (cmd : BitVec 192) (s : State) : Out :=
  s.dbgWith 10 2 cmd fun t s =>
    let a := dbgAddr cmd
    let b := leBytes 8 (dbgData cmd).toNat
    if a % 8 ≠ 0 then s.dbgAnswer cmd rDENIED 0
    else match dbgSpace cmd, t, s.targetOwner t with
      | 0, _, some p =>
        let w := s.writeVa .tiers false (s.dbgAcc p t) a b
        w.2.dbgAnswer cmd (if w.1.isSome then rDENIED else rOK) 0
      | 1, .pipe k _, _ =>
        if a + 8 ≤ 2 ^ 23 then ({ s with cb := Memory.write s.cb (cbKey k a) b }).dbgAnswer cmd rOK 0 else s.dbgAnswer cmd rDENIED 0
      | 2, .steward _, _ => (s.modDebug fun d => { d with stewMem := Tbl.set d.stewMem a (dbgData cmd) }).dbgAnswer cmd rOK 0
      | _, _, _ => s.dbgAnswer cmd rBAD_TARGET 0

/-- REG_RD: g0 to g31 and, as number 32, the pc of a pipe; a sequencer's next record offset; a steward core's registers, free until the
port has seen them. -/
def execRegRd (cmd : BitVec 192) (s : State) : Out :=
  s.dbgWith 11 1 cmd fun t s =>
    let n := dbgArg cmd
    match t with
    | .pipe k j =>
      if n < 32 then s.dbgAnswer cmd rOK (s.gpr k j (BitVec.ofNat 5 n))
      else if n = 32 then s.dbgAnswer cmd rOK (BitVec.ofNat 64 (s.pipe k j).pc)
      else s.dbgAnswer cmd rBAD_TARGET 0
    | .seq c => s.dbgAnswer cmd rOK (BitVec.ofNat 64 (s.seq c).nextOff)
    | .steward i =>
      match s.dbg.stewRegs.find? fun e => e.1 == i * 2 ^ 32 + n with
      | some e => s.dbgAnswer cmd rOK e.2
      | none =>
        let f := s.fresh 64
        let v : W64 := BitVec.ofNat 64 f.1
        (if bitOf s.dbg.stewHalted i then f.2.modDebug fun d => { d with stewRegs := Tbl.set d.stewRegs (i * 2 ^ 32 + n) v } else f.2).dbgAnswer cmd rOK v

/-- REG_WR. -/
def execRegWr (cmd : BitVec 192) (s : State) : Out :=
  s.dbgWith 12 2 cmd fun t s =>
    let n := dbgArg cmd
    let v := dbgData cmd
    match t with
    | .pipe k j =>
      if n < 32 then (s.setGpr k j (BitVec.ofNat 5 n) v).dbgAnswer cmd rOK 0
      else if n = 32 then (s.modPipe k j fun p => { p with pc := v.toNat % 2 ^ 49 }).dbgAnswer cmd rOK 0
      else s.dbgAnswer cmd rBAD_TARGET 0
    | .seq c => (s.modSeq c fun q => { q with nextOff := v.toNat }).dbgAnswer cmd rOK 0
    | .steward i => (s.modDebug fun d => { d with stewRegs := Tbl.set d.stewRegs (i * 2 ^ 32 + n) v }).dbgAnswer cmd rOK 0

/-! ### Grants (R471) -/

/-- GRANT_CHUNK: chunks 0 to 19. -/
def execGrantChunk (cmd : BitVec 192) (s : State) : Out :=
  s.dbgRun 2 cmd fun s =>
    if 20 ≤ dbgArg cmd then s.dbgAnswer cmd rBAD_GRANT 0
    else (s.modDebug fun d => { d with pendGrant := Tbl.set d.pendGrant (dbgArg cmd) (dbgData cmd) }).dbgAnswer cmd rOK 0

/-- The pending grant's 160 B. -/
def State.grantBytes (s : State) : Bytes := (List.range 20).flatMap fun i => leBytes 8 (Tbl.get 0 s.dbg.pendGrant i).toNat

/-- The result of GRANT_COMMIT's checks, in the order of R471; a PART of neither kind, and bounds more than 86,400 s apart, are BAD_GRANT. -/
def State.grantCheck (s : State) (b : Bytes) : Nat :=
  let part := fld b 8 1
  let gen := if part < 32 then (s.part part).gen.toNat else 0
  let lo := fld b 16 8
  let hi := fld b 24 8
  let sigOk := match s.sec.dbgKey with
    | some k => Config.edVerify k (shake256 (b.take 46) 64) ((b.drop 46).take 114)
    | none => false
  if fld b 0 8 ≠ Config.serial.toNat ∨ (32 ≤ part ∧ part ≠ 0x80) ∨ lo + 86400000000000 < hi then rBAD_GRANT
  else if fld b 9 1 ≠ gen then rEXPIRED
  else if s.now < lo ∨ hi ≤ s.now then rEXPIRED
  else if !sigOk then rBAD_GRANT
  else if part < 32 ∧ ((s.part part).tdi = .locked ∨ (s.part part).tdi = .run) then rDENIED
  else rOK

/-- An accepted grant replaces the earlier one, whose halts end where it has no halt right, and extends a measurement. -/
def State.installGrant (s : State) (b : Bytes) : State :=
  let part := fld b 8 1
  let g : Grant := ⟨BitVec.ofNat 8 (fld b 10 1), BitVec.ofNat 8 (fld b 9 1), BitVec.ofNat 64 (fld b 24 8)⟩
  let keep := bitOf g.rights 0
  if part < 32 then
    (((if keep then s else s.releaseHalts part).modPart part fun q => { q with grant := some g }).measure (measConfig part) b)
  else
    ((if keep then s else s.endStewGrant).modDebug fun d => { d with stewGrant := some g }).modSec fun x => { x with stewGrants := x.stewGrants ++ [b] }

/-- GRANT_COMMIT. -/
def execGrantCommit (cmd : BitVec 192) (s : State) : Out :=
  s.dbgRun 3 cmd fun s =>
    let b := s.grantBytes
    let r := s.grantCheck b
    (if r = rOK then s.installGrant b else s).dbgAnswer cmd r 0

/-- GRANT_EXPIRY: at NOT_AFTER a grant ends; `p` is 0x80 for the steward's. -/
def execGrantExpiry (p : Nat) (s : State) : Out :=
  let ended := fun (g : Option Grant) => match g with | some g => decide (g.notAfter.toNat ≤ s.now) | none => false
  if !s.up then .next s
  else if p = 0x80 then whenOk (ended s.dbg.stewGrant) s.endStewGrant s
  else whenOk (decide (p < 32) && ended (s.part p).grant) (s.endGrant p) s

/-- REVOKE. -/
def execRevoke (v : W64) (s : State) : Out := whenOk s.up (s.each (setBits (bits v 31 0) 32) State.endGrant) s

/-! ### Trace (R451, Table 20.16) -/

/-- The reserved region is held: by a dump, or by a STAGE_FLASH. -/
def State.regionHeld (s : State) : Bool := (s.sage.fatal.isSome && !s.sage.dumpNone) || s.dbg.staging

/-- TRACE_CTRL: enable is refused and counted while the region is held. -/
def execTraceCtrl (v : W64) (s : State) : Out :=
  if !s.up then .next s
  else
    let bad := bitOf v 0 && s.regionHeld
    let on := bitOf v 0 && !bad
    let s1 := s.setRg (pk tDEBUG 0) 0x228 (BitVec.ofNat 64 (packNat [⟨0, 0, b2n on⟩, ⟨1, 1, b2n (bitOf v 1)⟩, ⟨15, 8, bits v 15 8⟩]))
    let s2 := s1.modDebug fun d =>
      { d with traceOn := on, traceStop := if d.traceOn && !on then 0 else d.traceStop,
               trace := if on && !d.traceOn then [] else d.trace, traceCount := if on && !d.traceOn then 0 else d.traceCount }
    .next (if bad then s2.countErr (pk tDEBUG 0) else s2)

/-- TRACE_GO: entries from the oldest go to host memory; ignored while SAGE.FATAL reports a dump. -/
def execTraceGo (v : W64) (s : State) : Out :=
  let n := bits v 30 12 * 4096
  let a := s.rgN (pk tDEBUG 0) 0x238 / 4096 * 4096
  let data := ((s.dbg.trace.take (n / 32)).flatMap fun e => leBytes 32 e.toNat)
  if !s.up || s.sage.dumpDone || data.isEmpty then .next s
  else if s.writeFaults .pf false then .next (s.hostFault .pf a 1 3)
  else .next (s.hostWrite .pf a data)

end Sys2Proof.Machine
end

