-- ==== Sys2Proof/Machine/Store.lean ====
section
/-! DEFINITION. Machine/Store.lean: the central store's scrub and error registers (R129 to R132, Table 6.6). -/

namespace Sys2Proof.Machine

open Sys2Proof

/-- The bank of a slice offset (R121). -/
def bankOf (off : Nat) : Nat := nbits off 15 8 ^^^ nbits off 23 16

/-- The row of a slice offset within its bank: one 256 B line, the spec giving no longer row (log entry 23). -/
def rowOf (off : Nat) : Nat := bankOf off * 65536 + off / 65536

/-- A scrub correction in a row: its third pass copies the row to a spare of its bank, EXHAUSTED with the last of them; with none left the row stays (R132). -/
def SliceSt.rowHit (c : SliceSt) (off : Nat) : SliceSt :=
  let r := rowOf off
  let b := bankOf off
  if c.rowSeen.contains r then c
  else
    let n := Tbl.get 0 c.rowHits r + 1
    let c1 := { c with rowSeen := c.rowSeen ++ [r], rowHits := Tbl.set c.rowHits r n }
    if n < 3 then c1
    else if Tbl.get 0 c.spares b < 4 then
      { c1 with rowHits := Tbl.drop c1.rowHits (· == r), spares := Tbl.set c.spares b (Tbl.get 0 c.spares b + 1),
                exhausted := c.exhausted || decide (Tbl.get 0 c.spares b = 3) }
    else { c1 with exhausted := true }

/-- Scrub moves to the next word; at the slice's end a pass is complete. -/
def SliceSt.advance (c : SliceSt) : SliceSt :=
  if c.scrubOff + 8 < 2 ^ 32 then { c with scrubOff := c.scrubOff + 8 }
  else { c with scrubOff := 0, passes := c.passes + 1, rowSeen := [] }

/-- STORE_SCRUB (R131): the next word of the slice is read and treated as R129 states, and a correction counts for its
row. `err` strikes the word first. -/
def execStoreScrub (tile : Nat) (err : MemErr) (s : State) : Out :=
  if !s.up || decide (8 ≤ tile) || !bitOf (s.rg (pk tSTORE tile) 0x210) 0 || s.sage.fatal.isSome then .next s
  else
    let off := (s.slice tile).scrubOff
    let pa := tile * 2 ^ 32 + off
    let s0 := s.strike (.store (pa / 8) err)
    let hit := Tbl.get .clean s0.upsets (pa / 8) == .corr
    let s1 := s0.meet pa 8
    let s2 := if hit then s1.modSlice tile fun c => c.rowHit off else s1
    .next ((s2.modSlice tile SliceSt.advance).progress (pk tSTORE tile) 1)

/-- STORE_ADDR_CLR (Table 6.6): bit 0 clears CE_ADDR, bit 1 UE_ADDR. -/
def execStoreAddrClr (tile : Nat) (v : W64) (s : State) : Out :=
  whenOk (s.up && decide (tile < 8))
    (s.modSlice tile fun c => { c with ceAddr := if bitOf v 0 then 0 else c.ceAddr, ueAddr := if bitOf v 1 then 0 else c.ueAddr }) s

end Sys2Proof.Machine
end

