-- ==== Sys2Proof/Machine/Registers.lean ====
section
/-! DEFINITION. Machine/Registers.lean: writes of the host to register pages: who reaches what, 32-bit and 64-bit writes, and the
conditions of each register (R425, R438 to R454). A write to a register that has a command of its own does what that command does. -/

namespace Sys2Proof.Machine

open Sys2Proof

/-- An outcome followed by more. -/
def andThen (o : Out) (f : State → Out) : Out :=
  match o with
  | .next s => f s
  | .fault r => .fault r
  | .refused r => .refused r

/-! ### Configuration space and MSI-X tables (R425, R427, R429, log entry 54) -/

/-- What a write to a function's configuration space does: ATS Enable at offset 0; at offset 8 of the PF VF Enable in bit 0 and NumVFs in
[21:16]. -/
def State.configWrite (s : State) (u off : Nat) (v : W64) : State :=
  if off = 0 then s.modPcie fun x => { x with ats := Tbl.set x.ats u (bitOf v 0), atc := if bitOf v 0 then x.atc else x.atc.filter fun e => e.1 != u }
  else if off = 8 ∧ u = 0 then
    s.modPcie fun x => { x with vfEn := if bitOf v 0 then BitVec.ofNat 32 (2 ^ min 32 (bits v 21 16) - 1) else 0 }
  else s

/-- A word of an MSI-X table, 16 B an entry: its address and data words are held, and bit 0 of its vector control masks the vector. -/
def State.msixWrite (s : State) (u off : Nat) (v : W32) : Out :=
  let vec := off / 16
  if !vecOk (keyFn u) vec then .next s
  else if off % 16 ≠ 12 then .next (s.setRg (msixKey u off) (off % 4096) (v.zeroExtend 64))
  else if !bitOf v 0 then execMsixUnmask (keyFn u) vec s
  else .next (s.modPcie fun x => { x with unmasked := Tbl.set x.unmasked (u * 4096 + vec) false })

/-- A write to an MSI-X table, below 0x8000 of its BAR: an 8 B one is two of 4 B. The PBA takes no writes. -/
def msixBarWrite (u off : Nat) (wide : Bool) (v : W64) (s : State) : Out :=
  if 0x8000 ≤ off then .next s
  else
    andThen (s.msixWrite u off (BitVec.ofNat 32 (bits v 31 0))) fun s =>
      if wide then s.msixWrite u (off + 4) (BitVec.ofNat 32 (bits v 63 32)) else .next s

/-! ### Plain registers -/

/-- A register takes the bits of a value that are defined in it. -/
def State.setFld (s : State) (k off hi lo : Nat) (v : W64) : State := s.setRg k off (pack 64 [⟨hi, lo, bits v hi lo⟩])

/-- The same, where a condition holds; else the write is ignored and counted. -/
def State.setIf (s : State) (c : Bool) (k off hi lo : Nat) (v : W64) : State :=
  if c then s.setFld k off hi lo v else s.countErr k

/-! ### Queues (R452, R453, Tables 20.12 to 20.14) -/

def sqWrite (fn : Fn) (off : Nat) (v : W64) (s : State) : Out :=
  let q := (off - 0x200) / 0x20
  let r := off % 0x20
  let k := sqPage fn
  let free := (s.sq (qKey fn q)).state == .disabled
  if off < 0x200 ∨ !qOk fn q then .next s
  else if r = 0 then .next (s.setIf free k off 63 12 v)
  else if r = 8 then .next (if free then s.setRg k off (pack 64 [⟨12, 0, bits v 12 0⟩, ⟨21, 16, bits v 21 16⟩, ⟨26, 24, bits v 26 24⟩]) else s.countErr k)
  else if r = 0x10 then
    if bitOf v 1 then execSqDisable fn q s
    else
      andThen (if bitOf v 0 then execSqEnable fn q s else .next s) fun s =>
        andThen (if bitOf v 2 then execSqResume fn q s else .next s) fun s => if bitOf v 3 then execSqFlush fn q s else .next s
  else .next s

def cqWrite (fn : Fn) (off : Nat) (v : W64) (s : State) : Out :=
  let q := if off < 0xA00 then (off - 0x200) / 0x20 else (off - 0xA00) / 8
  let r := off % 0x20
  let k := cqPage fn
  let free := !(s.cq (qKey fn q)).enabled
  let vhi := match fn with | .pf => 26 | .vf _ => 21
  if off < 0x200 ∨ 0xC00 ≤ off ∨ !qOk fn q then .next s
  else if 0xA00 ≤ off then
    if bitOf v 1 then execCqDisable fn q s
    else andThen (if bitOf v 0 then execCqEnable fn q s else .next s) fun s => if bitOf v 2 then execRearm fn q none s else .next s
  else if r = 0 ∨ r = 0x10 then .next (s.setIf free k off 63 12 v)
  else if r = 8 then .next (if free then s.setRg k off (pack 64 [⟨12, 0, bits v 12 0⟩, ⟨vhi, 16, bits v vhi 16⟩]) else s.countErr k)
  else .next (s.setIf free k off 20 0 v)

def dbWrite (fn : Fn) (off : Nat) (v : W64) (s : State) : Out :=
  let q := off % 0x200 / 8
  if 0x200 ≤ off ∧ off < 0x400 then execSqTail fn q v s
  else if 0x400 ≤ off ∧ off < 0x600 then execCqHead fn q v s
  else if 0x600 ≤ off ∧ off < 0x800 then execTrHead fn q v s
  else .next s

/-! ### Other pages -/

def gfeWrite (off : Nat) (v : W64) (s : State) : Out :=
  if off = 0x200 then execContractWrite v s
  else if off = 0x208 then execNoticeCq v s
  else if off = 0x210 then .next (if bits v 15 0 = 0 then s else s.setFld pgGFE 0x210 15 0 v)
  else .next s

def timeWrite (off : Nat) (v : W64) (s : State) : Out :=
  let p := (off - 0x400) / 0x40
  let r := off % 0x40
  let free := !(s.ctx p).bound && !(s.ctx p).unbinding
  if off = 0x200 then execTimeRoleWrite (BitVec.ofNat 2 (bits v 1 0)) s
  else if off = 0x208 then .next (s.setIf (!s.anyBound) pgTIME off 3 0 v)
  else if off = 0x210 then execTimeSet v s
  else if off = 0x228 then .next (s.setIf (!s.anyBound) pgTIME off 15 0 v)
  else if off = 0x230 then .next (s.setFld pgTIME off 0 0 v)
  else if off = 0x238 then .next (s.setFld pgTIME off 5 0 v)
  else if off < 0x400 ∨ 32 ≤ p then .next s
  else if r = 0x18 then
    if bitOf v 1 && (s.ctx p).bound then execUnbind p s else if bitOf v 0 then execBind p s else .next s
  else if !free then .next s
  else if r = 0 then .next (s.setFld pgTIME off 35 0 v)
  else if r = 8 then .next (s.setRg pgTIME off v)
  else if r = 0x10 then .next (s.setFld pgTIME off 9 0 v)
  else .next s

/-- Sample runs restart for the domains whose window a write changes (R402). -/
def State.restartRuns (s : State) (d : Nat → Bool) : State :=
  let mine := fun (k : Nat) => (List.range 32).any fun p => d p && (s.partPages p).contains (k / 8)
  let anyPart := fun (k : Nat) => (List.range 32).any fun p => (s.partPages p).contains (k / 8)
  s.modSage fun g => { g with runs := Tbl.drop g.runs fun k => mine k || (d 32 && !anyPart k) }

def sageWrite (off : Nat) (v : W64) (s : State) : Out :=
  if off = 0x200 then .next (s.setFld pgSAGE off 1 0 v)
  else if off = 0x208 then
    .next ((s.setFld pgSAGE off 25 0 v).restartRuns fun p => decide (p = 32) || bits (s.rg pgSAGE (0x300 + 4 * p)) 25 0 == 0)
  else if off = 0x210 then .next (s.setFld pgSAGE off 19 0 v)
  else if off = 0x220 then execPreset v s
  else if off = 0x228 then execDreset v s
  else if off = 0x250 then .next (s.setFld pgSAGE off 63 18 v)
  else if off = 0x258 ∨ off = 0x268 then .next (s.setFld pgSAGE off 7 0 v)
  else if off = 0x278 then .next (s.setFld pgSAGE off 63 12 v)
  else if off = 0x280 ∨ off = 0x288 then .next (s.setFld pgSAGE off 30 12 v)
  else if off = 0x290 then execDumpGo v s
  else .next s

/-- MBX_GO: a command that is unknown, or not accepted in the present CODE, ends with BAD_STATE; one that is accepted goes on with its
own command, which reads the image. -/
def State.mbxGo (s : State) (v : W64) : State :=
  let cmd := bits (s.rg pgPCIE 0x278) 7 0
  let ok := (decide (1 ≤ cmd ∧ cmd ≤ 2) && s.boot.code == 0x10) || (cmd == 3 && s.boot.code == 0x04)
  if bitOf v 0 && s.mbxFree && !ok then s.mbxTake 1 0 else s

def pcieWrite (off : Nat) (v : W64) (s : State) : Out :=
  if off = 0x258 then execIrqAck v s
  else if off = 0x270 then execFaultClr v s
  else if off = 0x278 then .next (s.setFld pgPCIE off 7 0 v)
  else if off = 0x280 then .next (s.setRg pgPCIE off v)
  else if off = 0x288 then .next (s.setFld pgPCIE off 25 0 v)
  else if off = 0x290 then .next (s.mbxGo v)
  else .next s

def powerWrite (off : Nat) (v : W64) (s : State) : Out :=
  if off = 0x208 then execIdleReq v s
  else if off = 0x210 then execPowerCap false v s
  else if off = 0x220 then execClkClr v s
  else .next s

def debugWrite (off : Nat) (v : W64) (s : State) : Out :=
  let k := pk tDEBUG 0
  if off = 0x208 then execRevoke v s
  else if off = 0x220 then .next (s.setFld k off 12 0 v)
  else if off = 0x228 then execTraceCtrl v s
  else if off = 0x238 then .next (s.setFld k off 63 12 v)
  else if off = 0x240 then execTraceGo v s
  else .next s

def meterWrite (off : Nat) (v : W64) (s : State) : Out :=
  if 0x300 ≤ off ∧ off < 0x340 then .next (s.setRg pgMETER off v)
  else if off = 0x340 then whenOk (bitOf v 0 && s.fmuOn) s.meterGo s
  else .next s

/-- A quota: one below the use, or beyond the capacity not promised to others, is refused; a change moves the interface to ERROR
(R348, R371). -/
def State.quotaWrite (s : State) (p target : Nat) (v : W64) : State :=
  let n := if target = 0 then bits v 8 0 else bits v 20 0
  if n < (s.part p).use target ∨ (s.quota p target < n ∧ !s.quotaFits p target n) ∨ n = s.quota p target then s
  else (s.setRg (pgPART p) (0x220 + 8 * target) (BitVec.ofNat 64 n)).tdiError p

def partWrite (p off : Nat) (v : W64) (s : State) : Out :=
  let k := pgPART p
  let busy := (s.part p).mapBusy
  if off = 0x200 then .next (s.setFld k off 31 0 v)
  else if off = 0x210 then
    if bitOf v 0 then execCreate p s else if bitOf v 1 then execTeardown p s else if bitOf v 2 then execReenable p s else .next s
  else if off = 0x218 then .next (s.setFld k off 0 0 v)
  else if 0x220 ≤ off ∧ off ≤ 0x238 then .next (s.quotaWrite p ((off - 0x220) / 8) v)
  else if off = 0x260 then .next (if busy then s else s.setFld k off 59 16 v)
  else if off = 0x268 then .next (if busy then s else s.setFld k off 47 0 v)
  else if off = 0x270 then .next (if busy then s else s.setFld k off 48 16 v)
  else if off = 0x278 then
    if !bitOf v 0 then .next s
    else match (s.mapReq p).op with
      | 0 => execMap p s
      | 1 => execUnmap p s
      | _ => execProtect p s
  else .next s

/-- NEAR and BRIDGE pages: the scrub control, and the commands. -/
def tierWrite (near : Bool) (u off : Nat) (v : W64) (s : State) : Out :=
  let k := pk (if near then tNEAR else tBRIDGE) u
  let unit := if near then TierUnit.near u else TierUnit.modRank u
  if off = 0x210 then .next (s.setRg k off (pack 64 [⟨0, 0, bits v 0 0⟩, ⟨48, 32, bits v 48 32⟩]))
  else if off = 0x230 then execTierAddrClr unit v s
  else if off = 0x248 then
    if near then execRetire unit (bits v 14 0) s
    else execRetire (if bitOf v 31 then .shelf u else .modRank u) (bits v 16 0) s
  else .next s

def kpmWrite (t off : Nat) (v : W64) (s : State) : Out :=
  let k := pgKPM t
  let p := s.rgN k 0x200 % 32
  if off = 0x200 then .next (s.setFld k off 4 0 v)
  else if off = 0x208 ∨ off = 0x210 then
    if (s.kpm t).streams.any (fun x => x.part == p) then .next s
    else if off = 0x208 then .next (s.setFld k (kpmBank p 0) 48 6 v)
    else .next (s.setFld k (kpmBank p 1) 24 0 v)
  else if off = 0x218 then .next (s.setFld k (kpmBank p 2) 48 16 v)
  else if off = 0x220 then execPoolAdd t v s
  else if off = 0x250 then .next (s.setFld k (kpmBank p 3) 24 0 v)
  else .next s

def tileWrite (typ t off : Nat) (v : W64) (s : State) : Out :=
  let k := pk typ t
  if typ = tSTORE then
    if off = 0x210 then .next (s.setRg k off (pack 64 [⟨0, 0, bits v 0 0⟩, ⟨48, 32, bits v 48 32⟩]))
    else if off = 0x230 then execStoreAddrClr t v s
    else .next s
  else if typ = tMOVER then
    let free := (s.mover t).pqHead == bits (s.rg k 0x2A0) 12 0
    if off = 0x290 then whenOk free (s.setFld k off 34 6 v) s
    else if off = 0x298 then whenOk free (s.setFld k off 12 0 v) s
    else if off = 0x2A0 then execPqTail t v s
    else .next s
  else if typ = tKPM then kpmWrite t off v s
  else if off = 0x200 then execXlatInval t v s
  else if 0x210 ≤ off ∧ off < 0x290 ∧ off % 16 = 0 then .next (s.setRg k off (pack 64 [⟨42, 21, bits v 42 21⟩, ⟨63, 63, bits v 63 63⟩]))
  else if 0x800 ≤ off then .next (s.setRg k off (pack 64 [⟨0, 0, bits v 0 0⟩, ⟨34, 13, bits v 34 13⟩]))
  else .next s

/-- ELREN.CTRL: each bit that the write changes. -/
def elrenCtrlWrite (e : Nat) (v : W64) (s : State) : Out :=
  let old := s.rg (pgEl e) 0x200
  andThen (if bitOf v 2 == bitOf old 2 then .next s else execForceHalf e (bitOf v 2) s) fun s =>
    andThen (if bitOf v 1 == bitOf old 1 then .next s else execElrenFence e (bitOf v 1) s) fun s =>
      if bitOf v 0 == bitOf old 0 then .next s else execElrenEnable e (bitOf v 0) s

def elrenWrite (e off : Nat) (v : W64) (s : State) : Out :=
  if off = 0x200 then elrenCtrlWrite e v s
  else if e ≠ 0 then .next s
  else if off = 0x300 then .next (s.setFld (pgEl 0) off 34 6 v)
  else if off = 0x310 then execLsuCtrl (BitVec.ofNat 2 (bits v 1 0)) s
  else if off = 0x318 then .next (s.setFld (pgEl 0) off 15 0 v)
  else .next s

/-- NER_HEAD: entries from the old head up to the new one are free; a value outside the entries written changes nothing. -/
def State.nerHead (s : State) (p : Nat) (v : W64) : State :=
  let h := bits v 15 0
  match freedBy (bits (s.rg (pgVS p) 0x220) 16 0) (s.ner p).used (bits (s.rg (pgVS p) 0x230) 15 0) h with
  | some d => (s.modNer p fun r => { r with used := r.used - d }).setRg (pgVS p) 0x230 (BitVec.ofNat 64 h)
  | none => s

def vsWrite (p off : Nat) (v : W64) (s : State) : Out :=
  let k := pgVS p
  let free := !(s.ner p).enabled
  if off = 0x218 then .next (s.setIf free k off 63 12 v)
  else if off = 0x220 then .next (s.setIf free k off 16 0 v)
  else if off = 0x228 then
    if bitOf v 1 then execNerDisable p s
    else andThen (if bitOf v 0 then execNerEnable p s else .next s) fun s => if bitOf v 2 then execNerRearm p s else .next s
  else if off = 0x230 then .next (s.nerHead p v)
  else if off = 0x240 then .next (s.setFld k off 3 0 v)
  else if 0x300 ≤ off ∧ off < 0x340 then .next ((s.setRg k off v).setRg k 0x348 (clrBit (s.rg k 0x348) 1))
  else if off = 0x340 then (if bitOf v 0 then execReportRequest p s else .next s)
  else .next s

/-- A write takes effect at a 64-bit register. -/
def regTake (fn : Fn) (pg : Page) (off : Nat) (v : W64) (s : State) : Out :=
  let t := pg.typ
  let u := pg.unit
  if t = tGFE then gfeWrite off v s
  else if t = tPFDB ∨ t = tVFDB then dbWrite fn off v s
  else if t = tPFSQ ∨ t = tVFSQ then sqWrite fn off v s
  else if t = tPFCQ ∨ t = tVFCQ then cqWrite fn off v s
  else if t = tTIME then timeWrite off v s
  else if t = tSAGE then sageWrite off v s
  else if t = tSEC then (if off = 0x210 then execRollbackCommit v s else .next s)
  else if t = tPCIE then pcieWrite off v s
  else if t = tPOWER then powerWrite off v s
  else if t = tDEBUG then debugWrite off v s
  else if t = tMETER then meterWrite off v s
  else if t = tPART then partWrite u off v s
  else if t = tCBUF then (if off = 0x208 then execRcFlush u v s else .next s)
  else if t = tNEAR ∨ t = tBRIDGE then tierWrite (t == tNEAR) u off v s
  else if 0x40 ≤ t ∧ t ≤ 0x43 then tileWrite t u off v s
  else if t = tELREN then elrenWrite u off v s
  else if t = tFOLD then .next (if off = 0x290 then s.setFld (pk tFOLD u) off 4 0 v else s)
  else if t = tVFSTATUS then vsWrite u off v s
  else .next s

/-! ### The header, and registers of 32 bits -/

/-- A write to BLK_CTRL (Table 20.1): FREEZE takes its value, CLR_ERR and CRESET act where they are 1. -/
def ctrlWrite (pg : Page) (v : W32) (s : State) : Out :=
  andThen (execFreeze pg (bitOf v 1) s) fun s =>
    andThen (if bitOf v 3 then execClrErr pg s else .next s) fun s => if bitOf v 2 then execCreset pg s else .next s

/-- INT_EN: the bits that the page has. -/
def State.intEnable (s : State) (k : Nat) (v : W32) : State := s.modIrq k fun h => { h with intEn := v &&& irqMask k }

/-- An offset that holds a register of 32 bits: the header's, PCIE.IVEC, SAGE.PWIN. -/
def reg32 (typ off : Nat) : Bool :=
  decide (off < 0x028) || (typ == tPCIE && decide (0x210 ≤ off ∧ off < 0x250)) || (typ == tSAGE && decide (0x300 ≤ off ∧ off < 0x380))

/-- A write takes effect at a register of 32 bits. -/
def regTake32 (pg : Page) (off : Nat) (v : W32) (s : State) : Out :=
  let k := pageKey pg
  if off = 0x008 then ctrlWrite pg v s
  else if off = 0x010 then execIntStat pg v s
  else if off = 0x014 then .next (s.intEnable k v)
  else if off = 0x018 then execIntSet pg v s
  else if off < 0x028 then .next s
  else if pg.typ = tPCIE then .next (s.setRg k off (BitVec.ofNat 64 (bits v 10 0)))
  else .next ((s.setRg k off (BitVec.ofNat 64 (bits v 25 0))).restartRuns fun p => decide (p = (off - 0x300) / 4))

/-! ### Held words (R441) -/

/-- A 64-bit register that software writes and whose high word holds a defined field. -/
def hiDefined (typ off : Nat) : Bool :=
  let q := off % 0x20
  (typ == tSTORE || typ == tNEAR || typ == tBRIDGE) && off == 0x210
    || typ == tMOVER && off == 0x290
    || typ == tKPM && (off == 0x208 || off == 0x218)
    || typ == tELREN && off == 0x300
    || typ == tPART && (off == 0x260 || off == 0x268 || off == 0x270)
    || typ == tXLAT && (off == 0x200 || decide (0x210 ≤ off ∧ off < 0x290 ∧ off % 16 = 0) || decide (0x800 ≤ off))
    || typ == tMETER && decide (0x300 ≤ off ∧ off < 0x340)
    || typ == tSAGE && (off == 0x250 || off == 0x278)
    || typ == tPCIE && off == 0x280
    || typ == tTIME && (off == 0x210 || decide (0x400 ≤ off ∧ off < 0xC00 ∧ (off % 0x40 = 0 ∨ off % 0x40 = 8)))
    || typ == tDEBUG && off == 0x238
    || (typ == tPFSQ || typ == tVFSQ) && decide (0x200 ≤ off) && q == 0
    || (typ == tPFCQ || typ == tVFCQ) && decide (0x200 ≤ off ∧ off < 0xA00) && (q == 0 || q == 0x10)
    || typ == tVFSTATUS && (off == 0x218 || decide (0x300 ≤ off ∧ off < 0x340))

/-- The low word that a function holds on a page. -/
def State.heldWord (s : State) (fn : Fn) (k : Nat) : Option HoldW := s.holds.find? fun h => h.fn == fn && h.pkey == k

/-- A held word dropped. -/
def State.dropHeld (s : State) (fn : Fn) (k : Nat) : State :=
  { s with holds := s.holds.filter fun h => !(h.fn == fn && h.pkey == k) }

/-- A write at another offset than `keep` discards what the function holds on the page, and counts. -/
def State.spoilHeld (s : State) (fn : Fn) (k keep : Nat) : State :=
  match s.heldWord fn k with
  | none => s
  | some h => if h.off = keep then s else (s.dropHeld fn k).countErr k

/-- Two halves as one value. -/
def joinW (hi lo : W32) : W64 := hi ++ lo

/-- The current low word of a 64-bit register: a KPM's are banked by the partition that KPM.SEL names. -/
def State.lowNow (s : State) (k base : Nat) : W32 :=
  let p := s.rgN k 0x200 % 32
  let off := if keyTyp k = tKPM ∧ base = 0x208 then kpmBank p 0 else if keyTyp k = tKPM ∧ base = 0x218 then kpmBank p 2 else base
  BitVec.ofNat 32 (bits (s.rg k off) 31 0)

/-- A 32-bit write (R441). One of a high word that is wholly reserved writes nothing (log entry 82). -/
def write32 (fn : Fn) (pg : Page) (off : Nat) (v : W32) (s : State) : Out :=
  let k := pageKey pg
  let base := off / 8 * 8
  if reg32 pg.typ off then regTake32 pg off v (s.spoilHeld fn k 0xFFFF)
  else if off % 8 = 0 then
    let s1 := s.spoilHeld fn k base
    if hiDefined pg.typ base then
      let t := s1.dropHeld fn k
      .next { t with holds := t.holds ++ [⟨fn, k, base, v⟩] }
    else regTake fn pg base (joinW 0 v) s1
  else
    let held := (s.heldWord fn k).bind fun h => if h.off = base then some h.lo else none
    match held with
    | some lo => regTake fn pg base (joinW v lo) (s.dropHeld fn k)
    | none =>
      let s1 := s.spoilHeld fn k base
      if hiDefined pg.typ base then regTake fn pg base (joinW v (s.lowNow k base)) s1 else .next s1

/-- A 64-bit write: atomic; of two registers of 32 bits, the lower first. -/
def write64 (fn : Fn) (pg : Page) (off : Nat) (v : W64) (s : State) : Out :=
  let k := pageKey pg
  let s1 := (s.spoilHeld fn k off).dropHeld fn k
  if reg32 pg.typ off then
    andThen (regTake32 pg off (BitVec.ofNat 32 (bits v 31 0)) s1) fun s => regTake32 pg (off + 4) (BitVec.ofNat 32 (bits v 63 32)) s
  else regTake fn pg off v s1

/-- A function is there to take an access: the PF, or a VF that exists (R425). -/
def State.fnLive (s : State) (fn : Fn) : Bool := match fn with | .pf => true | .vf p => s.vfExists p

/-- REGISTER_WRITE (R425, R440, R444, R445): aligned writes of 4 B or 8 B; others are Unsupported Requests, which the function
reports as uncorrectable errors (R435). A write at a reserved offset, to
a spare page or a window, or to the METER page's mirror in BAR0 is ignored. -/
def execRegisterWrite (acc : RegAcc) (s : State) : Out :=
  let o := acc.off
  if !s.up || !s.fnLive acc.fn then .next s
  else if o % (if acc.wide then 8 else 4) != 0 then .next (s.bumpHi pgPCIE 0x058 1)
  else
    match acc.fn, acc.bar with
    | fn, .config => .next (s.configWrite (fnKey fn) o acc.val)
    | .pf, .bar4 => msixBarWrite 0 o acc.wide acc.val s
    | .vf p, .bar2 => msixBarWrite (1 + p) o acc.wide acc.val s
    | fn, bar =>
      match barPage fn bar o with
      | none => .next s
      | some pg =>
        if pg.typ == tMETER && bar != .bar2 then .next s
        else if acc.wide then write64 fn pg (o % 4096) acc.val s
        else write32 fn pg (o % 4096) (BitVec.ofNat 32 (bits acc.val 31 0)) s

end Sys2Proof.Machine
end

