-- ==== Sys2Proof/Machine/Dispatch.lean ====
section
/-! DEFINITION. Machine/Dispatch.lean: one arm for each command, each a direct call of its meaning. -/

namespace Sys2Proof.Machine

open Sys2Proof

def exec (i : Instr) (s : State) : Host.Outcome State Fault Refusal :=
  match i with
  | .timeRoleWrite v => Sys2Proof.Machine.execTimeRoleWrite v s
  | .timeSet v => Sys2Proof.Machine.execTimeSet v s
  | .cadenceFrame frame => Sys2Proof.Machine.execCadenceFrame frame s
  | .cadenceOutFrame => Sys2Proof.Machine.execCadenceOutFrame s
  | .timeBeaconSend => Sys2Proof.Machine.execTimeBeaconSend s
  | .timeBeaconReceive port msg => Sys2Proof.Machine.execTimeBeaconReceive port msg s
  | .timeReply port msg => Sys2Proof.Machine.execTimeReply port msg s
  | .acquiringTimeout => Sys2Proof.Machine.execAcquiringTimeout s
  | .holdoverEntry => Sys2Proof.Machine.execHoldoverEntry s
  | .unsyncedEntry => Sys2Proof.Machine.execUnsyncedEntry s
  | .bind p => Sys2Proof.Machine.execBind p s
  | .unbind p => Sys2Proof.Machine.execUnbind p s
  | .unbindEffect p => Sys2Proof.Machine.execUnbindEffect p s
  | .attemptStart p => Sys2Proof.Machine.execAttemptStart p s
  | .statusBeaconSend p ready => Sys2Proof.Machine.execStatusBeaconSend p ready s
  | .statusBeaconReceive msg => Sys2Proof.Machine.execStatusBeaconReceive msg s
  | .coordinatorDecide p members => Sys2Proof.Machine.execCoordinatorDecide p members s
  | .decisionReceive msg => Sys2Proof.Machine.execDecisionReceive msg s
  | .commitEdge p => Sys2Proof.Machine.execCommitEdge p s
  | .repeatEdge p => Sys2Proof.Machine.execRepeatEdge p s
  | .abandonEdge p => Sys2Proof.Machine.execAbandonEdge p s
  | .coordinatorLost p => Sys2Proof.Machine.execCoordinatorLost p s
  | .nop core eng => Sys2Proof.Machine.execNop core eng s
  | .mm core arr => Sys2Proof.Machine.execMm core arr s
  | .tileLoad core arr => Sys2Proof.Machine.execTileLoad core arr s
  | .streamedVector core arr parityErr => Sys2Proof.Machine.execStreamedVector core arr parityErr s
  | .shadowCheck core => Sys2Proof.Machine.execShadowCheck core s
  | .vecElt core => Sys2Proof.Machine.execVecElt core s
  | .vecFn core => Sys2Proof.Machine.execVecFn core s
  | .vecRed core => Sys2Proof.Machine.execVecRed core s
  | .vecTopk core => Sys2Proof.Machine.execVecTopk core s
  | .vecRand core => Sys2Proof.Machine.execVecRand core s
  | .vecConv core => Sys2Proof.Machine.execVecConv core s
  | .vecResadd core => Sys2Proof.Machine.execVecResadd core s
  | .vecSample core => Sys2Proof.Machine.execVecSample core s
  | .scRun core pipe => Sys2Proof.Machine.execScRun core pipe s
  | .portMover core => Sys2Proof.Machine.execPortMover core s
  | .portKpm core => Sys2Proof.Machine.execPortKpm core s
  | .portTxu core => Sys2Proof.Machine.execPortTxu core s
  | .portEmit core => Sys2Proof.Machine.execPortEmit core s
  | .recordPlace core opidx rec_ ahead => Sys2Proof.Machine.execRecordPlace core opidx rec_ ahead s
  | .recordRetire core eng idx => Sys2Proof.Machine.execRecordRetire core eng idx s
  | .alu core pipe fn gd ga gb => Sys2Proof.Machine.execAlu core pipe fn gd ga gb s
  | .addi core pipe gd ga imm => Sys2Proof.Machine.execAddi core pipe gd ga imm s
  | .andi core pipe gd ga imm => Sys2Proof.Machine.execAndi core pipe gd ga imm s
  | .ori core pipe gd ga imm => Sys2Proof.Machine.execOri core pipe gd ga imm s
  | .xori core pipe gd ga imm => Sys2Proof.Machine.execXori core pipe gd ga imm s
  | .shli16 core pipe gd ga imm => Sys2Proof.Machine.execShli16 core pipe gd ga imm s
  | .ld core pipe gd ga imm err => Sys2Proof.Machine.execLd core pipe gd ga imm err s
  | .ldw core pipe gd ga imm err => Sys2Proof.Machine.execLdw core pipe gd ga imm err s
  | .st core pipe gd ga imm => Sys2Proof.Machine.execSt core pipe gd ga imm s
  | .stw core pipe gd ga imm => Sys2Proof.Machine.execStw core pipe gd ga imm s
  | .cld core pipe gd ga imm err => Sys2Proof.Machine.execCld core pipe gd ga imm err s
  | .cldw core pipe gd ga imm err => Sys2Proof.Machine.execCldw core pipe gd ga imm err s
  | .cst core pipe gd ga imm => Sys2Proof.Machine.execCst core pipe gd ga imm s
  | .cstw core pipe gd ga imm => Sys2Proof.Machine.execCstw core pipe gd ga imm s
  | .atom core pipe fn gd ga gb => Sys2Proof.Machine.execAtom core pipe fn gd ga gb s
  | .beq core pipe gd ga imm => Sys2Proof.Machine.execBeq core pipe gd ga imm s
  | .bne core pipe gd ga imm => Sys2Proof.Machine.execBne core pipe gd ga imm s
  | .blt core pipe gd ga imm => Sys2Proof.Machine.execBlt core pipe gd ga imm s
  | .bge core pipe gd ga imm => Sys2Proof.Machine.execBge core pipe gd ga imm s
  | .jal core pipe gd imm => Sys2Proof.Machine.execJal core pipe gd imm s
  | .jr core pipe gd ga => Sys2Proof.Machine.execJr core pipe gd ga s
  | .waitc core pipe ga imm => Sys2Proof.Machine.execWaitc core pipe ga imm s
  | .sigc core pipe ga gb => Sys2Proof.Machine.execSigc core pipe ga gb s
  | .post core pipe gd ga gb => Sys2Proof.Machine.execPost core pipe gd ga gb s
  | .rdsys core pipe gd imm => Sys2Proof.Machine.execRdsys core pipe gd imm s
  | .fence core pipe imm => Sys2Proof.Machine.execFence core pipe imm s
  | .halt core pipe => Sys2Proof.Machine.execHalt core pipe s
  | .rcFlush core v => Sys2Proof.Machine.execRcFlush core v s
  | .storeScrub tile err => Sys2Proof.Machine.execStoreScrub tile err s
  | .storeAddrClr tile v => Sys2Proof.Machine.execStoreAddrClr tile v s
  | .copy tile id => Sys2Proof.Machine.execCopy tile id s
  | .gather tile id => Sys2Proof.Machine.execGather tile id s
  | .scatter tile id => Sys2Proof.Machine.execScatter tile id s
  | .transpose tile id => Sys2Proof.Machine.execTranspose tile id s
  | .fill tile id => Sys2Proof.Machine.execFill tile id s
  | .scrub tile id => Sys2Proof.Machine.execScrub tile id s
  | .migrate tile id => Sys2Proof.Machine.execMigrate tile id s
  | .descriptorComplete tile id => Sys2Proof.Machine.execDescriptorComplete tile id s
  | .pqTail tile v => Sys2Proof.Machine.execPqTail tile v s
  | .tierReply tile id => Sys2Proof.Machine.execTierReply tile id s
  | .nearBurst u off len wr stream err => Sys2Proof.Machine.execNearBurst u off len wr stream err s
  | .crumb bridge rank off len wr stream err => Sys2Proof.Machine.execCrumb bridge rank off len wr stream err s
  | .tierScrub u err => Sys2Proof.Machine.execTierScrub u err s
  | .pprDone u => Sys2Proof.Machine.execPprDone u s
  | .retirement u => Sys2Proof.Machine.execRetirement u s
  | .retire u page => Sys2Proof.Machine.execRetire u page s
  | .flashAppend => Sys2Proof.Machine.execFlashAppend s
  | .tierAddrClr u v => Sys2Proof.Machine.execTierAddrClr u v s
  | .bridgeLinkDown bridge => Sys2Proof.Machine.execBridgeLinkDown bridge s
  | .tierInit => Sys2Proof.Machine.execTierInit s
  | .load fn q => Sys2Proof.Machine.execLoad fn q s
  | .unload fn q => Sys2Proof.Machine.execUnload fn q s
  | .unloadComplete p handle => Sys2Proof.Machine.execUnloadComplete p handle s
  | .patch fn q => Sys2Proof.Machine.execPatch fn q s
  | .contractWrite v => Sys2Proof.Machine.execContractWrite v s
  | .sqTail fn q v => Sys2Proof.Machine.execSqTail fn q v s
  | .cqHead fn q v => Sys2Proof.Machine.execCqHead fn q v s
  | .trHead fn q v => Sys2Proof.Machine.execTrHead fn q v s
  | .entryFetch fn q rd => Sys2Proof.Machine.execEntryFetch fn q rd s
  | .launchPlace fn q => Sys2Proof.Machine.execLaunchPlace fn q s
  | .signal fn q => Sys2Proof.Machine.execSignal fn q s
  | .hostCopy fn q rd => Sys2Proof.Machine.execHostCopy fn q rd s
  | .hostCopyComplete fn q fault => Sys2Proof.Machine.execHostCopyComplete fn q fault s
  | .completionEntry fn q fault => Sys2Proof.Machine.execCompletionEntry fn q fault s
  | .deadlockWalk p => Sys2Proof.Machine.execDeadlockWalk p s
  | .sqEnable fn q => Sys2Proof.Machine.execSqEnable fn q s
  | .sqDisable fn q => Sys2Proof.Machine.execSqDisable fn q s
  | .sqDrained fn q => Sys2Proof.Machine.execSqDrained fn q s
  | .sqResume fn q => Sys2Proof.Machine.execSqResume fn q s
  | .sqFlush fn q => Sys2Proof.Machine.execSqFlush fn q s
  | .cqEnable fn q => Sys2Proof.Machine.execCqEnable fn q s
  | .cqDisable fn q => Sys2Proof.Machine.execCqDisable fn q s
  | .rearm fn q faultAt => Sys2Proof.Machine.execRearm fn q faultAt s
  | .contextSwitch p => Sys2Proof.Machine.execContextSwitch p s
  | .noticeCq v => Sys2Proof.Machine.execNoticeCq v s
  | .kpmOpen tile id => Sys2Proof.Machine.execKpmOpen tile id s
  | .close tile id => Sys2Proof.Machine.execClose tile id s
  | .alloc tile id => Sys2Proof.Machine.execAlloc tile id s
  | .share tile id => Sys2Proof.Machine.execShare tile id s
  | .free tile id => Sys2Proof.Machine.execFree tile id s
  | .privatize tile id => Sys2Proof.Machine.execPrivatize tile id s
  | .reserve tile id => Sys2Proof.Machine.execReserve tile id s
  | .accept tile id => Sys2Proof.Machine.execAccept tile id s
  | .span tile id => Sys2Proof.Machine.execSpan tile id s
  | .pin tile id => Sys2Proof.Machine.execPin tile id s
  | .move tile id => Sys2Proof.Machine.execMove tile id s
  | .pattern tile id => Sys2Proof.Machine.execPattern tile id s
  | .cowCopyDone tile id => Sys2Proof.Machine.execCowCopyDone tile id s
  | .kpmOpComplete tile id => Sys2Proof.Machine.execKpmOpComplete tile id s
  | .poolAdd tile v => Sys2Proof.Machine.execPoolAdd tile v s
  | .slots cluster id => Sys2Proof.Machine.execSlots cluster id s
  | .dispatch cluster id => Sys2Proof.Machine.execDispatch cluster id s
  | .passDone cluster id => Sys2Proof.Machine.execPassDone cluster id s
  | .dispatchRecord cluster origin hdr tag row => Sys2Proof.Machine.execDispatchRecord cluster origin hdr tag row s
  | .endRecord cluster origin originTxu hdr => Sys2Proof.Machine.execEndRecord cluster origin originTxu hdr s
  | .resultRecord cluster hdr tag row => Sys2Proof.Machine.execResultRecord cluster hdr tag row s
  | .layerMark p layer => Sys2Proof.Machine.execLayerMark p layer s
  | .widenReq msg => Sys2Proof.Machine.execWidenReq msg s
  | .widenOrder msg => Sys2Proof.Machine.execWidenOrder msg s
  | .drainedSend p => Sys2Proof.Machine.execDrainedSend p s
  | .drained msg members => Sys2Proof.Machine.execDrained msg members s
  | .widenResume msg => Sys2Proof.Machine.execWidenResume msg s
  | .nerEnable p => Sys2Proof.Machine.execNerEnable p s
  | .nerDisable p => Sys2Proof.Machine.execNerDisable p s
  | .nerRearm p => Sys2Proof.Machine.execNerRearm p s
  | .flitReceive port flit fec crcOk tagOk => Sys2Proof.Machine.execFlitReceive port flit fec crcOk tagOk s
  | .linkTraining port locked => Sys2Proof.Machine.execLinkTraining port locked s
  | .train port peer peerPort isSwitch keyOk => Sys2Proof.Machine.execTrain port peer peerPort isSwitch keyOk s
  | .linkUp port => Sys2Proof.Machine.execLinkUp port s
  | .trainingTimeout port => Sys2Proof.Machine.execTrainingTimeout port s
  | .linkDown port cause => Sys2Proof.Machine.execLinkDown port cause s
  | .remoteRequest port hdr op => Sys2Proof.Machine.execRemoteRequest port hdr op s
  | .remoteResponse port tag gen resp => Sys2Proof.Machine.execRemoteResponse port tag gen resp s
  | .elrenEnable port v => Sys2Proof.Machine.execElrenEnable port v s
  | .elrenFence port v => Sys2Proof.Machine.execElrenFence port v s
  | .forceHalf port v => Sys2Proof.Machine.execForceHalf port v s
  | .lsuFail b => Sys2Proof.Machine.execLsuFail b s
  | .lsuCtrl v => Sys2Proof.Machine.execLsuCtrl v s
  | .foldEntryStart engine p => Sys2Proof.Machine.execFoldEntryStart engine p s
  | .up engine msg => Sys2Proof.Machine.execUp engine msg s
  | .down engine msg => Sys2Proof.Machine.execDown engine msg s
  | .bcast engine msg => Sys2Proof.Machine.execBcast engine msg s
  | .grant engine p tensor windowEnd => Sys2Proof.Machine.execGrant engine p tensor windowEnd s
  | .foldEntryComplete engine p => Sys2Proof.Machine.execFoldEntryComplete engine p s
  | .create p => Sys2Proof.Machine.execCreate p s
  | .teardown p => Sys2Proof.Machine.execTeardown p s
  | .teardownDrained p => Sys2Proof.Machine.execTeardownDrained p s
  | .teardownRelease p => Sys2Proof.Machine.execTeardownRelease p s
  | .reenable p => Sys2Proof.Machine.execReenable p s
  | .map p => Sys2Proof.Machine.execMap p s
  | .unmap p => Sys2Proof.Machine.execUnmap p s
  | .protect p => Sys2Proof.Machine.execProtect p s
  | .mapComplete p => Sys2Proof.Machine.execMapComplete p s
  | .translationWalk tile p ctx va wr => Sys2Proof.Machine.execTranslationWalk tile p ctx va wr s
  | .xlatInval tile v => Sys2Proof.Machine.execXlatInval tile v s
  | .perstNDeassert sel => Sys2Proof.Machine.execPerstNDeassert sel s
  | .perstNAssert => Sys2Proof.Machine.execPerstNAssert s
  | .bootReady => Sys2Proof.Machine.execBootReady s
  | .push img => Sys2Proof.Machine.execPush img s
  | .pushWrite img flashOk => Sys2Proof.Machine.execPushWrite img flashOk s
  | .stageFlash img flashOk => Sys2Proof.Machine.execStageFlash img flashOk s
  | .mbxDone => Sys2Proof.Machine.execMbxDone s
  | .rollbackCommit v => Sys2Proof.Machine.execRollbackCommit v s
  | .reportRequest p => Sys2Proof.Machine.execReportRequest p s
  | .reportDone p => Sys2Proof.Machine.execReportDone p s
  | .getVersion => Sys2Proof.Machine.execGetVersion s
  | .getCapabilities => Sys2Proof.Machine.execGetCapabilities s
  | .negotiateAlgorithms => Sys2Proof.Machine.execNegotiateAlgorithms s
  | .getDigests => Sys2Proof.Machine.execGetDigests s
  | .getCertificate slot off len => Sys2Proof.Machine.execGetCertificate slot off len s
  | .challenge nonce => Sys2Proof.Machine.execChallenge nonce s
  | .getMeasurements idx => Sys2Proof.Machine.execGetMeasurements idx s
  | .keyExchange data => Sys2Proof.Machine.execKeyExchange data s
  | .finish sid verified => Sys2Proof.Machine.execFinish sid verified s
  | .keyUpdate sid => Sys2Proof.Machine.execKeyUpdate sid s
  | .endSession sid => Sys2Proof.Machine.execEndSession sid s
  | .keySet sid target key => Sys2Proof.Machine.execKeySet sid target key s
  | .dbgKeySet sid key => Sys2Proof.Machine.execDbgKeySet sid key s
  | .ideKm sid stream key => Sys2Proof.Machine.execIdeKm sid stream key s
  | .lockInterface p => Sys2Proof.Machine.execLockInterface p s
  | .startInterface p => Sys2Proof.Machine.execStartInterface p s
  | .stopInterface p => Sys2Proof.Machine.execStopInterface p s
  | .tokenRecordTap => Sys2Proof.Machine.execTokenRecordTap s
  | .edgeNotice => Sys2Proof.Machine.execEdgeNotice s
  | .doorbellTap => Sys2Proof.Machine.execDoorbellTap s
  | .launchTap => Sys2Proof.Machine.execLaunchTap s
  | .timeTap => Sys2Proof.Machine.execTimeTap s
  | .fmuSecond => Sys2Proof.Machine.execFmuSecond s
  | .meterWindowEdge => Sys2Proof.Machine.execMeterWindowEdge s
  | .recordWrite fault => Sys2Proof.Machine.execRecordWrite fault s
  | .vfCopyWrite p head fault => Sys2Proof.Machine.execVfCopyWrite p head fault s
  | .setWindow => Sys2Proof.Machine.execSetWindow s
  | .register => Sys2Proof.Machine.execRegister s
  | .unregister => Sys2Proof.Machine.execUnregister s
  | .ringSet => Sys2Proof.Machine.execRingSet s
  | .ringAck => Sys2Proof.Machine.execRingAck s
  | .vfRingSet => Sys2Proof.Machine.execVfRingSet s
  | .setHold => Sys2Proof.Machine.execSetHold s
  | .note => Sys2Proof.Machine.execNote s
  | .seal => Sys2Proof.Machine.execSeal s
  | .sageSample d => Sys2Proof.Machine.execSageSample d s
  | .preset v => Sys2Proof.Machine.execPreset v s
  | .dreset v => Sys2Proof.Machine.execDreset v s
  | .partitionComputeReset p => Sys2Proof.Machine.execPartitionComputeReset p s
  | .partitionResetComplete p => Sys2Proof.Machine.execPartitionResetComplete p s
  | .deviceComputeReset => Sys2Proof.Machine.execDeviceComputeReset s
  | .deviceResetComplete => Sys2Proof.Machine.execDeviceResetComplete s
  | .resetRecordCopy fault => Sys2Proof.Machine.execResetRecordCopy fault s
  | .wdogKick v => Sys2Proof.Machine.execWdogKick v s
  | .watchdog => Sys2Proof.Machine.execWatchdog s
  | .stewardRestartDone digestOk => Sys2Proof.Machine.execStewardRestartDone digestOk s
  | .fatal cause => Sys2Proof.Machine.execFatal cause s
  | .dumpDone ok len4k => Sys2Proof.Machine.execDumpDone ok len4k s
  | .dumpGo v => Sys2Proof.Machine.execDumpGo v s
  | .vfFlr p => Sys2Proof.Machine.execVfFlr p s
  | .pfFlr linkDown => Sys2Proof.Machine.execPfFlr linkDown s
  | .atsInvalidate fn refuse => Sys2Proof.Machine.execAtsInvalidate fn refuse s
  | .busMasterEnable fn en d0 => Sys2Proof.Machine.execBusMasterEnable fn en d0 s
  | .msixUnmask fn vec => Sys2Proof.Machine.execMsixUnmask fn vec s
  | .irqAck v => Sys2Proof.Machine.execIrqAck v s
  | .faultClr v => Sys2Proof.Machine.execFaultClr v s
  | .creset pg => Sys2Proof.Machine.execCreset pg s
  | .clrErr pg => Sys2Proof.Machine.execClrErr pg s
  | .freeze pg on => Sys2Proof.Machine.execFreeze pg on s
  | .intStat pg v => Sys2Proof.Machine.execIntStat pg v s
  | .intSet pg v => Sys2Proof.Machine.execIntSet pg v s
  | .registerWrite acc => Sys2Proof.Machine.execRegisterWrite acc s
  | .revoke v => Sys2Proof.Machine.execRevoke v s
  | .traceCtrl v => Sys2Proof.Machine.execTraceCtrl v s
  | .traceGo v => Sys2Proof.Machine.execTraceGo v s
  | .clkClr v => Sys2Proof.Machine.execClkClr v s
  | .idleReq v => Sys2Proof.Machine.execIdleReq v s
  | .idleEntry => Sys2Proof.Machine.execIdleEntry s
  | .idleExit => Sys2Proof.Machine.execIdleExit s
  | .powerCap sideband v => Sys2Proof.Machine.execPowerCap sideband v s
  | .powerControl avg1ms avg100us => Sys2Proof.Machine.execPowerControl avg1ms avg100us s
  | .vinRange mv => Sys2Proof.Machine.execVinRange mv s
  | .vinShutdown mv => Sys2Proof.Machine.execVinShutdown mv s
  | .thermalStage tj => Sys2Proof.Machine.execThermalStage tj s
  | .thermtrip tj => Sys2Proof.Machine.execThermtrip tj s
  | .pwrEnAssert loopClosed => Sys2Proof.Machine.execPwrEnAssert loopClosed s
  | .pwrEnDeassert => Sys2Proof.Machine.execPwrEnDeassert s
  | .pldmSensorRead id => Sys2Proof.Machine.execPldmSensorRead id s
  | .idcode => Sys2Proof.Machine.execIdcode s
  | .bypass ir => Sys2Proof.Machine.execBypass ir s
  | .dbgTrstN => Sys2Proof.Machine.execDbgTrstN s
  | .dbgStatus cmd => Sys2Proof.Machine.execDbgStatus cmd s
  | .grantChunk cmd => Sys2Proof.Machine.execGrantChunk cmd s
  | .grantCommit cmd => Sys2Proof.Machine.execGrantCommit cmd s
  | .dbgHalt cmd => Sys2Proof.Machine.execDbgHalt cmd s
  | .dbgResume cmd => Sys2Proof.Machine.execDbgResume cmd s
  | .dbgStep cmd => Sys2Proof.Machine.execDbgStep cmd s
  | .bpSet cmd => Sys2Proof.Machine.execBpSet cmd s
  | .bpClr cmd => Sys2Proof.Machine.execBpClr cmd s
  | .memRd cmd => Sys2Proof.Machine.execMemRd cmd s
  | .memWr cmd => Sys2Proof.Machine.execMemWr cmd s
  | .regRd cmd => Sys2Proof.Machine.execRegRd cmd s
  | .regWr cmd => Sys2Proof.Machine.execRegWr cmd s
  | .grantExpiry p => Sys2Proof.Machine.execGrantExpiry p s
  | .linkChange rate width isUp => Sys2Proof.Machine.execLinkChange rate width isUp s
  | .completionTimeout fn q => Sys2Proof.Machine.execCompletionTimeout fn q s
  | .dumpCopyDone fault => Sys2Proof.Machine.execDumpCopyDone fault s
  | .refresh2x u hot => Sys2Proof.Machine.execRefresh2x u hot s

end Sys2Proof.Machine
end

