-- ==== Sys2Proof/Machine/Reads.lean ====
section
/-! DEFINITION. Machine/Reads.lean: what a read of the host returns from every register page and window, and the read latch (R438 to
R445, R447, and the register tables of each chapter). A read changes nothing but the latch; it has no row in the command table, so it
is a function of the state and no command. -/

namespace Sys2Proof.Machine

open Sys2Proof

/-- A 64-bit register as its fields give it. -/
def word64 (fs : List Fld) : W64 := pack 64 fs

/-- Two registers of 32 bits that share an aligned 8 B place. -/
def pair32 (lo hi : Nat) : W64 := word64 [⟨31, 0, lo⟩, ⟨63, 32, hi⟩]

/-- CORE.PART, CSQ.PART, TXU.PART: an owner and its valid bit. -/
def ownerWord (o : Option Nat) : W64 := match o with | some p => word64 [⟨4, 0, p⟩, ⟨5, 5, 1⟩] | none => 0

/-- A reading that nothing in the model determines: open, and not taken from the count of free values (log entry 55). -/
def State.reading (s : State) (n : Nat) : Nat := Config.freeBits n s.freeCtr % 2 ^ n

/-! ### The header (Table 20.1) -/

/-- Latched statistic slots that a page's table uses. -/
def statSlots (typ : Nat) : Nat :=
  if typ = tCORE then 20 else if typ = tFEED then 24 else if typ = tVEC then 12 else if typ = tCBUF then 7 else if typ = tCSQ then 6
  else if typ = tTXU then 9 else if typ = tSTORE then 8 else if typ = tMOVER then 8 else if typ = tKPM then 9 else if typ = tXLAT then 5
  else if typ = tNEAR then 12 else if typ = tBRIDGE then 9 else if typ = tELREN then 14 else if typ = tFOLD then 9
  else if typ = tPART then 2 else if typ = tSEC then 3 else if typ = tMETER then 5 else if typ = tSAGE then 8 else if typ = tPCIE then 8
  else if typ = tGFE then 6 else if typ = tTIME then 3 else if typ = tEMIT then 4 else if typ = tPOWER then 3 else 0

/-- Engines or units that a page covers, all of them present (R17, Tables 1.1, 1.2): a CORE page two scalar pipes and the port, a FEED
page four arrays, every other page its one unit (log entry 68). -/
def blkUnits (typ : Nat) : Nat := if typ = tCORE then 3 else if typ = tFEED then 4 else 1

/-- BLK_CAP: the full complement (R17). -/
def blkCap (typ : Nat) : Nat := packNat [⟨7, 0, blkUnits typ⟩, ⟨15, 8, statSlots typ⟩]

/-- The partition whose generation a page shows. -/
def State.genOwner (s : State) (k : Nat) : Option Nat :=
  let t := keyTyp k
  let u := keyUnit k
  if t = tCSQ ∨ t = tTXU then s.ownerOf u
  else if 0x30 ≤ t ∧ t ≤ 0x33 then s.coreOwner u
  else if t = tPART ∨ (0x60 ≤ t ∧ t ≤ 0x63) then some u
  else none

/-- GEN. -/
def State.genWord (s : State) (k : Nat) : Nat := match s.genOwner k with | some p => (s.part p).gen.toNat | none => 0

/-- BLK_CTRL: ENABLE reads 1. -/
def PageHdr.ctrl (h : PageHdr) : Nat := packNat [⟨0, 0, 1⟩, ⟨1, 1, b2n h.frozen⟩, ⟨2, 2, b2n h.creset⟩]

/-- The header at an aligned offset below 0x040; INT_SET reads zero. -/
def State.hdrWord (s : State) (k off : Nat) : W64 :=
  let h := s.hdr k
  if off = 0x000 then pair32 (blkId k) (blkCap (keyTyp k))
  else if off = 0x008 then pair32 h.ctrl (s.blkStat k)
  else if off = 0x010 then pair32 h.intStat.toNat h.intEn.toNat
  else if off = 0x018 then pair32 0 h.errFirst.toNat
  else if off = 0x020 then pair32 h.errCount.toNat (s.genWord k)
  else if off = 0x028 then h.progress
  else 0

/-- Statistics: the latched slot, and its live counterpart 0xC0 above. -/
def State.statWord (s : State) (k off : Nat) : W64 :=
  if off < 0x100 then Tbl.get 0 s.latched (k * 4096 + off)
  else if off < 0x1C0 then s.stat k (off - 0xC0)
  else 0

/-! ### Clusters and cores (Tables 5.11 to 5.15, 12.8) -/

def State.coreWord (s : State) (k off : Nat) : W64 :=
  let c := s.core k
  let qd := s.engineHeld k
  let dc := fun n => Tbl.get 0 c.dc n
  if off = 0x200 then ownerWord (s.coreOwner k)
  else if 0x210 ≤ off ∧ off < 0x230 then let e := (off - 0x210) / 4; pair32 (qd e) (qd (e + 1))
  else if 0x240 ≤ off ∧ off < 0x280 then
    match (s.execs k ((off - 0x240) / 8)).find? (!·.done) with | some x => x.q.opidx.zeroExtend 64 | none => 0
  else if off = 0x280 then c.fault
  else if 0x300 ≤ off ∧ off < 0x400 then let n := (off - 0x300) / 4; pair32 (dc n) (dc (n + 1))
  else 0

def State.feedWord (s : State) (k off : Nat) : W64 :=
  let a := (off - 0x200) / 0x10
  if off < 0x200 ∨ 0x240 ≤ off then 0
  else if off % 0x10 = 0 then word64 [⟨4, 0, (s.arr k a).loadq⟩]
  else (Tbl.get none (s.core k).lastOvf a).getD 0

/-- The oldest and the newest launch of a sequencer. -/
def State.oldLaunch (s : State) (c : Nat) : Option Entry := ((s.seq c).launches.head?).bind s.ent
def State.newLaunch (s : State) (c : Nat) : Option Entry := ((s.seq c).launches.getLast?).bind s.ent

def State.csqWord (s : State) (c off : Nat) : W64 :=
  let q := s.seq c
  if off = 0x200 then ownerWord (s.ownerOf c)
  else if off = 0x208 then word64 [⟨4, 0, q.launches.length⟩]
  else if off = 0x210 then
    match (s.oldLaunch c).bind (·.step) with | some n => BitVec.ofNat 64 n | none => BitVec.allOnes 64
  else if off = 0x218 then
    match s.oldLaunch c with
    | some e => word64 [⟨7, 0, if e.step = some (s.ctx e.part).cur then (s.ctx e.part).attempt else 0⟩, ⟨9, 8, q.runAheadDepth⟩, ⟨31, 16, e.planH⟩]
    | none => 0
  else if off = 0x220 then pair32 q.nextOff q.bucket
  else if off = 0x228 then pair32 q.markLayer q.markOp
  else if off = 0x230 then
    match q.firstErr with
    | some (e, op) => word64 [⟨15, 0, e.st.toNat⟩, ⟨31, 16, e.sub.toNat⟩, ⟨63, 32, op⟩]
    | none => 0
  else 0

/-- TXU.SLOT: expert and capacity of a slot of the latest stage configured (TXU.LAST_STAGE). -/
def State.txuSlotWord (s : State) (c i : Nat) : W64 :=
  match (s.txu c).lastSlots[i]? with
  | some e => word64 [⟨15, 0, byteFld e 0 2⟩, ⟨31, 16, byteFld e 2 2⟩, ⟨63, 63, 1⟩]
  | none => 0

def State.txuWord (s : State) (c off : Nat) : W64 :=
  let t := s.txu c
  let k := pk tTXU c * 4096
  let two := fun o => pair32 (bits (Tbl.get 0 s.latched (k + o)) 31 0) (bits (Tbl.get 0 s.latched (k + o + 4)) 31 0)
  let live := fun o => pair32 (bits (s.stat (pk tTXU c) o) 31 0) (bits (s.stat (pk tTXU c) (o + 4)) 31 0)
  if off = 0x200 then ownerWord (s.ownerOf c)
  else if off = 0x208 then word64 [⟨16, 0, t.inflight⟩]
  else if off = 0x210 then word64 [⟨16, 0, t.reserved⟩]
  else if off = 0x218 then t.firstErr
  else if off = 0x220 then word64 [⟨15, 0, t.lastStage⟩, ⟨19, 16, t.lastPass⟩]
  else if (0x400 ≤ off ∧ off < 0x500) ∨ (0x600 ≤ off ∧ off < 0x700) then two off
  else if (0x500 ≤ off ∧ off < 0x600) ∨ (0x700 ≤ off ∧ off < 0x800) then live (off - 0x100)
  else if 0x800 ≤ off ∧ off < 0xA00 then s.txuSlotWord c ((off - 0x800) / 8)
  else 0

/-! ### Tiles (Tables 6.6, 6.7, 7.8, 7.9, 11.11, 16.9) -/

/-- Spares in use of a table by bank or group, and how many have none left. -/
def sparesUsed (t : Tbl Nat) : Nat := (t.map (·.2)).sum
def sparesGone (t : Tbl Nat) : Nat := (t.filter fun e => decide (4 ≤ e.2)).length

def State.storeWord (s : State) (t off : Nat) : W64 :=
  let c := s.slice t
  if off = 0x200 then BitVec.ofNat 64 (t * 2 ^ 32)
  else if off = 0x208 then 0xFC000000
  else if off = 0x210 then s.rg (pk tSTORE t) off
  else if off = 0x218 then pair32 c.scrubOff c.passes
  else if off = 0x220 then c.ceAddr
  else if off = 0x228 then c.ueAddr
  else if off = 0x238 then word64 [⟨9, 0, sparesUsed c.spares⟩, ⟨16, 16, b2n c.exhausted⟩]
  else 0

/-- Counts of the 32 partitions, two to a word, from offset `base`. -/
def partCounts (f : Nat → Nat) (base off : Nat) : W64 := let p := (off - base) / 4; pair32 (f p) (f (p + 1))

def State.moverWord (s : State) (t off : Nat) : W64 :=
  let m := s.mover t
  if off = 0x200 then word64 [⟨10, 0, m.descs.length⟩]
  else if 0x208 ≤ off ∧ off < 0x288 then partCounts (s.mvInflight t) 0x208 off
  else if off = 0x290 ∨ off = 0x298 ∨ off = 0x2A0 then s.rg (pk tMOVER t) off
  else if off = 0x2A8 then word64 [⟨12, 0, m.pqHead⟩]
  else if off = 0x2B0 then m.pqDone.zeroExtend 64
  else if off = 0x2B8 then m.firstErr
  else if off = 0x2C0 then m.firstStat
  else 0

def State.nearWord (s : State) (u off : Nat) : W64 :=
  let t := s.tier u
  if off = 0x200 then BitVec.ofNat 64 u
  else if off = 0x208 then
    word64 [⟨0, 0, b2n t.degraded⟩, ⟨1, 1, b2n t.die.isSome⟩, ⟨6, 2, t.die.getD 0⟩, ⟨7, 7, b2n t.refresh2x⟩, ⟨8, 8, b2n t.selfRefresh⟩,
      ⟨9, 9, b2n t.retirePending⟩]
  else if off = 0x210 then s.rg (pk tNEAR u) off
  else if off = 0x218 then word64 [⟨35, 0, t.scrubOff⟩, ⟨63, 36, t.passes⟩]
  else if off = 0x220 then t.ceAddr
  else if off = 0x228 then t.ueAddr
  else if off = 0x238 then word64 [⟨7, 0, sparesUsed t.spares⟩, ⟨13, 8, sparesGone t.spares⟩]
  else if off = 0x240 then t.lastRepair
  else if off = 0x250 then word64 [⟨15, 0, t.retired.length⟩]
  else if off = 0x258 then word64 [⟨15, 0, s.pagesAvail u⟩]
  else 0

/-- A bridge's page shows its two ranks; of the die that has failed, the module rank's first; of the scrub, the rank that has made
fewer passes (log entry 55). -/
def State.bridgeWord (s : State) (b off : Nat) : W64 :=
  let m := s.tier (16 + b)
  let h := s.tier (24 + b)
  let onShelf := m.die.isNone && h.die.isSome
  let die := match m.die with | some d => d | none => h.die.getD 0
  if off = 0x200 then BitVec.ofNat 64 b
  else if off = 0x208 then
    word64 [⟨0, 0, b2n (s.bridge b).linkUp⟩, ⟨1, 1, b2n m.degraded⟩, ⟨2, 2, b2n h.degraded⟩, ⟨3, 3, b2n (m.selfRefresh || h.selfRefresh)⟩,
      ⟨4, 4, b2n m.die.isSome⟩, ⟨5, 5, b2n h.die.isSome⟩, ⟨10, 6, die⟩, ⟨11, 11, b2n onShelf⟩, ⟨12, 12, b2n (m.refresh2x || h.refresh2x)⟩,
      ⟨13, 13, b2n (m.retirePending || h.retirePending)⟩]
  else if off = 0x210 then s.rg (pk tBRIDGE b) off
  else if off = 0x218 then
    if h.passes < m.passes then word64 [⟨37, 0, h.scrubOff⟩, ⟨38, 38, 1⟩, ⟨63, 40, h.passes⟩]
    else word64 [⟨37, 0, m.scrubOff⟩, ⟨63, 40, min m.passes h.passes⟩]
  else if off = 0x220 then m.ceAddr
  else if off = 0x228 then m.ueAddr
  else if off = 0x238 then
    word64 [⟨8, 0, sparesUsed m.spares⟩, ⟨24, 16, sparesUsed h.spares⟩, ⟨38, 32, sparesGone m.spares⟩, ⟨45, 40, sparesGone h.spares⟩]
  else if off = 0x240 then m.lastRepair
  else if off = 0x250 then word64 [⟨17, 0, m.retired.length⟩, ⟨49, 32, h.retired.length⟩]
  else if off = 0x258 then word64 [⟨17, 0, s.pagesAvail (16 + b)⟩, ⟨49, 32, s.pagesAvail (24 + b)⟩]
  else if off = 0x260 then word64 [⟨12, 0, s.crumbsAt b⟩]
  else 0

def State.kpmWord (s : State) (t off : Nat) : W64 :=
  let m := s.kpm t
  let k := pgKPM t
  let p := s.rgN k 0x200 % 32
  let q := Tbl.get KpmPart.zero m.parts p
  if off = 0x200 then s.rg k 0x200
  else if off = 0x208 then s.rg k (kpmBank p 0)
  else if off = 0x210 then s.rg k (kpmBank p 1)
  else if off = 0x218 then s.rg k (kpmBank p 2)
  else if 0x228 ≤ off ∧ off < 0x248 then word64 [⟨24, 0, (Tbl.get [] q.free ((off - 0x228) / 8)).length⟩]
  else if off = 0x248 then word64 [⟨24, 0, q.reclaim.length⟩]
  else if off = 0x250 then s.rg k (kpmBank p 3)
  else if off = 0x258 then word64 [⟨16, 0, (m.streams.filter fun x => x.part == p).length⟩]
  else if off = 0x260 then word64 [⟨13, 0, m.ops.length⟩]
  else if 0x268 ≤ off ∧ off < 0x2E8 then partCounts (s.kpmInflight t) 0x268 off
  else if off = 0x2E8 then m.firstErr
  else if off = 0x2F0 then m.firstInfo
  else if off = 0x2F8 then m.poolReject
  else 0

def State.xlatWord (s : State) (t off : Nat) : W64 :=
  if off = 0x208 then (s.xlat t).invalDone.zeroExtend 64
  else if (0x210 ≤ off ∧ off < 0x290 ∧ off % 16 = 0) ∨ 0x800 ≤ off then s.rg (pk tXLAT t) off
  else 0

/-! ### Elren and fold engines (Tables 14.8, 15.7) -/

/-- ELREN.STATUS.STATE: a fenced port that is up reads fenced. -/
def State.linkState (s : State) (e : Nat) : Nat :=
  match (s.port e).st with
  | .down => 0
  | .training => 1
  | .up => if s.portFenced e then 3 else 2

def State.elrenWord (s : State) (e off : Nat) : W64 :=
  let p := s.port e
  let zero := e == 0
  if off = 0x200 then s.rg (pgEl e) 0x200
  else if off = 0x208 then
    word64 [⟨1, 0, s.linkState e⟩, ⟨2, 2, b2n p.half⟩, ⟨3, 3, b2n p.upperHalf⟩, ⟨4, 4, b2n p.isSwitch⟩, ⟨5, 5, b2n p.peerChanged⟩,
      ⟨31, 16, if p.isSwitch then 0xFFFF else p.peer.toNat⟩, ⟨35, 32, p.peerPort⟩]
  else if off = 0x210 then word64 [⟨3, 0, p.downCause⟩, ⟨63, 32, p.downs.toNat⟩]
  else if off = 0x218 then word64 [⟨15, 0, p.wlUse.toNat⟩, ⟨31, 16, p.wlFail.toNat⟩]
  else if off = 0x220 then word64 [⟨7, 0, s.reading 8⟩]
  else if off = 0x228 then word64 [⟨19, 0, p.outReqs.length⟩]
  else if 0x230 ≤ off ∧ off < 0x2B0 then partCounts (s.elInflight e) 0x230 off
  else if off = 0x2B0 then p.lostPeer
  else if zero ∧ off = 0x308 then BitVec.ofNat 64 s.lsuBits
  else if zero ∧ (off = 0x300 ∨ off = 0x310 ∨ off = 0x318) then s.rg (pgEl 0) off
  else 0

def State.foldWord (s : State) (e off : Nat) : W64 :=
  let k := pgFOLD e
  let p := s.rgN k 0x290 % 32
  let f := s.fpart e p
  if off = 0x200 then BitVec.ofNat 64 e
  else if off = 0x208 then word64 [⟨12, 0, (s.foldE e).inflight⟩]
  else if 0x210 ≤ off ∧ off < 0x290 then partCounts (s.foldInflight e) 0x210 off
  else if off = 0x290 then s.rg k 0x290
  else if off = 0x298 then pair32 f.cur (match s.foldCur e p with | some r => feTensor r | none => 0)
  else if off = 0x2A0 then f.firstErr
  else if off = 0x2A8 then f.firstInfo
  else 0

/-! ### Partitions and security (Tables 16.7, 16.10) -/

def PState.code : PState → Nat
  | .free => 0
  | .active => 1
  | .tearingDown => 2
  | .scrubbing => 3
  | .quarantined => 4

/-- PART.FAULT lies in the partition's state; PART.STATE and the others by Table 16.7. -/
def State.partWord (s : State) (p off : Nat) : W64 :=
  let q := s.part p
  if off = 0x208 then word64 [⟨2, 0, q.state.code⟩, ⟨15, 8, q.gen.toNat⟩, ⟨18, 16, q.tdi.code⟩, ⟨23, 20, q.errCode⟩]
  else if off = 0x240 then word64 [⟨8, 0, q.useStore⟩]
  else if off = 0x248 then word64 [⟨20, 0, q.useNear⟩]
  else if off = 0x250 then word64 [⟨20, 0, q.useModule⟩]
  else if off = 0x258 then word64 [⟨20, 0, q.useShelf⟩]
  else if off = 0x280 then word64 [⟨0, 0, b2n q.mapBusy⟩, ⟨15, 8, q.mapRes⟩, ⟨63, 32, q.mapDone⟩]
  else if off = 0x288 then word64 [⟨31, 0, s.partInflight p⟩]
  else if off = 0x290 then q.fault
  else if off = 0x200 ∨ off = 0x218 ∨ (0x220 ≤ off ∧ off ≤ 0x238) ∨ (0x260 ≤ off ∧ off ≤ 0x270) then s.rg (pgPART p) off
  else 0

/-- A mask of the keys that a table of keys lists. -/
def keyMask {α : Type} (t : Tbl α) : Nat := packNat (t.map fun e => ⟨e.1, e.1, 1⟩)

def State.secWord (s : State) (off : Nat) : W64 :=
  let x := s.sec
  if off = 0x200 then
    word64 [⟨0, 0, b2n x.aliasReady⟩, ⟨3, 1, (x.sessions.filter (·.2)).length⟩, ⟨4, 4, b2n x.ideLink⟩]
  else if off = 0x208 then word64 [⟨7, 0, x.imageSvn⟩, ⟨15, 8, x.fusedSvn⟩, ⟨19, 16, x.revoked.toNat⟩, ⟨23, 20, x.imageSlot⟩]
  else if 0x218 ≤ off ∧ off < 0x258 then BitVec.ofNat 64 (ofLe ((x.fwDigest.drop (off - 0x218)).take 8))
  else if off = 0x258 then pair32 (keyMask x.tierKeys) (keyMask x.flowKeys)
  else if off = 0x260 then word64 [⟨0, 0, b2n x.linkKey.isSome⟩, ⟨15, 8, x.keySets.toNat⟩]
  else 0

/-! ### Metrology unit (Table 17.8) -/

def State.meterWord (s : State) (off : Nat) : W64 :=
  let f := s.fmu
  let bytes := fun (b : Bytes) (o : Nat) => BitVec.ofNat 64 (ofLe ((b.drop o).take 8))
  if off = 0x200 then Config.fmuRom.zeroExtend 64
  else if off = 0x208 then Config.fmuSerial
  else if off = 0x210 then
    word64 [⟨1, 0, f.sealCode⟩, ⟨2, 2, b2n f.suspect⟩, ⟨3, 3, b2n (f.tapLock != .locked)⟩, ⟨4, 4, b2n f.hold⟩, ⟨5, 5, b2n f.emitHold⟩,
      ⟨6, 6, b2n f.ringSet⟩, ⟨7, 7, b2n f.ringFault⟩, ⟨8, 8, b2n f.alive⟩]
  else if off = 0x218 then BitVec.ofNat 64 f.seq
  else if off = 0x220 then f.boot.zeroExtend 64
  else if off = 0x228 then pair32 f.winMs f.winPend
  else if off = 0x230 then word64 [⟨14, 0, f.buffered⟩]
  else if off = 0x238 then f.lostAll
  else if off = 0x240 then f.ringBase
  else if off = 0x248 then word64 [⟨20, 0, f.ringSize⟩]
  else if off = 0x250 then word64 [⟨19, 0, f.ringTail⟩]
  else if off = 0x258 then word64 [⟨19, 0, f.ringHead⟩]
  else if off = 0x260 then word64 [⟨13, 0, (f.streams.filter fun x => x.goneAt.isNone).length⟩]
  else if off = 0x268 then word64 [⟨15, 0, codeOf 16 f.drift⟩]
  else if 0x270 ≤ off ∧ off < 0x2B0 then bytes Config.fmuPubkey (off - 0x270)
  else if 0x300 ≤ off ∧ off < 0x340 then s.rg pgMETER off
  else if off = 0x348 then word64 [⟨15, 8, f.cmdRes.toNat⟩]
  else if 0x400 ≤ off ∧ off < 0x500 then BitVec.ofNat 64 (Tbl.get 0 f.vfLost ((off - 0x400) / 8))
  else if off = 0x500 then f.vfFault.zeroExtend 64
  else if 0x800 ≤ off ∧ off < 0xC00 then bytes Config.fmuCert (off - 0x800)
  else 0

/-! ### Sage, PCIe (Tables 18.10, 19.7) -/

def State.sageWord (s : State) (off : Nat) : W64 :=
  let g := s.sage
  let now := s.now
  let win := fun p => bits (s.rg pgSAGE (0x300 + 4 * p)) 25 0
  let cnt := fun p => (recent now 600 (s.part p).hangs).length
  if off = 0x200 ∨ off = 0x208 ∨ off = 0x210 ∨ off = 0x250 ∨ off = 0x258 ∨ off = 0x268 ∨ (0x278 ≤ off ∧ off ≤ 0x288) then s.rg pgSAGE off
  else if off = 0x230 then
    word64 ((List.range 32).map (fun p => ⟨p, p, b2n ((s.part p).rst != 0)⟩) ++ [⟨32, 32, b2n (g.devRst != 0)⟩, ⟨33, 33, b2n g.stewardRst⟩,
      ⟨34, 34, b2n g.oos⟩, ⟨35, 35, b2n g.fatal.isSome⟩])
  else if off = 0x238 then g.last
  else if off = 0x240 then g.hung
  else if off = 0x248 then word64 [⟨2, 0, (recent now 3600 g.counted).length⟩, ⟨8, 8, b2n g.oos⟩]
  else if off = 0x260 then word64 [⟨7, 0, g.recTail⟩]
  else if off = 0x270 then BitVec.ofNat 64 s.fatalWord
  else if off = 0x298 then word64 [⟨0, 0, b2n g.dumpBusy⟩, ⟨1, 1, b2n g.dumpFault⟩, ⟨63, 32, g.dumpCopies.toNat⟩]
  else if 0x300 ≤ off ∧ off < 0x380 then partCounts win 0x300 off
  else if 0x380 ≤ off ∧ off < 0x400 then partCounts cnt 0x380 off
  else 0

def State.pcieWord (s : State) (off : Nat) : W64 :=
  let x := s.pcie
  if off = 0x200 then word64 [⟨3, 0, x.rate⟩, ⟨9, 4, x.width⟩, ⟨10, 10, b2n (x.rate == 6)⟩, ⟨11, 11, b2n x.linkUp⟩]
  else if off = 0x208 then x.vfEn.zeroExtend 64
  else if 0x210 ≤ off ∧ off < 0x250 then let c := (off - 0x210) / 4; pair32 (s.ivec c) (s.ivec (c + 1))
  else if off = 0x250 then word64 ((List.range 16).map fun c => ⟨c, c, b2n (s.classPending c)⟩)
  else if off = 0x260 then x.faultAddr
  else if off = 0x268 then x.faultInfo
  else if off = 0x278 ∨ off = 0x280 ∨ off = 0x288 then s.rg pgPCIE off
  else if off = 0x298 then word64 [⟨0, 0, b2n x.mbxBusy⟩, ⟨23, 8, bits x.mbxStat 23 8⟩]
  else 0

/-! ### Steward-die pages (Tables 20.6 to 20.11, 20.15, 20.16) -/

def State.bootWord (s : State) (off : Nat) : W64 :=
  let b := s.boot
  if off = 0x200 then word64 [⟨7, 0, b.code⟩, ⟨15, 8, b.lastFail⟩, ⟨16, 16, b2n b.pushed⟩, ⟨63, 32, b.codeMs⟩]
  else if off = 0x208 then word64 [⟨2, 0, b.straps.toNat⟩]
  else if off = 0x210 then b.count.zeroExtend 64
  else if off = 0x218 then b.cause.zeroExtend 64
  else 0

def State.idWord (s : State) (off : Nat) : W64 :=
  if off = 0x200 then word64 [⟨15, 0, 0x0840⟩, ⟨23, 16, 4⟩, ⟨24, 24, 1⟩, ⟨25, 25, b2n Config.sealS1⟩]
  else if off = 0x208 then Config.serial
  else if off = 0x210 then word64 [⟨23, 0, Config.revision⟩]
  else if off = 0x218 then 0x0010008000200008
  else if off = 0x220 then 504
  else if off = 0x228 then word64 [⟨23, 0, s.idPages 1⟩]
  else if off = 0x230 then word64 [⟨23, 0, s.idPages 2⟩]
  else if off = 0x238 then word64 [⟨23, 0, s.idPages 3⟩]
  else if off = 0x240 then word64 [⟨31, 0, s.degradedBits⟩]
  else 0

def State.gfeWord (s : State) (off : Nat) : W64 :=
  let act := fun p => s.activeCtx p
  if off = 0x200 then word64 [⟨1, 0, s.gfe.level⟩]
  else if off = 0x208 ∨ off = 0x210 then s.rg (pk tGFE 0) off
  else if off = 0x218 then
    word64 [⟨0, 0, b2n s.gfe.planLoaded⟩, ⟨1, 1, b2n s.gfe.placedAny⟩, ⟨2, 2, b2n s.emit.hold⟩, ⟨3, 3, b2n (!s.gfe.notices.isEmpty)⟩]
  else if 0x220 ≤ off ∧ off < 0x2A0 then partCounts act 0x220 off
  else 0

def Lock.code : Lock → Nat
  | .unlocked => 0
  | .acquiring => 1
  | .locked => 2
  | .holdover => 3
  | .unsynced => 4

/-- A signed value clamped to 16 bits. -/
def clamp16 (x : Int) : Nat := codeOf 16 (max (-32768) (min 32767 x))

/-- CTX.STATE (Table 20.10). -/
def CtxSt.word (c : CtxSt) : W64 := word64 [⟨0, 0, b2n c.bound⟩, ⟨1, 1, b2n c.unbinding⟩, ⟨2, 2, b2n c.coordLost⟩]

def State.timeWord (s : State) (off : Nat) : W64 :=
  let t := s.time
  let p := (off - 0x400) / 0x40
  let r := off % 0x40
  if off = 0x200 ∨ off = 0x208 ∨ off = 0x228 ∨ off = 0x230 ∨ off = 0x238 then s.rg pgTIME off
  else if off = 0x218 then t.now
  else if off = 0x220 then
    word64 [⟨2, 0, t.lock.code⟩, ⟨10, 8, t.depth⟩, ⟨11, 11, b2n t.srcHoldover⟩, ⟨31, 16, clamp16 t.lastOffset⟩, ⟨47, 32, min 65535 t.lastDelay.toNat⟩]
  else if off = 0x240 then word64 ((List.range 32).map fun p => ⟨p, p, b2n (s.ctx p).bound⟩)
  else if off < 0x400 ∨ 0xC00 ≤ off then 0
  else if r = 0 ∨ r = 8 ∨ r = 0x10 then s.rg pgTIME off
  else if r = 0x18 then word64 [⟨1, 1, b2n (s.ctx p).unbinding⟩]
  else if r = 0x20 then (s.ctx p).word
  else if r = 0x28 then (s.ctx p).lastEdge
  else 0

def State.emitWord (s : State) (off : Nat) : W64 :=
  let held := fun p => (s.emit.held.filter fun h => h.part == p).length
  if 0x200 ≤ off ∧ off < 0x280 then partCounts held 0x200 off
  else if off = 0x280 then word64 [⟨0, 0, b2n s.emit.hold⟩, ⟨1, 1, b2n s.fmu.alive⟩]
  else 0

def State.powerWord (s : State) (off : Nat) : W64 :=
  if off = 0x200 then BitVec.ofNat 64 s.powerState
  else if off = 0x208 ∨ off = 0x210 then s.rg pgPOWER off
  else if off = 0x218 then BitVec.ofNat 64 (if s.power.lowM = 0 then packNat [⟨4, 0, s.power.m⟩, ⟨19, 16, s.power.cause⟩] else s.powerClk)
  else if off = 0x228 then word64 [⟨15, 0, s.power.mv⟩, ⟨35, 16, s.reading 20⟩, ⟨63, 48, s.power.watts⟩]
  else if off = 0x230 then word64 [⟨15, 0, s.power.tjMax⟩]
  else if 0x238 ≤ off ∧ off < 0x278 then word64 [⟨15, 0, s.power.tj.getD ((off - 0x238) / 8) 0⟩]
  else 0

/-- A partition has a halted engine. -/
def State.anyHalted (s : State) (p : Nat) : Bool :=
  (s.clustersOf p).any (fun c => (s.seq c).halted) || (s.coresOf p).any fun k => (s.pipe k 0).halted || (s.pipe k 1).halted

def State.debugWord (s : State) (off : Nat) : W64 :=
  let d := s.dbg
  if off = 0x200 then word64 ((List.range 32).map fun p => ⟨p, p, b2n (s.part p).grant.isSome⟩)
  else if off = 0x210 then
    word64 ((List.range 32).map (fun p => ⟨p, p, b2n (s.anyHalted p)⟩) ++ [⟨32, 32, b2n (d.stewHalted != 0)⟩])
  else if off = 0x218 then word64 [⟨0, 0, b2n (d.attn != 0)⟩, ⟨15, 8, d.attn⟩]
  else if off = 0x220 ∨ off = 0x228 ∨ off = 0x238 then s.rg (pk tDEBUG 0) off
  else if off = 0x230 then word64 [⟨0, 0, b2n d.traceOn⟩, ⟨2, 1, d.traceStop⟩, ⟨63, 32, d.traceCount.toNat⟩]
  else 0

/-! ### Queues and VF_STATUS (Tables 20.12 to 20.14, 20.17) -/

def SqSt.word (q : SqSt) : W64 :=
  let st := match q.state with | .disabled => 0 | .normal => 1 | .failed => 2 | .broken => 3
  word64 [⟨1, 0, st⟩, ⟨2, 2, b2n q.draining⟩, ⟨28, 16, q.head⟩]

def State.sqWord (s : State) (fn : Fn) (off : Nat) : W64 :=
  let q := (off - 0x200) / 0x20
  let r := off % 0x20
  if off < 0x200 ∨ !qOk fn q then 0
  else if r = 0 ∨ r = 8 then s.rg (sqPage fn) off
  else if r = 0x10 then word64 [⟨1, 1, b2n (s.sq (qKey fn q)).draining⟩]
  else if r = 0x18 then (s.sq (qKey fn q)).word
  else 0

def CqSt.word (q : CqSt) : W64 :=
  word64 [⟨0, 0, b2n q.enabled⟩, ⟨1, 1, b2n q.broken⟩, ⟨2, 2, b2n q.cqFault⟩, ⟨3, 3, b2n q.trFault⟩, ⟨4, 4, b2n q.overflow⟩,
    ⟨28, 16, q.tail⟩, ⟨51, 32, q.trTail⟩]

def State.cqWord (s : State) (fn : Fn) (off : Nat) : W64 :=
  if off < 0x200 then 0
  else if off < 0xA00 then (if qOk fn ((off - 0x200) / 0x20) then s.rg (cqPage fn) off else 0)
  else if 0xC00 ≤ off ∧ off < 0xE00 ∧ qOk fn ((off - 0xC00) / 8) then (s.cq (qKey fn ((off - 0xC00) / 8))).word
  else 0

def State.vsWord (s : State) (p off : Nat) : W64 :=
  let q := s.part p
  let n := s.ner p
  let k := pgVS p
  if off = 0x200 then word64 [⟨2, 0, q.state.code⟩, ⟨15, 8, q.gen.toNat⟩, ⟨18, 16, q.tdi.code⟩, ⟨22, 20, s.activeCtx p⟩]
  else if off = 0x208 then (s.ctx p).lastEdge
  else if off = 0x210 then (s.ctx p).word
  else if off = 0x238 then word64 [⟨0, 0, b2n n.enabled⟩, ⟨1, 1, b2n n.broken⟩, ⟨31, 16, n.next⟩, ⟨63, 32, n.lost⟩]
  else if off = 0x340 then word64 [⟨0, 0, b2n (bitOf (s.rg k 0x348) 0)⟩]
  else if off = 0x218 ∨ off = 0x220 ∨ off = 0x230 ∨ off = 0x240 ∨ (0x300 ≤ off ∧ off < 0x340) ∨ off = 0x348 ∨ (0x400 ≤ off ∧ off < 0x600) then s.rg k off
  else 0

/-! ### A page, a window, and the latch (R440, R441, R444, R445) -/

/-- What the aligned 8 B at an offset of a page hold; a reserved offset and a spare page read zero. -/
def State.pageWord (s : State) (fn : Fn) (pg : Page) (off : Nat) : W64 :=
  let k := pageKey pg
  let t := pg.typ
  let u := pg.unit
  if !pageOk pg || decide (4096 ≤ off) then 0
  else if off < 0x040 then s.hdrWord k off
  else if off < 0x200 then s.statWord k off
  else if t = tBOOT then s.bootWord off
  else if t = tID then s.idWord off
  else if t = tGFE then s.gfeWord off
  else if t = tPFSQ ∨ t = tVFSQ then s.sqWord fn off
  else if t = tPFCQ ∨ t = tVFCQ then s.cqWord fn off
  else if t = tTIME then s.timeWord off
  else if t = tSAGE then s.sageWord off
  else if t = tEMIT then s.emitWord off
  else if t = tSEC then s.secWord off
  else if t = tPCIE then s.pcieWord off
  else if t = tPOWER then s.powerWord off
  else if t = tDEBUG then s.debugWord off
  else if t = tMETER then s.meterWord off
  else if t = tPART then s.partWord u off
  else if t = tCSQ then s.csqWord u off
  else if t = tTXU then s.txuWord u off
  else if t = tCORE then s.coreWord u off
  else if t = tFEED then s.feedWord u off
  else if t = tCBUF then (if off = 0x200 then (s.core u).cbErr else 0)
  else if t = tSTORE then s.storeWord u off
  else if t = tMOVER then s.moverWord u off
  else if t = tKPM then s.kpmWord u off
  else if t = tXLAT then s.xlatWord u off
  else if t = tNEAR then s.nearWord u off
  else if t = tBRIDGE then s.bridgeWord u off
  else if t = tELREN then s.elrenWord u off
  else if t = tFOLD then s.foldWord u off
  else if t = tVFSTATUS then s.vsWord u off
  else 0

/-- The tenant context that a VF's windows show (R445). -/
def State.windowCtx (s : State) (p : Nat) : Nat :=
  let v := s.rg (pgVS p) 0x240
  if bitOf v 3 then s.activeCtx p else bits v 2 0

/-- The windows of a VF: semaphore i at 0x7_0000 + 4i, fence i at 0x8_0000 + 8i. -/
def State.semWindow (s : State) (p i : Nat) : Nat := if i < 4096 then s.sem p (s.windowCtx p) i else 0
def State.fenceWindow (s : State) (p i : Nat) : Nat := if i < 65536 then s.fence p (s.windowCtx p) i else 0

/-- An aligned 8 B of an MSI-X table, or of the PBA behind it (R427, Table 19.2). -/
def State.msixWord (s : State) (u off : Nat) : W64 :=
  let at32 := fun (o : Nat) =>
    if !vecOk (keyFn u) (o / 16) then 0
    else if o % 16 = 12 then b2n (!Tbl.get false s.pcie.unmasked (u * 4096 + o / 16))
    else s.rgN (msixKey u o) (o % 4096)
  if off < 0x8000 then pair32 (at32 off) (at32 (off + 4))
  else word64 ((List.range 64).map fun i =>
    ⟨i, i, b2n (Tbl.get false s.pcie.pending (u * 4096 + (off - 0x8000) * 8 + i) && decide ((off - 0x8000) * 8 + i < 2048))⟩)

/-- What the aligned 8 B at an offset of a space of a function hold: a page's, a window's or an MSI-X table's; zero at any other offset,
and of a function that is not there or a module that is not up (R440, R444, R445). -/
def State.barWord (s : State) (fn : Fn) (bar : Bar) (off : Nat) : W64 :=
  if !s.up || !s.fnLive fn then 0
  else
    match fn, bar with
    | _, .config => 0
    | .pf, .bar4 => s.msixWord 0 off
    | .vf p, .bar2 => s.msixWord (1 + p) off
    | fn, bar =>
      match barPage fn bar off with
      | some pg => s.pageWord fn pg (off % 4096)
      | none =>
        match fn, bar with
        | .vf p, .bar0 =>
          if 0x70000 ≤ off ∧ off < 0x74000 then
            let i := (off - 0x70000) / 4
            pair32 (s.semWindow p i) (s.semWindow p (i + 1))
          else if 0x80000 ≤ off ∧ off < 0x100000 then BitVec.ofNat 64 (s.fenceWindow p ((off - 0x80000) / 8))
          else 0
        | _, _ => 0

/-- The key of the 4 KiB that an access falls in, for its read latch: a page's own, or one of the window's or table's. -/
def latchKey (fn : Fn) (bar : Bar) (off : Nat) : Nat :=
  match barPage fn bar off with
  | some pg => pageKey pg
  | none => pk 0x200 (off / 4096)

/-- The latch of a function on a page: the register that its last read there took the low word of, and the high word then. -/
def State.latchOf (s : State) (fn : Fn) (k : Nat) : Option ReadLatch := s.latches.find? fun l => l.fn == fn && l.pkey == k

/-- The latch set, or forgotten: any read of the page but of a register's low word ends it. -/
def State.setLatch (s : State) (fn : Fn) (k : Nat) (l : Option ReadLatch) : State :=
  { s with latches := s.latches.filter (fun x => !(x.fn == fn && x.pkey == k)) ++ l.toList }

/-- Offsets that hold registers of 32 bits, the read-only arrays of them among them. -/
def read32 (typ off : Nat) : Bool :=
  reg32 typ off
    || typ == tCORE && decide ((0x210 ≤ off ∧ off < 0x230) ∨ (0x300 ≤ off ∧ off < 0x400))
    || typ == tTXU && decide (0x400 ≤ off ∧ off < 0x800)
    || typ == tMOVER && decide (0x208 ≤ off ∧ off < 0x288)
    || typ == tKPM && decide (0x268 ≤ off ∧ off < 0x2E8)
    || typ == tELREN && decide (0x230 ≤ off ∧ off < 0x2B0)
    || typ == tFOLD && decide (0x210 ≤ off ∧ off < 0x290)
    || typ == tEMIT && decide (0x200 ≤ off ∧ off < 0x280)
    || typ == tGFE && decide (0x220 ≤ off ∧ off < 0x2A0)
    || typ == tSAGE && decide (0x380 ≤ off ∧ off < 0x400)

/-- Registers of 32 bits at an aligned place of a space. -/
def bar32 (fn : Fn) (bar : Bar) (off : Nat) : Bool :=
  match barPage fn bar off with
  | some pg => read32 pg.typ (off % 4096)
  | none => !(bar == .bar0 && decide (0x80000 ≤ off))

/-- A read of the host (R425, R441), aligned and 4 B or 8 B: the value, and the state with its latch. A 32-bit read of a register's high
word returns the latch where the function's last read of the page was the low word of the same register. -/
def State.hostRead (s : State) (fn : Fn) (bar : Bar) (off : Nat) (wide : Bool) : W64 × State :=
  let k := latchKey fn bar off
  let base := off / 8 * 8
  let w := s.barWord fn bar base
  if wide then (w, s.setLatch fn k none)
  else if bar32 fn bar base then
    (word64 [⟨31, 0, if off % 8 = 0 then bits w 31 0 else bits w 63 32⟩], s.setLatch fn k none)
  else if off % 8 = 0 then
    (word64 [⟨31, 0, bits w 31 0⟩], s.setLatch fn k (some ⟨fn, k, base, BitVec.ofNat 32 (bits w 63 32)⟩))
  else
    let hi := match s.latchOf fn k with
      | some l => if l.off = base then l.hi.toNat else bits w 63 32
      | none => bits w 63 32
    (word64 [⟨31, 0, hi⟩], s.setLatch fn k none)

end Sys2Proof.Machine
end

