-- ==== Sys2Proof/Safety.lean ====
section
/-! DEFINITION. Safety.lean: what a safe run of the block is: no step stops the machine, and the state keeps its canonical form, so
that equal contents are equal data. -/

namespace Sys2Proof.Machine

open Sys2Proof

/-- Both byte memories are in canonical form: addresses strictly rising, no byte listed that reads as an unlisted one does. -/
def State.memWf (s : State) : Bool := Memory.wf s.mem && Memory.wf s.cb

/-- The register file and the statistics list each key once, in rising order. -/
def State.regWf (s : State) : Bool :=
  Tbl.wfFrom 0 s.rf && Tbl.wfFrom 0 s.hdrs && Tbl.wfFrom 0 s.engProg && Tbl.wfFrom 0 s.live && Tbl.wfFrom 0 s.latched

/-- No two entries in hand have the same number, and the next number is above them all. -/
def State.entsDistinct (s : State) : Bool :=
  s.ents.all (fun e => decide (e.uid < s.gfe.nextUid)) && decide (s.ents.Pairwise fun a b => a.uid ≠ b.uid)

/-- A step that does not stop the machine, and what it leaves. -/
def StepsTo (s t : State) : Prop := step s = .next t

/-- The states that steps reach from `s`, with commands arriving at the queue's end between steps. -/
inductive Reached (s : State) : State → Prop where
  | start : Reached s s
  | step {t u : State} : Reached s t → StepsTo t u → Reached s u
  | arrive {t : State} (c : Instr) : Reached s t → Reached s { t with pending := t.pending ++ [c] }

/-- A run is safe where every state it reaches has a next state. -/
def SafeFrom (s : State) : Prop := ∀ t, Reached s t → ∃ u, StepsTo t u

/-! ### Words that statements share -/

/-- Pipe `j` of core `k` issues the instruction `word`, in the bits that `use` names, and `u` is the state after its fetch. -/
def State.issues (s : State) (k j use word : Nat) (u : State) : Prop :=
  s.scReady k j = true ∧ (s.pipe k j).atBreak = false ∧ ∃ w, s.scFetch k j = (.ok w, u) ∧ w &&& use = word &&& use

/-- From `u` to `t` the pipe goes to address `pc`; no register of it, no other pipe, nothing else of a core, and nothing else but
counts changes. -/
def PcTo (u t : State) (k j pc : Nat) : Prop :=
  (t.pipe k j).pc = pc ∧ (∀ g, t.gpr k j g = u.gpr k j g) ∧ (∀ b, b ≠ j → t.pipe k b = u.pipe k b) ∧
    t.core k = { u.core k with pipes := (t.core k).pipes } ∧ (∀ a, a ≠ k → t.core a = u.core a) ∧
    t = { u with cores := t.cores, live := t.live }

/-- From `u` to `t` register `gd` takes `v` and the pipe goes to address `pc`: g0 stays zero; no other register, no other pipe, nothing
else of a core, and nothing else but counts changes. -/
def GprSet (u t : State) (k j : Nat) (gd : BitVec 5) (v : W64) (pc : Nat) : Prop :=
  (t.pipe k j).pc = pc ∧ t.gpr k j gd = (if gd = 0 then 0 else v) ∧ (∀ g, g ≠ gd → t.gpr k j g = u.gpr k j g) ∧
    (∀ b, b ≠ j → t.pipe k b = u.pipe k b) ∧ t.core k = { u.core k with pipes := (t.core k).pipes } ∧
    (∀ a, a ≠ k → t.core a = u.core a) ∧ t = { u with cores := t.cores, live := t.live }

/-- No word or codeword that `n` bytes at physical address `a` touch holds an error not yet met. -/
def State.noUpset (s : State) (a n : Nat) : Prop := s.wordHits a n = [] ∧ s.cwHits a n = []

/-- A read or a codeword with nothing wrong. -/
def cwGood : CwErr := ⟨[], false, 0⟩

/-- The commands of a mover's operations, each with its OP (Table 6.4). -/
def mvCmds (tile id : Nat) : List (Nat × Instr) :=
  [(1, .copy tile id), (2, .gather tile id), (3, .scatter tile id), (4, .transpose tile id), (5, .fill tile id), (6, .scrub tile id),
   (7, .migrate tile id)]

/-- Descriptor `id` of mover `t`, which core `k` posted, has not begun, and may: it is well formed and nothing of it is outstanding. -/
def State.mvTurn (s : State) (t id k : Nat) (d : MDesc) : Prop :=
  s.running = true ∧ s.mdesc t id = some d ∧ d.id = id ∧ (∃ c, d.src = .port k c) ∧ s.mvMay t d = true ∧ mvBad d.src d.raw = false ∧
    s.mvOutstanding t id = false ∧ d.phase = 0 ∧ d.pos = 0 ∧ d.buf = [] ∧ d.list = [] ∧ d.err = none

/-- The descriptor is done with no error, and beside the bytes of core buffers nothing but movers and counts changes. -/
def State.mvDone (s u : State) (t id : Nat) : Prop :=
  (∃ x, u.mdesc t id = some x ∧ x.st = .done ∧ x.err = none) ∧
    u = { s with cb := u.cb, movers := u.movers, live := u.live, hdrs := u.hdrs }

/-- The commands of a KPM's operations, each with its OP (Table 11.4). -/
def kpmCmds (tile id : Nat) : List (Nat × Instr) :=
  [(1, .kpmOpen tile id), (2, .close tile id), (3, .alloc tile id), (4, .share tile id), (5, .free tile id), (6, .privatize tile id),
   (7, .reserve tile id), (8, .accept tile id), (9, .span tile id), (10, .pin tile id), (11, .move tile id), (12, .pattern tile id)]

/-- Operation `o` is number `id` of KPM `t`, its OP is `op` and well formed, and it may take effect now. -/
def State.kTurn (s : State) (t id op : Nat) (o : KOp) : Prop :=
  s.running = true ∧ s.kop t id = some o ∧ (kpOf o.raw).op = op ∧ s.kMay t o = true ∧ s.genLive o.part o.gen = true ∧ kpBad o.raw = false

/-- The operation names the stream `k`, which is open. -/
def State.kOn (s : State) (t : Nat) (o : KOp) (k : KStream) : Prop :=
  s.kstream t o.part (kpOf o.raw).stream = some k ∧ k.closing = false

end Sys2Proof.Machine
end

