-- ==== Sys2Proof/Certificates/Slice0/Obligations.lean ====
section
/-! DEFINITION. Obligations.lean: the statements about the model, one `def Obligations.<Name> : Prop` each. A statement names the
rules of spec/ it rests on; where it rests on a choice of the model it names the log entry. A frame is written as one equation:
the next state is the state before with the named fields, and no other, replaced. -/

open Sys2Proof Sys2Proof.Machine

/-- A step takes the command at the front of the queue and answers what it does with the rest of the queue (log entry 2). -/
def Obligations.StepRunsFrontCommand : Prop :=
  ∀ (c : Instr) (rest : List Instr) (s : State), step { s with pending := c :: rest } = exec c { s with pending := rest }

/-- With no command waiting, one nanosecond of the local reference passes: the model's choice (log entry 2). The house-time counter of a
module that is up counts it (R22). While an offset is left to slew out, every 50,000th tick adds one nanosecond more or holds one back,
20 ppm, and takes it off what is left (R28); on every other tick the counter moves by one. The rest that a tick can change is named. A
module that is not up counts on its local reference alone. -/
def Obligations.IdleStepCountsANanosecond : Prop :=
  (∀ s : State, s.pending = [] → s.up = true →
    ∃ t, step s = .next t ∧ t.time.mono = s.time.mono + 1 ∧
      (s.time.slew = 0 ∨ s.time.mono % 50000 ≠ 49999 → t.time.now = s.time.now + 1 ∧ t.time.slew = s.time.slew) ∧
      (0 < s.time.slew → s.time.mono % 50000 = 49999 → t.time.now = s.time.now + 2 ∧ t.time.slew = s.time.slew - 1) ∧
      (s.time.slew < 0 → s.time.mono % 50000 = 49999 → t.time.now = s.time.now ∧ t.time.slew = s.time.slew + 1) ∧
      t.time = { s.time with now := t.time.now, mono := t.time.mono, slew := t.time.slew } ∧
      t = { s with time := t.time, live := t.live, hdrs := t.hdrs, bridges := t.bridges, tiers := t.tiers, ports := t.ports, out := t.out,
                   freeCtr := t.freeCtr, upsets := t.upsets, cwUpsets := t.cwUpsets }) ∧
  (∀ s : State, s.pending = [] → s.up = false → step s = .next { s with time := { s.time with mono := s.time.mono + 1 } })

/-- No command stops the block: each has a next state, from every state. No command reads or changes the queue of those that wait behind it. -/
def Obligations.CommandsAnswerAndKeepTheQueue : Prop :=
  (∀ (i : Instr) (s : State), ∃ t, exec i s = .next t) ∧
  (∀ (i : Instr) (s t : State), exec i s = .next t → t.pending = s.pending)

/-- Both byte memories stay in canonical form, whatever the step. -/
def Obligations.StepKeepsMemoryCanonical : Prop :=
  ∀ s t : State, s.memWf = true → step s = .next t → t.memWf = true

/-- What reset leaves, by the tables: CODE 0x01, LOCK UNLOCKED, level as the pins give it, no partition, m 16, no fatal error, every Elren
port down and enabled with module ID 0xFFFF (R29, R308, R442, Tables 14.8, 16.7, 20.6 to 20.17). Memory after reset is in canonical form:
nothing is listed. -/
def Obligations.ResetState : Prop :=
  (let s := State.reset
   s.bootWord 0x200 = 1 ∧ s.time.lock = .unlocked ∧ s.timeWord 0x218 = 0 ∧ s.powerWord 0x218 = 16 ∧ s.powerWord 0x210 = 4400 ∧
     s.gfeWord 0x210 = 64 ∧ s.sageWord 0x200 = 1 ∧ s.sageWord 0x208 = 0x3D090 ∧ s.sageWord 0x210 = 0x186A0 ∧
     (∀ e, s.elrenWord e 0x208 = 0 ∧ s.elrenWord e 0x200 = 1) ∧ s.elrenWord 0 0x318 = 0xFFFF ∧
     (∀ p, s.partWord p 0x208 = 0 ∧ s.partWord p 0x218 = 1) ∧
     (∀ p, p < 32 → s.timeWord (0x400 + 0x40 * p) = 0x0000000300000000 ∧ s.timeWord (0x410 + 0x40 * p) = 5 ∧ s.vsWord p 0x240 = 8) ∧
     (∀ t, s.storeWord t 0x210 = 0x0000025800000001) ∧ (∀ u, s.nearWord u 0x210 = 0x0001518000000001) ∧
     (∀ c, s.csqWord c 0x210 = BitVec.allOnes 64)) ∧
  (State.reset.memWf = true ∧ State.reset.regWf = true ∧ State.reset.mem = [] ∧ State.reset.cb = [] ∧ State.reset.pending = [])

/-- Fuses are one-way (R365, R395): no step unblows the seal's fuse or unrevokes a key slot, and none lowers the fused SVN. The SVN's fuses
end at 64, which the premise states and every step keeps. -/
def Obligations.StepKeepsFusesBlown : Prop :=
  ∀ s t : State, s.sec.fusedSvn ≤ 64 → step s = .next t →
    s.sec.fusedSvn ≤ t.sec.fusedSvn ∧ t.sec.fusedSvn ≤ 64 ∧ (∀ k, s.sec.revoked.getLsbD k = true → t.sec.revoked.getLsbD k = true) ∧
      (s.fmu.sealBlown = true → t.fmu.sealBlown = true)

/-- No step gives two entries in hand the same number, which the premise rules out and every step keeps so. -/
def Obligations.StepKeepsEntriesDistinct : Prop :=
  State.reset.entsDistinct = true ∧ ∀ s t : State, s.entsDistinct = true → step s = .next t → t.entsDistinct = true

/-- TIME.ROLE, TIME.SET and the lock state without a source (R23, R29, R449, Table 2.3). With no context bound a role takes effect: source
state is forgotten, lock restarts in ACQUIRING for ROOT_INTERNAL and in UNLOCKED for the other roles, and the counter runs on. While a
context is bound a write to TIME.ROLE is ignored and counted. TIME.SET acts with ROLE ROOT_INTERNAL and no context bound: in ACQUIRING it
sets the counter to any value, in LOCKED to none lower, and TIME is LOCKED; every other TIME.SET is ignored and counted. With no valid
frame or beacon for 16 µs, ACQUIRING falls back to UNLOCKED and LOCKED to HOLDOVER, but in ROOT_INTERNAL, and sooner neither does. HOLDOVER
of 1 ms, or an offset above 1 µs while a context is bound, makes TIME UNSYNCED. In all three the counter runs on, without what was left to
slew out, and the change raises TIME_LOCK. -/
def Obligations.LockStates : Prop :=
  (∀ (v : BitVec 2) (s : State), s.up = true → s.anyBound = false →
    ∃ t, exec (.timeRoleWrite v) s = .next t ∧ t.role = v.toNat ∧
      t.time = { s.time with lock := if v = 1 then .acquiring else .unlocked, depth := 0, srcHoldover := false, validRun := 0, goodRun := 0,
                             slew := 0, xValid := false, depthRaised := false, acqSet := false } ∧
      t = { s with rf := t.rf, time := t.time, live := t.live, hdrs := t.hdrs, pcie := t.pcie, out := t.out }) ∧
  (∀ (v : BitVec 2) (s : State), s.up = true → s.anyBound = true → exec (.timeRoleWrite v) s = .next (s.countErr pgTIME)) ∧
  (∀ (v : W64) (s : State), s.up = true → s.role = 1 → s.anyBound = false →
    (s.time.lock = .acquiring ∨ (s.time.lock = .locked ∧ s.time.now ≤ v)) →
    ∃ t, exec (.timeSet v) s = .next t ∧ t.time = { s.time with now := v, slew := 0, xValid := false, depth := 0, lock := .locked } ∧
      t = { s with time := t.time, live := t.live, hdrs := t.hdrs, pcie := t.pcie, out := t.out }) ∧
  (∀ (v : W64) (s : State), s.up = true →
    (s.role ≠ 1 ∨ s.anyBound = true ∨ (s.time.lock ≠ .acquiring ∧ (s.time.lock ≠ .locked ∨ v < s.time.now))) →
    exec (.timeSet v) s = .next (s.countErr pgTIME)) ∧
  (∀ s : State, s.up = true → s.role ≠ 1 → s.time.lock = .acquiring → s.time.lastValid + 16000 ≤ s.time.mono →
    ∃ t, exec .acquiringTimeout s = .next t ∧ t.time = { s.time with lock := .unlocked, slew := 0, validRun := 0 } ∧
      bitOf (t.hdr pgTIME).intStat 0 = true ∧
      t = { s with time := t.time, live := t.live, hdrs := t.hdrs, pcie := t.pcie, out := t.out }) ∧
  (∀ s : State, s.up = true → s.role ≠ 1 → s.time.lock = .locked → s.time.lastValid + 16000 ≤ s.time.mono →
    ∃ t, exec .holdoverEntry s = .next t ∧ t.time = { s.time with lock := .holdover, holdSince := s.time.mono, slew := 0, validRun := 0 } ∧
      bitOf (t.hdr pgTIME).intStat 0 = true ∧
      t = { s with time := t.time, live := t.live, hdrs := t.hdrs, pcie := t.pcie, out := t.out }) ∧
  (∀ s : State, s.role = 1 ∨ s.time.mono < s.time.lastValid + 16000 →
    exec .acquiringTimeout s = .next s ∧ exec .holdoverEntry s = .next s) ∧
  (∀ s : State, s.up = true →
    ((s.time.lock = .holdover ∧ s.time.holdSince + 1000000 ≤ s.time.mono) ∨
      ((s.time.lock = .locked ∨ s.time.lock = .acquiring ∨ s.time.lock = .holdover) ∧ s.anyBound = true ∧ 1000 < s.time.slew.natAbs)) →
    ∃ t, exec .unsyncedEntry s = .next t ∧ t.time = { s.time with lock := .unsynced, slew := 0 } ∧
      bitOf (t.hdr pgTIME).intStat 0 = true ∧
      t = { s with time := t.time, live := t.live, hdrs := t.hdrs, pcie := t.pcie, out := t.out })

/-- CADENCE frames (R25, R26, R28, R29, Table 2.3), in ROOT_CADENCE. A valid frame states house time less TIME.CADENCE_DELAY; what it is worth
and whether its sender is in holdover are kept. LOCKED, with the offset at most 1 µs or no context bound, leaves the offset to be slewed out
and moves the counter by no jump; with a greater offset and a context bound TIME is UNSYNCED, the counter unmoved. With no context bound,
the first frame in UNLOCKED, UNSYNCED or ACQUIRING sets the counter, and the sixteenth in a row in ACQUIRING makes TIME LOCKED. A frame with
another SYNC or CRC is counted as an error and breaks the row, one with VALID 0 breaks it, and a valid frame in another role is ignored.
CADENCE_OUT sends the counter with what the lock state says of it, or no frame while TIME.OUT_SEL selects the trigger.
Time beacons (R24, R26, R27). A reply is stamped with the counter, for its port's next beacon. A follower's beacon of depth 3 or less with
LOCKED set makes its depth one more and is answered on the port; where it completes no exchange, the counter does not move and LOCK
changes only from UNLOCKED, or from UNSYNCED with nothing bound, to ACQUIRING; where it completes one, half the difference and half the sum of
the four stamps are the offset and the delay, halved towards minus infinity (log entry 69), and LOCKED with the offset at most 1 µs or no
context bound slews the offset out. A beacon of depth 4 or more is no source: the first in a period with none raises TIME_DEPTH. One with
LOCKED clear says only whether its sender is in holdover. A beacon goes on every port that is up but a follower's upstream port, at once or
when its lane can send it, and with them the latest decision of each context that the module coordinates (R38). -/
def Obligations.TimeSources : Prop :=
  (∀ (f : BitVec 104) (s : State), s.up = true → s.role = 2 → bits f 103 88 = 0xA9C3 → bits f 15 0 = (frameCrc f.toNat).toNat →
    bitOf f 16 = true →
    let target : Int := (bits f 87 24 : Int) - (bits (s.rg pgTIME 0x228) 15 0 : Nat)
    let off : Int := (s.now : Int) - target
    ∃ t, exec (.cadenceFrame f) s = .next t ∧ t.time.lastValid = s.time.mono ∧ t.time.validRun = s.time.validRun + 1 ∧
      t.time.srcHoldover = bitOf f 17 ∧ t.time.depth = 0 ∧ t.time.lastOffset = off ∧
      (s.time.lock = .locked → off.natAbs ≤ 1000 ∨ s.anyBound = false →
        t.time.lock = .locked ∧ t.time.now = s.time.now ∧ t.time.slew = -off) ∧
      (s.time.lock = .locked → 1000 < off.natAbs → s.anyBound = true →
        t.time.lock = .unsynced ∧ t.time.now = s.time.now ∧ t.time.slew = 0) ∧
      (s.anyBound = false → s.time.lock = .unlocked ∨ s.time.lock = .unsynced ∨ (s.time.lock = .acquiring ∧ s.time.acqSet = false) →
        t.time.now = BitVec.ofInt 64 target ∧ t.time.slew = 0 ∧ t.time.acqSet = true ∧
          t.time.lock = (if 16 ≤ s.time.validRun + 1 then .locked else .acquiring)) ∧
      t = { s with time := t.time, live := t.live, hdrs := t.hdrs, pcie := t.pcie, out := t.out }) ∧
  (∀ (f : BitVec 104) (s : State), s.up = true → bits f 103 88 ≠ 0xA9C3 ∨ bits f 15 0 ≠ (frameCrc f.toNat).toNat →
    exec (.cadenceFrame f) s = .next ({ s with time := { s.time with validRun := 0 } }.countErr pgTIME)) ∧
  (∀ (f : BitVec 104) (s : State), s.up = true → bits f 103 88 = 0xA9C3 → bits f 15 0 = (frameCrc f.toNat).toNat →
    (bitOf f 16 = false → exec (.cadenceFrame f) s = .next { s with time := { s.time with validRun := 0 } }) ∧
    (bitOf f 16 = true → s.role ≠ 2 → exec (.cadenceFrame f) s = .next s)) ∧
  (∀ s : State, s.up = true → bitOf (s.rg pgTIME 0x230) 0 = false →
    exec .cadenceOutFrame s = .next { s with
      time := { s.time with outTrig := false },
      out := s.out ++ [.cadence (cadenceWord s.time.now (s.time.lock == .locked || s.time.lock == .holdover)
        (s.time.lock == .holdover || s.time.srcHoldover))] }) ∧
  (∀ s : State, s.up = true → bitOf (s.rg pgTIME 0x230) 0 = true →
    exec .cadenceOutFrame s = .next { s with time := { s.time with outTrig := true } }) ∧
  (∀ (e : Nat) (m : Msg32) (s : State), s.up = true → s.portUp e = true → byteFld m 6 1 = 0x21 →
    exec (.timeReply e m) s = .next { s with time := { s.time with t4 := Tbl.set s.time.t4 e s.time.now } }) ∧
  (∀ (e : Nat) (m : Msg32) (s : State), s.up = true → s.role = 0 → e = s.upstream → s.portUp e = true → byteFld m 6 1 = 0x20 →
    byteFld m 4 1 ≤ 3 → bitOf m 40 = true →
    ∃ u : State, exec (.timeBeaconReceive e m) s =
        .next (u.sendLane3 e (timeMsg 0x21 u.moduleId u.time.depth u.holdsTime u.saysHoldover u.time.now 0)) ∧
      u.time.depth = byteFld m 4 1 + 1 ∧ u.time.lastValid = s.time.mono ∧ u.time.srcHoldover = bitOf m 41 ∧
      u.time.x1 = BitVec.ofNat 64 (byteFld m 8 8) ∧ u.time.x2 = u.time.now ∧ u.time.x3 = u.time.now ∧ u.time.xValid = true ∧
      (s.time.xValid = false ∨ byteFld m 16 8 = 0 →
        u.time.now = s.time.now ∧ u.time.lastOffset = s.time.lastOffset ∧ u.time.lastDelay = s.time.lastDelay ∧
          u.time.lock = (if s.time.lock = .unlocked ∨ (s.time.lock = .unsynced ∧ s.anyBound = false) then .acquiring else s.time.lock)) ∧
      (s.time.xValid = true → byteFld m 16 8 ≠ 0 →
        let fwd : Int := (s.time.x2.toNat : Int) - s.time.x1.toNat
        let back : Int := (byteFld m 16 8 : Int) - s.time.x3.toNat
        u.time.lastOffset = (fwd - back) / 2 ∧ u.time.lastDelay = (fwd + back) / 2 ∧
          (s.time.lock = .locked → ((fwd - back) / 2).natAbs ≤ 1000 ∨ s.anyBound = false →
            u.time.lock = .locked ∧ u.time.now = s.time.now ∧ u.time.slew = -((fwd - back) / 2))) ∧
      u = { s with time := u.time, live := u.live, hdrs := u.hdrs, pcie := u.pcie, out := u.out }) ∧
  (∀ (e : Nat) (m : Msg32) (s : State), s.up = true → s.role = 0 → e = s.upstream → s.portUp e = true → byteFld m 6 1 = 0x20 →
    4 ≤ byteFld m 4 1 →
    ∃ t, exec (.timeBeaconReceive e m) s = .next t ∧ t.time.srcHoldover = bitOf m 41 ∧ t.time.now = s.time.now ∧
      t.time.lock = s.time.lock ∧ t.time.lastValid = s.time.lastValid ∧
      (s.noSource = true → s.time.depthRaised = false → bitOf (t.hdr pgTIME).intStat 1 = true ∧ t.time.depthRaised = true) ∧
      (s.noSource = false ∨ s.time.depthRaised = true → t = { s with time := { s.time with srcHoldover := bitOf m 41 } })) ∧
  (∀ (e : Nat) (m : Msg32) (s : State), s.up = true → s.role = 0 → e = s.upstream → s.portUp e = true → byteFld m 6 1 = 0x20 →
    byteFld m 4 1 ≤ 3 → bitOf m 40 = false →
    exec (.timeBeaconReceive e m) s = .next { s with time := { s.time with srcHoldover := bitOf m 41 } }) ∧
  (∀ s : State, s.up = true →
    let beacon := fun (e : Nat) => timeMsg 0x20 s.moduleId s.time.depth s.holdsTime s.saysHoldover s.time.now (Tbl.get 0 s.time.t4 e)
    ∃ t, exec .timeBeaconSend s = .next t ∧ (∃ l, t.out = s.out ++ l) ∧
      (∀ e, e < 16 → s.portUp e = true → ¬ (s.role = 0 ∧ e = s.upstream) →
        Msg.lane3 e (beacon e) ∈ t.out ∨ ∃ x ∈ (t.port e).lane 3, x.msg = some (.lane3 e (beacon e))) ∧
      (∀ e p d, e < 16 → s.portUp e = true → ¬ (s.role = 0 ∧ e = s.upstream) → s.isCoord p = true → (s.coord p).last = some d →
        Msg.job p (decisionMsg (s.jobId p) s.moduleId d) ∈ t.out) ∧
      t = { s with ports := t.ports, out := t.out, live := t.live, hdrs := t.hdrs, freeCtr := t.freeCtr })

/-- BIND, UNBIND and the unbinding's effect (R29, R30, R40, R450). With its values in the ranges of R30, an unbound context becomes bound
afresh at step 0, COORD_LOST cleared and LAST_EDGE kept; with one out of range nothing is bound and an error is counted; a context that is
bound or unbinding ignores BIND. UNBIND marks a bound context; of one that is not bound it changes nothing. A marked context leaves its job
once no launch of it is undecided, and not before; COORD_LOST and LAST_EDGE stay, and with no context bound an UNSYNCED module that has a
source passes to ACQUIRING. -/
def Obligations.BindAndUnbind : Prop :=
  (∀ (p : Nat) (s : State), s.up = true → p < 32 → (s.ctx p).bound = false → (s.ctx p).unbinding = false → s.bindOk p = true →
    ∃ t, exec (.bind p) s = .next t ∧ (t.ctx p).bound = true ∧ (t.ctx p).unbinding = false ∧ (t.ctx p).cur = 0 ∧ (t.ctx p).nextStep = 0 ∧
      (t.ctx p).attempt = 0 ∧ (t.ctx p).running = false ∧ (t.ctx p).pend = none ∧ (t.ctx p).staged = [] ∧ (t.ctx p).coordLost = false ∧
      (t.ctx p).lastEdge = (s.ctx p).lastEdge ∧ (t.coord p).step = 0 ∧ (t.coord p).open_ = false ∧
      (∀ q, q ≠ p → t.ctx q = s.ctx q ∧ t.coord q = s.coord q) ∧ t = { s with ctxs := t.ctxs, coords := t.coords }) ∧
  (∀ (p : Nat) (s : State), s.up = true → p < 32 → (s.ctx p).bound = false → (s.ctx p).unbinding = false →
    (s.maxRepeat p = 0 ∨ s.marginNs p < 2000 ∨ 1000000 < s.marginNs p) → exec (.bind p) s = .next (s.countErr pgTIME)) ∧
  (∀ (p : Nat) (s : State), (s.ctx p).bound = true ∨ (s.ctx p).unbinding = true → exec (.bind p) s = .next s) ∧
  (∀ (p : Nat) (s : State), s.up = true → p < 32 → (s.ctx p).bound = true → (s.ctx p).unbinding = false →
    ∃ t, exec (.unbind p) s = .next t ∧ t.ctx p = { s.ctx p with unbinding := true } ∧ (∀ q, q ≠ p → t.ctx q = s.ctx q) ∧
      t = { s with ctxs := t.ctxs }) ∧
  (∀ (p : Nat) (s : State), (s.ctx p).bound = false → exec (.unbind p) s = .next s) ∧
  (∀ (p : Nat) (s : State), s.up = true → (s.ctx p).unbinding = true → s.liveLaunch p = false →
    ∃ t, exec (.unbindEffect p) s = .next t ∧ (t.ctx p).bound = false ∧ (t.ctx p).unbinding = false ∧
      (t.ctx p).coordLost = (s.ctx p).coordLost ∧ (t.ctx p).lastEdge = (s.ctx p).lastEdge ∧ t.time.now = s.time.now ∧
      (∀ q, q ≠ p → t.ctx q = s.ctx q ∧ t.coord q = s.coord q) ∧
      t.time.lock = (if s.time.lock = .unsynced ∧ t.anyBound = false ∧ s.role ≠ 1 ∧ s.sourceLost = false then .acquiring else s.time.lock) ∧
      t = { s with ctxs := t.ctxs, coords := t.coords, time := t.time, live := t.live, hdrs := t.hdrs, pcie := t.pcie, out := t.out }) ∧
  (∀ (p : Nat) (s : State), s.liveLaunch p = true ∨ (s.ctx p).unbinding = false → exec (.unbindEffect p) s = .next s)

/-- An attempt starts at its slot's start (R33, R46, R48, R100): the launch runs, START stays that of the first attempt, and each sequencer
of the launch's clusters that has not begun the step ahead begins it, at the head of its streams in the launch's bucket; one that has goes on.
Then the partition's fold engines send what they may, and triggers that the step raised running ahead are asked for. Before the slot's start,
with a decision pending, with an attempt running, or with no slot known, nothing starts. -/
def Obligations.AttemptStartsAtItsSlot : Prop :=
  (∀ (p : Nat) (s : State) (e : Entry) (q : Plan) (at_ : Nat), s.slotOf p = some (e, q, at_) → s.running = true → (s.ctx p).bound = true →
    (s.ctx p).coordLost = false → (s.ctx p).frozen = false → (s.ctx p).running = false → (s.ctx p).pend = none → at_ ≤ s.now →
    (s.ctx p).rejoinAt.toNat ≤ at_ →
    ∃ u : State, exec (.attemptStart p) s = .next ((u.foldPumpAll p).askHeld p) ∧ (u.ctx p).running = true ∧
      (u.ctx p).slotStart = some (BitVec.ofNat 64 at_) ∧ (u.ctx p).attempt = (s.ctx p).attempt ∧ (u.ctx p).cur = (s.ctx p).cur ∧
      (∀ x, x ∈ u.ents → x.uid = e.uid → x.st = .running ∧ x.start = (s.ctx p).firstStart.getD (BitVec.ofNat 64 at_)) ∧
      (∀ k, k ∈ s.launchClusters p q → (s.seq k).begun = false →
        (u.seq k).begun = true ∧ (u.seq k).placing = true ∧ (u.seq k).nextOff = 0 ∧ (u.seq k).bucket = e.bucket ∧ (u.seq k).runAheadDepth = 0) ∧
      (∀ k, (s.seq k).begun = true → u.seq k = s.seq k) ∧
      u = { s with ctxs := u.ctxs, ents := u.ents, cores := u.cores, seqs := u.seqs }) ∧
  (∀ (p : Nat) (s : State) (e : Entry) (q : Plan) (at_ : Nat), s.slotOf p = some (e, q, at_) →
    s.now < at_ ∨ (s.ctx p).pend.isSome = true ∨ (s.ctx p).running = true → exec (.attemptStart p) s = .next s) ∧
  (∀ (p : Nat) (s : State), s.slotOf p = none → exec (.attemptStart p) s = .next s)

/-- Status beacons (R34, R35). A participant in an attempt sends READY with cause 0 where its streams are exhausted, every engine of the
partition has retired the step and no layer is being widened; else WORKING, with cause WIDEN while a layer is widened and cause EXPERT while
an expert overruns. With its attempt failed, its partition frozen, COORD_LOST, a decision pending, or TIME UNLOCKED or UNSYNCED it sends
none. A coordinator with a slot open holds of each participant the latest beacon of its current step and attempt, WORKING or READY, with the
generation that the first showed; one of another step or attempt leaves it as it was. Decision messages (R32, R38, R40). A commit, repeat or
abandon of the context's coordinator for the step at hand, and for this attempt or a later one, waits for its edge, and each is acted on once;
an OPEN announces the slot, and a launch of the step whose plan disagrees with it completes with SLOT. One of another module is ignored, and
so is every decision in COORDINATOR_LOST. A commit that comes after its edge is counted and applied on receipt. -/
def Obligations.BeaconsAndDecisions : Prop :=
  (∀ (p : Nat) (s : State), s.running = true → (s.ctx p).bound = true → (s.ctx p).running = true →
    (s.ctx p).coordLost = false → (s.ctx p).frozen = false → (s.ctx p).pend = none → (s.stepLaunch p (s.ctx p).cur).isSome = true →
    (s.ctx p).fails.any (fun f => f.1 == (s.ctx p).cur) = false → s.time.lock ≠ .unlocked → s.time.lock ≠ .unsynced →
    let ready := s.streamsDone p (s.ctx p).cur && s.stepRetired p (s.ctx p).cur && !(s.ctx p).rewinds
    ∃ t, exec (.statusBeaconSend p ready) s = .next t ∧
      t.out = s.out ++ [.job p (statusMsg (s.jobId p) s.moduleId p (s.part p).gen ready
        (if (s.ctx p).rewinds then 2 else if s.txuExpert p then 1 else 0) (s.ctx p).cur (s.ctx p).attempt s.time.now)] ∧
      t = { s with out := t.out, ctxs := t.ctxs, coords := t.coords }) ∧
  (∀ (p : Nat) (ready : Bool) (s : State), (s.ctx p).running = false ∨ (s.ctx p).coordLost = true ∨ (s.ctx p).frozen = true ∨ (s.ctx p).pend.isSome = true ∨
    (s.ctx p).fails.any (fun f => f.1 == (s.ctx p).cur) = true ∨ s.time.lock = .unlocked ∨ s.time.lock = .unsynced →
    exec (.statusBeaconSend p ready) s = .next s) ∧
  (∀ (p : Nat) (m : Msg32) (s : State), s.up = true → s.coordOf (byteFld m 0 2) = some p → byteFld m 6 1 = 1 ∨ byteFld m 6 1 = 2 →
    (s.coord p).open_ = true → byteFld m 8 8 = (s.coord p).step → byteFld m 16 1 = (s.coord p).attempt →
    let same := fun (b : Beacon) => b.module == BitVec.ofNat 16 (byteFld m 2 2) && b.part == byteFld m 4 1
    let gen : Byte := BitVec.ofNat 8 (byteFld m 5 1)
    let new := fun (first : Byte) => (⟨BitVec.ofNat 16 (byteFld m 2 2), byteFld m 4 1, gen, first, byteFld m 6 1 == 2,
      if byteFld m 6 1 == 2 then 0 else byteFld m 7 1, BitVec.ofNat 64 (byteFld m 24 8)⟩ : Beacon)
    ∃ t, exec (.statusBeaconReceive m) s = .next t ∧
      ((∀ b, b ∈ (s.coord p).beacons → same b = false) → (t.coord p).beacons = (s.coord p).beacons ++ [new gen]) ∧
      (∀ b, (s.coord p).beacons.find? same = some b →
        (t.coord p).beacons.find? same = some (if byteFld m 24 8 < b.sent.toNat then b else new b.firstGen)) ∧
      t = { s with coords := t.coords }) ∧
  (∀ (p : Nat) (m : Msg32) (s : State), s.coordOf (byteFld m 0 2) = some p →
    byteFld m 8 8 ≠ (s.coord p).step ∨ byteFld m 16 1 ≠ (s.coord p).attempt ∨ (s.coord p).open_ = false →
    exec (.statusBeaconReceive m) s = .next s) ∧
  (∀ (p : Nat) (m : Msg32) (s : State), s.up = true → s.partOf (byteFld m 0 2) = some p → byteFld m 6 1 = 0x30 →
    BitVec.ofNat 16 (byteFld m 2 2) = s.coordId p → (s.ctx p).coordLost = false → byteFld m 8 8 = (s.ctx p).cur →
    (s.ctx p).attempt ≤ byteFld m 5 1 → bits m 33 32 ≠ 0 →
    (s.ctx p).acted.contains ((decisionOf m).step, (decisionOf m).attempt, (decisionOf m).kind) = false → (s.ctx p).pend = none →
    s.now ≤ byteFld m 16 8 →
    ∃ t, exec (.decisionReceive m) s = .next t ∧ (t.ctx p).pend = some (decisionOf m) ∧
      (decisionOf m).kind = (if bits m 33 32 = 1 then .commit else if bits m 33 32 = 2 then .rpt else .abandon) ∧
      exec (.decisionReceive m) t = .next t ∧ t = { s with ctxs := t.ctxs }) ∧
  (∀ (p : Nat) (m : Msg32) (s : State), s.up = true → s.partOf (byteFld m 0 2) = some p → byteFld m 6 1 = 0x30 →
    BitVec.ofNat 16 (byteFld m 2 2) = s.coordId p → (s.ctx p).coordLost = false → byteFld m 8 8 = (s.ctx p).cur →
    (s.ctx p).attempt ≤ byteFld m 5 1 → bits m 33 32 = 0 → (s.ctx p).pend = none →
    (s.ctx p).acted.contains ((decisionOf m).step, (decisionOf m).attempt, (decisionOf m).kind) = false →
    ∃ t, exec (.decisionReceive m) s = .next t ∧ (t.ctx p).slotStart = some (decisionOf m).edge ∧
      (t.ctx p).firstStart = some (decisionOf m).edge ∧ (t.ctx p).allowUs = byteFld m 28 4 ∧ (t.ctx p).pend = none ∧
      (s.stepLaunch p (s.ctx p).cur = none → t = { s with ctxs := t.ctxs }) ∧
      (∀ e q, s.stepLaunch p (s.ctx p).cur = some e → s.planOf p e.planH = some q →
        (t.ctx p).slotClash = ((s.ctx p).slotClash || !slotAgrees (s.epoch p) q (decisionOf m).edge (byteFld m 24 4) (byteFld m 28 4)))) ∧
  (∀ (p : Nat) (m : Msg32) (s : State), s.partOf (byteFld m 0 2) = some p →
    BitVec.ofNat 16 (byteFld m 2 2) ≠ s.coordId p ∨ (s.ctx p).coordLost = true → exec (.decisionReceive m) s = .next s) ∧
  (∀ (p : Nat) (m : Msg32) (s : State), s.up = true → s.partOf (byteFld m 0 2) = some p → byteFld m 6 1 = 0x30 →
    BitVec.ofNat 16 (byteFld m 2 2) = s.coordId p → (s.ctx p).coordLost = false → byteFld m 8 8 = (s.ctx p).cur →
    (s.ctx p).attempt ≤ byteFld m 5 1 → bits m 33 32 = 1 → (s.ctx p).pend = none →
    (s.ctx p).acted.contains ((decisionOf m).step, (decisionOf m).attempt, (decisionOf m).kind) = false → byteFld m 16 8 < s.now →
    ∃ u : State, exec (.decisionReceive m) s = .next (u.commitAt p (decisionOf m)) ∧ (u.ctx p).pend = some (decisionOf m) ∧
      bits (u.stat pgTIME 0x040) 31 0 = (bits (s.stat pgTIME 0x040) 31 0 + 1) % 2 ^ 32 ∧ u = { s with ctxs := u.ctxs, live := u.live })

/-- The coordinator's decisions (R36, R37, R41, R206), for the participants that the command names and the coordinator itself. With all of
them ready and the slot's end at most one margin away it sends commit, with the edge one margin from now. With one of them not ready at the
deadline it sends repeat, with the edge one margin from now, the next slot that starts at or after it, and the doubled allowance, at most
eight slots; but abandon in the final attempt, and at contract level 1 where none is absent. The reason says whether one was absent. Before
the deadline, with one of them not ready, it sends nothing. Each decision goes out in a message and to the coordinator itself. -/
def Obligations.CoordinatorDecides : Prop :=
  (∀ (p : Nat) (ms : List (W16 × Nat)) (s : State), s.up = true → s.isCoord p = true → (s.coord p).open_ = true →
    (∀ m, m ∈ (s.moduleId, p) :: ms → s.readyAt p m = true) →
    (s.coord p).slotStart.toNat + 1000 * (s.coord p).slotUs ≤ s.now + s.marginNs p →
    let d : Decision := ⟨.commit, (s.coord p).step, (s.coord p).attempt, 0, BitVec.ofNat 64 (s.now + s.marginNs p), 0, 0⟩
    ∃ t, exec (.coordinatorDecide p ms) s = .next t ∧ (t.coord p).last = some d ∧ (t.coord p).open_ = false ∧
      t.out = s.out ++ [.job p (decisionMsg (s.jobId p) s.moduleId d)] ∧
      t = { s with out := t.out, ctxs := t.ctxs, coords := t.coords }) ∧
  (∀ (p : Nat) (ms : List (W16 × Nat)) (s : State), s.up = true → s.isCoord p = true → (s.coord p).open_ = true →
    (∃ m, m ∈ (s.moduleId, p) :: ms ∧ s.readyAt p m = false) →
    (s.gfe.level ≠ 1 ∨ ((s.moduleId, p) :: ms).any (s.absent p) = true) → (s.coord p).attempt ≠ s.maxRepeat p →
    (s.coord p).slotStart.toNat + 1000 * (s.coord p).slotUs + 1000 * (s.coord p).allowUs ≤ s.now →
    ∃ t d, exec (.coordinatorDecide p ms) s = .next t ∧ (t.coord p).last = some d ∧ d.kind = .rpt ∧ d.step = (s.coord p).step ∧
      d.attempt = (s.coord p).attempt ∧ d.edge = BitVec.ofNat 64 (s.now + s.marginNs p) ∧
      d.nextSlot = slotFrom (s.epoch p) (s.coord p).slotUs (s.now + s.marginNs p) ∧
      d.allowUs = min (2 * (s.coord p).allowUs) (8 * (s.coord p).slotUs) ∧
      d.reason = (if ((s.moduleId, p) :: ms).any (s.absent p) then 2 else 1) ∧ (t.coord p).attempt = (s.coord p).attempt + 1 ∧
      (t.coord p).beacons = [] ∧ t.out = s.out ++ [.job p (decisionMsg (s.jobId p) s.moduleId d)] ∧
      t = { s with out := t.out, ctxs := t.ctxs, coords := t.coords }) ∧
  (∀ (p : Nat) (ms : List (W16 × Nat)) (s : State), s.up = true → s.isCoord p = true → (s.coord p).open_ = true →
    (∃ m, m ∈ (s.moduleId, p) :: ms ∧ s.readyAt p m = false) →
    ((s.coord p).attempt = s.maxRepeat p ∨ (s.gfe.level = 1 ∧ ((s.moduleId, p) :: ms).any (s.absent p) = false)) →
    (s.coord p).slotStart.toNat + 1000 * (s.coord p).slotUs + 1000 * (s.coord p).allowUs ≤ s.now →
    let d : Decision := ⟨.abandon, (s.coord p).step, (s.coord p).attempt, if ((s.moduleId, p) :: ms).any (s.absent p) then 2 else 1,
      BitVec.ofNat 64 (s.now + s.marginNs p), 0, 0⟩
    ∃ t, exec (.coordinatorDecide p ms) s = .next t ∧ (t.coord p).last = some d ∧ (t.coord p).open_ = false ∧
      t.out = s.out ++ [.job p (decisionMsg (s.jobId p) s.moduleId d)] ∧
      t = { s with out := t.out, ctxs := t.ctxs, coords := t.coords }) ∧
  (∀ (p : Nat) (ms : List (W16 × Nat)) (s : State), (∃ m, m ∈ (s.moduleId, p) :: ms ∧ s.readyAt p m = false) →
    s.now < (s.coord p).slotStart.toNat + 1000 * (s.coord p).slotUs + 1000 * (s.coord p).allowUs →
    exec (.coordinatorDecide p ms) s = .next s)

/-- A commit edge (R33, R43, R217, Table 2.6, Table 20.10): once its time has come the step number advances by one, the attempt returns to
0, the context names the step as its last commit and LAST_EDGE shows the decision, no write of the step stays staged, and the step's launch
is done with outcome 1 and the edge as its end; then the sequencers, patches, statistics and the next slot's OPEN follow. A repeat edge (R38,
R46) keeps the step number, advances the attempt, takes the decision's allowance, and keeps nothing staged of the step or a later one. An
abandon edge (R42, R50) spends the step number: the next launch takes the one after it, nothing of the step stays staged, and its launch is
done with outcome 2. COORDINATOR_LOST (R40): 100 µs past the deadline without a decision the context stops in COORD_LOST, keeps nothing
staged of the step or a later one, its launch is done with outcome 2 and sub-status 5 and reports the last committed step, and the interrupt
is raised. Before its time each of them changes nothing. House time and the other contexts are as before each edge's last part. -/
def Obligations.EdgesAtTheirTime : Prop :=
  (∀ (p : Nat) (d : Decision) (s : State), s.up = true → s.sage.fatal = none → (s.ctx p).pend = some d → d.kind = .commit →
    d.edge.toNat ≤ s.now →
    ∃ u : State, exec (.commitEdge p) s = .next ((((u.seqEdge p true).applyPatches p).edgeEnd p).openIfDue p) ∧
      (u.ctx p).cur = (s.ctx p).cur + 1 ∧ (u.ctx p).attempt = 0 ∧ (u.ctx p).lastCommit = some (s.ctx p).cur ∧ (u.ctx p).pend = none ∧
      (u.ctx p).running = false ∧ (u.ctx p).lastEdge = lastEdgeWord (s.ctx p).cur d.attempt 1 d.reason ∧
      (∀ g, g ∈ (u.ctx p).staged → g.step ≠ (s.ctx p).cur) ∧ (u.coord p).step = (s.ctx p).cur + 1 ∧
      (∀ x, s.stepLaunch p (s.ctx p).cur = some x → ∀ y, y ∈ u.ents → y.uid = x.uid → y.st = .done ∧ y.outcome = 1 ∧ y.endT = d.edge) ∧
      (∀ q, q ≠ p → u.ctx q = s.ctx q) ∧ u.time.now = s.time.now) ∧
  (∀ (p : Nat) (d : Decision) (s : State), s.up = true → s.sage.fatal = none → (s.ctx p).pend = some d → d.kind = .rpt →
    d.edge.toNat ≤ s.now →
    ∃ u : State, exec (.repeatEdge p) s = .next ((u.applyPatches p).edgeEnd p) ∧
      (u.ctx p).attempt = max (s.ctx p).attempt d.attempt + 1 ∧ (u.ctx p).cur = (s.ctx p).cur ∧
      (u.ctx p).allowUs = d.allowUs ∧ (u.ctx p).pend = none ∧ (u.ctx p).running = false ∧
      (u.ctx p).lastEdge = lastEdgeWord (s.ctx p).cur d.attempt 2 d.reason ∧
      (∀ g, g ∈ (u.ctx p).staged → g.step < (s.ctx p).cur) ∧ (∀ q, q ≠ p → u.ctx q = s.ctx q) ∧ u.time.now = s.time.now) ∧
  (∀ (p : Nat) (d : Decision) (s : State), s.up = true → s.sage.fatal = none → (s.ctx p).pend = some d → d.kind = .abandon →
    d.edge.toNat ≤ s.now →
    ∃ u : State, exec (.abandonEdge p) s = .next (((u.applyPatches p).edgeEnd p).openIfDue p) ∧ (u.ctx p).cur = (s.ctx p).cur + 1 ∧
      (u.ctx p).attempt = 0 ∧ (u.ctx p).nextStep = (s.ctx p).cur + 1 ∧ (u.ctx p).pend = none ∧ (u.ctx p).running = false ∧
      (u.ctx p).lastEdge = lastEdgeWord (s.ctx p).cur d.attempt 3 d.reason ∧ (u.coord p).step = (s.ctx p).cur + 1 ∧
      (∀ g, g ∈ (u.ctx p).staged → g.step < (s.ctx p).cur) ∧
      (∀ x, s.stepLaunch p (s.ctx p).cur = some x → ∀ y, y ∈ u.ents → y.uid = x.uid → y.st = .done ∧ y.outcome = 2 ∧ y.endT = d.edge) ∧
      (∀ q, q ≠ p → u.ctx q = s.ctx q) ∧ u.time.now = s.time.now) ∧
  (∀ (p : Nat) (s : State) (e : Entry) (q : Plan) (at_ : Nat), s.slotOf p = some (e, q, at_) → s.up = true → (s.ctx p).bound = true →
    (s.ctx p).coordLost = false → (s.ctx p).pend = none → at_ + 1000 * (q.slotUs + (s.ctx p).allowUs) + 100000 ≤ s.now →
    ∃ t, exec (.coordinatorLost p) s = .next t ∧ (t.ctx p).coordLost = true ∧ (t.ctx p).running = false ∧
      (∀ g, g ∈ (t.ctx p).staged → g.step < (s.ctx p).cur) ∧
      (∀ y, y ∈ t.ents → y.uid = e.uid → y.st = .done ∧ y.outcome = 2 ∧ y.abSub = 5 ∧ y.step = (s.ctx p).lastCommit) ∧
      bitOf (t.hdr pgTIME).intStat 2 = true ∧ (∀ q, q ≠ p → t.ctx q = s.ctx q) ∧ t.time.now = s.time.now) ∧
  (∀ (p : Nat) (d : Decision) (s : State), (s.ctx p).pend = some d → s.now < d.edge.toNat →
    exec (.commitEdge p) s = .next s ∧ exec (.repeatEdge p) s = .next s ∧ exec (.abandonEdge p) s = .next s) ∧
  (∀ (p : Nat) (s : State) (e : Entry) (q : Plan) (at_ : Nat), s.slotOf p = some (e, q, at_) →
    s.now < at_ + 1000 * (q.slotUs + (s.ctx p).allowUs) + 100000 ∨ (s.ctx p).pend.isSome = true →
    exec (.coordinatorLost p) s = .next s)

/-- RECORD_PLACE (R48, R95, R100, R194, R471): the record that comes next in the launch's streams joins the queue of the engine its header
names, behind what waits there, with its step, attempt and layer; the sequencer's place in the stream moves on by 128 bytes, and where it was
to run one record it halts. The first record of a run-ahead step sets the 64 counters of every core of the cluster to zero and starts the
stream. At a breakpoint that names its operation index nothing is placed and the sequencer halts. A record that is not the next one of the
streams, or that the sequencer may not place now, leaves everything as it is. -/
def Obligations.RecordsArePlaced : Prop :=
  (∀ (k ahead : Nat) (op : W32) (r : Rec) (e : Entry) (s : State), s.seqLaunch (coreCluster k) ahead = some e →
    (s.nextRec e.part (coreCluster k) ahead).any (fun x => x.core == k && x.opidx == op && x.bits == r) = true →
    let c := coreCluster k
    let step := (s.ctx e.part).cur + ahead
    let q : QRec := ⟨r, op, step, if ahead = 0 then (s.ctx e.part).attempt else 0, layerOf (s.layersOf e.part step) op.toNat, e.uid⟩
    s.placeOk k ahead e q = true → (s.seq c).atBreak op.toNat = false →
    ∃ t, exec (.recordPlace k op r ahead) s = .next t ∧ t.queue k (recEngine r) = s.queue k (recEngine r) ++ [q] ∧
      (∀ f, f ≠ recEngine r → t.queue k f = s.queue k f) ∧
      (t.seq c).nextOff = (if (s.seq c).runAheadDepth < ahead then 0 else (s.seq c).nextOff) + 128 ∧
      (t.seq c).halted = (s.seq c).step1 ∧ (t.seq c).bucket = e.bucket ∧
      ((s.seq c).runAheadDepth < ahead → (t.seq c).runAheadDepth = ahead ∧ ∀ i, i < 4 → (t.core (4 * c + i)).dc = []) ∧
      (ahead ≤ (s.seq c).runAheadDepth → (t.core k).dc = (s.core k).dc ∧ ∀ j, j ≠ k → t.core j = s.core j) ∧
      ((s.seq c).step1 = false → t = { s with cores := t.cores, seqs := t.seqs, live := t.live, hdrs := t.hdrs })) ∧
  (∀ (k ahead : Nat) (op : W32) (r : Rec) (e : Entry) (s : State), s.seqLaunch (coreCluster k) ahead = some e →
    (s.nextRec e.part (coreCluster k) ahead).any (fun x => x.core == k && x.opidx == op && x.bits == r) = true →
    let step := (s.ctx e.part).cur + ahead
    s.placeOk k ahead e ⟨r, op, step, if ahead = 0 then (s.ctx e.part).attempt else 0, layerOf (s.layersOf e.part step) op.toNat, e.uid⟩
      = true → (s.seq (coreCluster k)).atBreak op.toNat = true →
    ∃ t, exec (.recordPlace k op r ahead) s = .next t ∧ t.seq (coreCluster k) = { s.seq (coreCluster k) with halted := true } ∧
      t.cores = s.cores) ∧
  (∀ (k ahead : Nat) (op : W32) (r : Rec) (e : Entry) (s : State), s.seqLaunch (coreCluster k) ahead = some e →
    (s.nextRec e.part (coreCluster k) ahead).any (fun x => x.core == k && x.opidx == op && x.bits == r) = false ∨
      64 ≤ s.engineHeld k (recEngine r) ∨ (s.ctx e.part).running = false ∨ (s.seq (coreCluster k)).halted = true →
    exec (.recordPlace k op r ahead) s = .next s) ∧
  (∀ (k ahead : Nat) (op : W32) (r : Rec) (s : State), s.seqLaunch (coreCluster k) ahead = none →
    exec (.recordPlace k op r ahead) s = .next s)

/-- RECORD_RETIRE (R97, R99, R118, R218): a record whose writes are complete leaves its engine: the head of an engine's queue first, and at
the port any. Without an error each of its two enabled signals adds its increment to the counter that it names, to 0xFFFF at most, where that
counter's core is of the same partition; no other counter changes. A record of a discarded attempt signals nothing. One that ended with an
error signals nothing and fails its step's attempt. A record that is not done, or not the head of an engine other than the port, stays. -/
def Obligations.RecordsRetire : Prop :=
  (∀ (k e idx : Nat) (x : ExRec) (s : State), (e = 7 ∨ idx = 0) → (s.execs k e)[idx]? = some x → s.running = true → x.done = true →
    x.stale = false → x.err = none →
    let sig := fun (w inc c n d : Nat) =>
      if w.testBit 15 = true ∧ s.coreOwner (nbits w 12 6) = s.coreOwner k ∧ c = nbits w 12 6 ∧ n = w % 64 then min (d + inc) 0xFFFF else d
    ∃ t, exec (.recordRetire k e idx) s = .next t ∧ t.execs k e = (s.execs k e).eraseIdx idx ∧
      (∀ c n, t.dc c n = sig (recSig1 x.q.bits) (recSig1Inc x.q.bits) c n (sig (recSig0 x.q.bits) (recSig0Inc x.q.bits) c n (s.dc c n))) ∧
      t = { s with cores := t.cores, live := t.live, hdrs := t.hdrs, engProg := t.engProg }) ∧
  (∀ (k e idx : Nat) (x : ExRec) (s : State), (e = 7 ∨ idx = 0) → (s.execs k e)[idx]? = some x → s.running = true → x.done = true →
    x.stale = true →
    ∃ t, exec (.recordRetire k e idx) s = .next t ∧ t.execs k e = (s.execs k e).eraseIdx idx ∧ (∀ c n, t.dc c n = s.dc c n) ∧
      t = { s with cores := t.cores, live := t.live, hdrs := t.hdrs, engProg := t.engProg }) ∧
  (∀ (k e idx : Nat) (x : ExRec) (er : Err) (s : State), (e = 7 ∨ idx = 0) → (s.execs k e)[idx]? = some x → s.running = true →
    x.done = true → x.stale = false → x.err = some er →
    ∃ t, exec (.recordRetire k e idx) s = .next t ∧ t.execs k e = (s.execs k e).eraseIdx idx ∧ (∀ c n, t.dc c n = s.dc c n) ∧
      (t.ctx ((s.coreOwner k).getD 0)).fails.any (fun f => f.1 == x.q.step) = true) ∧
  (∀ (k e idx : Nat) (s : State), e ≠ 7 → idx ≠ 0 → exec (.recordRetire k e idx) s = .next s) ∧
  (∀ (k e idx : Nat) (x : ExRec) (s : State), (s.execs k e)[idx]? = some x → x.done = false → exec (.recordRetire k e idx) s = .next s)

/-- NOP, MM and SC_RUN records (R75, R89, R97, R98, R115): the head of an engine's queue starts once its waits are met and leaves the queue.
A NOP is done at once, whatever its predicate. An MM waits for its tile: with KEEP it uses the one held, else its load is queued, where the
loader holds fewer than 16; the tile held and the sums stay. A scalar pipe starts at its program's address with its four arguments in g1 to g4;
an address that is not of the store ends the record with RUNTIME. A record whose predicate word is zero is done with no effect. While the
head's waits are not met nothing changes. -/
def Obligations.RecordsStart : Prop :=
  (∀ (k e : Nat) (q : QRec) (s : State), s.ready k e = some q → recOpcode q.bits = 0x00 →
    (s.predOf k q.bits).1 = .run ∨ (s.predOf k q.bits).1 = .skip →
    ∃ t, exec (.nop k e) s = .next t ∧ t.queue k e = (s.queue k e).drop 1 ∧ t.execs k e = s.execs k e ++ [⟨q, true, none, none, false⟩] ∧
      t.cb = s.cb ∧ t = { s with cores := t.cores, live := t.live, upsets := t.upsets }) ∧
  (∀ (k a : Nat) (q : QRec) (s : State), a < 4 → s.ready k a = some q → recOpcode q.bits = 0x10 → (s.predOf k q.bits).1 = .run →
    bitOf q.bits 688 = true ∨ (s.arr k a).loadq < 16 →
    ∃ t, exec (.mm k a) s = .next t ∧ t.queue k a = (s.queue k a).drop 1 ∧ t.execs k a = s.execs k a ++ [⟨q, false, none, none, false⟩] ∧
      t.arr k a = { s.arr k a with ops := (s.arr k a).ops ++ [⟨q, 0, if bitOf q.bits 688 then .active else .queued⟩] } ∧
      t = { s with cores := t.cores, live := t.live, upsets := t.upsets }) ∧
  (∀ (k a : Nat) (q : QRec) (s : State), s.ready k a = some q → bitOf q.bits 688 = false → 16 ≤ (s.arr k a).loadq →
    exec (.mm k a) s = .next s) ∧
  (∀ (k j : Nat) (q : QRec) (s : State), j < 2 → s.ready k (5 + j) = some q → recOpcode q.bits = 0x30 → (s.predOf k q.bits).1 = .run →
    aoSpace (byteFld q.bits 16 8) = 1 →
    ∃ t, exec (.scRun k j) s = .next t ∧ t.queue k (5 + j) = (s.queue k (5 + j)).drop 1 ∧
      t.execs k (5 + j) = s.execs k (5 + j) ++ [⟨q, false, none, none, false⟩] ∧ (t.pipe k j).running = true ∧
      (t.pipe k j).pc = aoAddr (byteFld q.bits 16 8) ∧ t.gpr k j 0 = 0 ∧
      t.gpr k j 1 = BitVec.ofNat 64 (byteFld q.bits 24 8) ∧ t.gpr k j 2 = BitVec.ofNat 64 (byteFld q.bits 32 8) ∧
      t.gpr k j 3 = BitVec.ofNat 64 (byteFld q.bits 40 8) ∧ t.gpr k j 4 = BitVec.ofNat 64 (byteFld q.bits 48 8) ∧
      t = { s with cores := t.cores, live := t.live, upsets := t.upsets }) ∧
  (∀ (k j : Nat) (q : QRec) (s : State), j < 2 → s.ready k (5 + j) = some q → recOpcode q.bits = 0x30 → (s.predOf k q.bits).1 = .run →
    aoSpace (byteFld q.bits 16 8) ≠ 1 →
    ∃ t, exec (.scRun k j) s = .next t ∧ (t.pipe k j).running = false ∧
      t.execs k (5 + j) = s.execs k (5 + j) ++ [⟨q, true, some errRuntime, none, false⟩]) ∧
  (∀ (k a : Nat) (q : QRec) (s : State), a < 4 → s.ready k a = some q → recOpcode q.bits = 0x10 → (s.predOf k q.bits).1 = .skip →
    bitOf q.bits 688 = true ∨ (s.arr k a).loadq < 16 →
    ∃ t, exec (.mm k a) s = .next t ∧ t.execs k a = s.execs k a ++ [⟨q, true, none, none, false⟩] ∧ t.arr k a = s.arr k a ∧
      t = { s with cores := t.cores, live := t.live, upsets := t.upsets }) ∧
  (∀ (k e : Nat) (s : State), s.ready k e = none →
    exec (.nop k e) s = .next s ∧ exec (.mm k e) s = .next s ∧ (5 ≤ e → exec (.scRun k (e - 5)) s = .next s))

/-- The arrays (R77, R80 to R83, R85, R89, R90, R92, R289 to R291). The oldest queued load lands where the landing buffer has room for its tile, which is
decoded once the shadow plane is free; a load that meets an error ends its operation. A vector without an error moves its operation on by
one, and the last ends it; one that meets an error ends it. An operation with ACC INIT and the edge accumulators leaves in them the drained
column sums, rounded to FP32 with saturation. A parity error fetches the tile again, and a second one in the same load ends the operation
with UNCORRECTABLE_MEMORY. While the vector unit has nothing to issue, the oldest sample is checked: it leaves the queue and is counted as
agreeing, disagreeing with a numeric event, or skipped where its tile cannot be read. A column sum with finite operands is that of the
products' contributions, kept within 48 bits of two's complement, and the result says whether it had to be. -/
def Obligations.ArrayRecords : Prop :=
  (∀ (k a : Nat) (r : MmRun) (tl : Tile) (u s : State), s.running = true → (s.arr k a).refetch = false →
    (s.arr k a).ops.find? (fun x => x.load == .queued) = some r → (s.arr k a).landing + (mmOf r.q.bits).tileBytes ≤ 131072 →
    s.fetchTile false (s.accOf k r.q) r.q.bits = (.ok tl, u) →
    ∃ t, exec (.tileLoad k a) s = .next t ∧ t.arr k a = ((u.arr k a).landed r.q tl).decode ∧
      t = { u with cores := t.cores, hdrs := t.hdrs, engProg := t.engProg }) ∧
  (∀ (k a : Nat) (r : MmRun) (f : Flt) (u s : State), s.running = true → (s.arr k a).refetch = false →
    (s.arr k a).ops.find? (fun x => x.load == .queued) = some r → (s.arr k a).landing + (mmOf r.q.bits).tileBytes ≤ 131072 →
    s.fetchTile false (s.accOf k r.q) r.q.bits = (.error f, u) → exec (.tileLoad k a) s = .next (u.endMm k a r.q (some f))) ∧
  (∀ (k a : Nat) (r : MmRun) (s : State), (s.arr k a).refetch = false → (s.arr k a).ops.find? (fun x => x.load == .queued) = some r →
    131072 < (s.arr k a).landing + (mmOf r.q.bits).tileBytes → exec (.tileLoad k a) s = .next s) ∧
  (∀ (k a : Nat) (r : MmRun) (l : List MmRun) (s : State), s.running = true → (s.arr k a).refetch = false →
    (s.arr k a).swap.ops = r :: l → r.load = .active →
    let s0 := s.modArr k a ArrSt.swap
    let v := s0.runVector k a r (((s.arr k a).swap.active).getD ⟨(mmOf r.q.bits).statFmt, 0, 0, [], [], 0⟩)
    (∀ f, v.1 = some f → exec (.streamedVector k a false) s = .next (v.2.endMm k a r.q (some f))) ∧
    (v.1 = none → r.next + 1 = (mmOf r.q.bits).nvec → exec (.streamedVector k a false) s = .next (v.2.endMm k a r.q none)) ∧
    (v.1 = none → r.next + 1 ≠ (mmOf r.q.bits).nvec →
      ∃ t, exec (.streamedVector k a false) s = .next t ∧
        (t.arr k a).ops = (match (v.2.arr k a).ops with | y :: x => { y with next := y.next + 1 } :: x | [] => []) ∧
        t = { v.2 with cores := t.cores })) ∧
  (∀ (k a : Nat) (r : MmRun) (l : List MmRun) (tl : Tile) (b : Bytes) (xs : List FVal) (u s : State), s.running = true →
    (s.arr k a).refetch = false → (s.arr k a).swap.ops = r :: l → r.load = .active → (s.arr k a).swap.active = some tl →
    s.staleRec k a r.q = false → (mmOf r.q.bits).cbuf = false → (mmOf r.q.bits).accum = false →
    (s.modArr k a ArrSt.swap).streamed ((s.modArr k a ArrSt.swap).accOf k r.q) (mmOf r.q.bits) tl r.next = (.ok (b, xs), u) →
    ∃ t, exec (.streamedVector k a false) s = .next t ∧ ∀ n, n < 128 →
      let c := columnSum (statS tl.fmt) (4 + (mmOf r.q.bits).whead) (tl.column xs.length n) xs
      Tbl.get 0 (t.arr k a).acc n = BitVec.ofNat 32 (enc32 (sat32 (c.v, c.ev)).1)) ∧
  (∀ (k a : Nat) (r : MmRun) (l : List MmRun) (s : State), s.running = true → (s.arr k a).refetch = false →
    (s.arr k a).swap.ops = r :: l → r.load = .active →
    ((s.arr k a).swap.replayed = false →
      ∃ t, exec (.streamedVector k a true) s = .next t ∧ t.arr k a = { (s.arr k a).swap with refetch := true, replayed := true } ∧
        t = { s with cores := t.cores, live := t.live }) ∧
    ((s.arr k a).swap.replayed = true →
      exec (.streamedVector k a true) s = .next ((s.modArr k a ArrSt.swap).endMm k a r.q (some ⟨errUncorr, 0⟩)))) ∧
  (∀ (k : Nat) (x : ShadowEnt) (rest : List ShadowEnt) (s : State), s.running = true → s.vecBusy k = false →
    (s.core k).shadowQ = x :: rest →
    let p := (s.coreOwner k).getD 0
    let g := (s.modCore k fun c => { c with shadowQ := rest }).fetchTile true
      ⟨p, Tbl.get 0 s.gfe.activeCtx p, some x.step, coreTile k, k, false⟩ x.src
    (∀ f, g.1 = .error f → exec (.shadowCheck k) s = .next (g.2.bump (pk tVEC k) 0x080 1)) ∧
    (∀ tl, g.1 = .ok tl → (∀ c, c ∈ x.check tl → c.agree = true) → exec (.shadowCheck k) s = .next (g.2.bump (pk tVEC k) 0x070 1)) ∧
    (∀ tl, g.1 = .ok tl → (∃ c, c ∈ x.check tl ∧ c.agree = false) →
      ∃ n d, exec (.shadowCheck k) s = .next ((g.2.bump (pk tVEC k) 0x078 1).numEvent p
          ⟨x.step, x.attempt, 6, 0, x.layer, x.opidx.toNat, arrayId k x.arr, n, d⟩) ∧
        ∃ c, (x.check tl)[n]? = some c ∧ c.agree = false ∧ d = enc32 c.diff)) ∧
  (∀ (st h : Nat) (ws xs : List FVal) (ea : Int), specials ws xs = none → alignE xs = some ea →
     let emax := emaxOf st ws
     let l0 : Int := 47 - h - (16 + st)
     let w : Int := ((ws.zip xs).map fun p => contrib l0 emax st ea p.1 p.2).foldl (· + ·) 0
     ∃ (n : Bool) (m : Nat) (e : Int), (columnSum st h ws xs).v = .fin n m e ∧ e = ea + emax - ((st : Int) - 1) - 15 - l0 ∧
       m ≤ 2 ^ 47 ∧ ((columnSum st h ws xs).ovf = false ↔ (-(2 ^ 47 : Int) ≤ w ∧ w < 2 ^ 47)) ∧
       ((columnSum st h ws xs).ovf = false → (if n then -(m : Int) else m) = w))

/-- Vector records (R98, R102, R105 to R110, Tables 5.4 and 5.6): the head of the vector engine's queue, its waits met and its predicate read
as one, leaves the queue and runs row by row, each row by the function that its opcode and SUB name; the record is then done, with the first
error that a row met. A SUB that names no function, and a k outside 1 to 16, end the record with RUNTIME: the model's choice (log entry 74). A
VEC_ELT row of FP32 elements in the core buffer, with no error stored there, writes to DST the function of each element of A, B and C. VEC_SAMPLE
(R112) writes to DST the accepted drafts and the sampled token that follows them, and the count word to DST2. Top-k (R108) keeps k values,
no NaN among them, none below the next; the accepted drafts are the longest prefix that the sampled tokens repeat. -/
def Obligations.VectorRecords : Prop :=
  (∀ (k : Nat) (q : QRec) (s : State), s.ready k 4 = some q → (s.predOf k q.bits).1 = .run →
     let v := vecOf q.bits
     let u := ((s.start k 4 ⟨q, false, none, none, false⟩).predOf k q.bits).2
     let a := u.accOf k q
     let ends := fun (op : Nat) (b : Option Flt × State) (t : State) =>
       t.queue k 4 = (s.queue k 4).drop 1 ∧ t.execs k 4 = s.execs k 4 ++ [⟨q, true, b.1.map (·.err), none, false⟩] ∧
         t = { (match b.1 with | some f => b.2.coreFault k f.addr op 4 | none => b.2) with cores := t.cores }
     (recOpcode q.bits = 0x20 → v.sub ≤ 0x0A → ∃ t, exec (.vecElt k) s = .next t ∧ ends 0x20
       (u.eachRow a q (if eltPacked v then 0x048 else 0x040) fun r s => s.eltRow (s.accOf k q) v r) t) ∧
     (recOpcode q.bits = 0x20 → 0x0A < v.sub → ∃ t, exec (.vecElt k) s = .next t ∧ ends 0x20 (some ⟨errRuntime, 0⟩, u) t) ∧
     (recOpcode q.bits = 0x21 → v.sub ≤ 4 → ∃ t, exec (.vecFn k) s = .next t ∧ ends 0x21
       (u.eachRow a q 0x050 fun r s => s.fnRow (s.accOf k q) v r) t) ∧
     (recOpcode q.bits = 0x21 → 4 < v.sub → ∃ t, exec (.vecFn k) s = .next t ∧ ends 0x21 (some ⟨errRuntime, 0⟩, u) t) ∧
     (recOpcode q.bits = 0x22 → v.sub ≤ 3 → ∃ t, exec (.vecRed k) s = .next t ∧ ends 0x22
       (u.eachRow a q (if v.sub = 3 then 0x050 else 0x040) fun r s => s.redRowAt (s.accOf k q) v r) t) ∧
     (recOpcode q.bits = 0x22 → 3 < v.sub → ∃ t, exec (.vecRed k) s = .next t ∧ ends 0x22 (some ⟨errRuntime, 0⟩, u) t) ∧
     (recOpcode q.bits = 0x23 → 1 ≤ v.imm1 → v.imm1 ≤ 16 → ∃ t, exec (.vecTopk k) s = .next t ∧ ends 0x23
       (u.eachRow a q 0x040 fun r s => s.topkRow (s.accOf k q) v r) t) ∧
     (recOpcode q.bits = 0x23 → v.imm1 = 0 ∨ 16 < v.imm1 → ∃ t, exec (.vecTopk k) s = .next t ∧ ends 0x23 (some ⟨errRuntime, 0⟩, u) t) ∧
     (recOpcode q.bits = 0x24 → v.sub ≤ 1 → ∃ t, exec (.vecRand k) s = .next t ∧ ends 0x24
       (u.eachRow a q 0 fun r s => s.randRow (s.accOf k q) v r) t) ∧
     (recOpcode q.bits = 0x24 → 1 < v.sub → ∃ t, exec (.vecRand k) s = .next t ∧ ends 0x24 (some ⟨errRuntime, 0⟩, u) t) ∧
     (recOpcode q.bits = 0x25 → ∃ t, exec (.vecConv k) s = .next t ∧ ends 0x25
       (u.eachRow a q 0x040 fun r s => s.convRowAt (s.accOf k q) v r) t) ∧
     (recOpcode q.bits = 0x26 → ∃ t, exec (.vecResadd k) s = .next t ∧ ends 0x26
       (u.eachRow a q 0x040 fun r s => s.resaddRow (s.accOf k q) v r) t)) ∧
  (∀ (k : Nat) (q : QRec) (s : State), s.ready k 4 = some q → recPred q.bits = false → recOpcode q.bits = 0x20 → s.upsets = [] →
     let v := vecOf q.bits
     v.sub ≤ 0x0A → v.fmtA = 0 → v.fmtB = 0 → v.fmtC = 0 → v.conv = 0 → v.rows = 1 → 1 ≤ v.len →
     (∀ ao, ao ∈ [v.srcA, v.srcB, v.srcC, v.dst] → aoSpace ao = 2 ∧ aoAddr ao + 4 * v.len ≤ 2 ^ 23) →
     ∃ t, exec (.vecElt k) s = .next t ∧ t.execs k 4 = s.execs k 4 ++ [⟨q, true, none, none, false⟩] ∧
       (∀ i, i < v.len →
         let x := fun (ao : Nat) => fp32.decode (ofLe (s.cbRead k (aoAddr ao + 4 * i) 4))
         t.cbRead k (aoAddr v.dst + 4 * i) 4 = leBytes 4
           (enc32 (eltFn v.sub (fp32.decode v.imm0) (fp32.decode v.imm1) (x v.srcA) (x v.srcB) (x v.srcC)).1)) ∧
       (∀ c o, c ≠ k ∨ o < aoAddr v.dst ∨ aoAddr v.dst + 4 * v.len ≤ o → o < 2 ^ 23 → t.cbRead c o 1 = s.cbRead c o 1)) ∧
  (∀ (k : Nat) (q : QRec) (s u2 u3 u4 u5 : State) (cb : Bytes) (rows : List (List FVal × List Nat)), s.ready k 4 = some q →
    (s.predOf k q.bits).1 = .run → recOpcode q.bits = 0x27 →
    let v := vecOf q.bits
    let u := ((s.start k 4 ⟨q, false, none, none, false⟩).predOf k q.bits).2
    let a := u.accOf k q
    let c := sampleCtxOf cb
    u.vread a v.srcC 0 96 = (.ok cb, u2) → c.d ≤ 16 → 1 ≤ v.len → u2.sampleRows a v (c.d + 1) = (.ok rows, u3) →
    let ys := rows.zipIdx.map fun x => sampleRow c a.part x.2 x.1.1 x.1.2
    let n := accepted (ys.map (·.1)) (c.draft.take c.d)
    let toks := c.draft.take n ++ ((ys[n]?).map (·.1)).toList
    (u3.vecEvents k (evsOf ys)).writeOp a v.dst 0 (toks.flatMap (leBytes 4)) = (none, u4) →
    u4.writeOp a v.dst2 0 (leBytes 4 (packNat [⟨4, 0, toks.length⟩, ⟨12, 8, n⟩])) = (none, u5) →
    ∃ t, exec (.vecSample k) s = .next t ∧ t.execs k 4 = s.execs k 4 ++ [⟨q, true, none, none, false⟩] ∧
      t = { u5 with cores := t.cores, live := t.live, hdrs := t.hdrs }) ∧
  (∀ (k : Nat) (l : List (FVal × Nat)), (topK k l).length = k ∧ (∀ x, x ∈ topK k l → x.1.isNan = false) ∧
    (∀ i x y, (topK k l)[i]? = some x → (topK k l)[i + 1]? = some y → fltTotal x.1 y.1 = false)) ∧
  (∀ (ys ds : List Nat), ys.take (accepted ys ds) = ds.take (accepted ys ds) ∧
    (∀ y d, ys[accepted ys ds]? = some y → ds[accepted ys ds]? = some d → y ≠ d))

/-- Port records and token records (R98, R103, R113, R133, R135, R227, R238, R261): a PORT_MOVER, PORT_KPM or PORT_TXU record at the head of
the port's queue, its waits met and its predicate read as one, with fewer than 64 records at the port and room at the unit, posts its inline
descriptor there and waits for its completion; the mover of the core's tile has room below 1,024 descriptors, the KPM that the descriptor
names below 8,192 operations, and the cluster's TXU always. Without room the record stays queued and nothing changes. PORT_EMIT with its
context, count and tokens in the core buffer, no error stored there, gives the emit gate one held record for each token of the count, token i
at POS + i, and is done; where the count exceeds the drafts by more than one it ends with RUNTIME. -/
def Obligations.PortRecordsPost : Prop :=
  (∀ (k port : Nat) (q : QRec) (s : State) (r : (Nat × Nat) × State), s.ready k 7 = some q → (s.execs k 7).length < 64 →
    (s.predOf k q.bits).1 = .run → port < 3 → recOpcode q.bits = 0x40 + port → s.post port k none q (portDesc q.bits) = some r →
    ∃ t, exec (if port = 0 then .portMover k else if port = 1 then .portKpm k else .portTxu k) s = .next t ∧
      t.queue k 7 = (s.queue k 7).drop 1 ∧ t.execs k 7 = s.execs k 7 ++ [⟨q, false, none, some r.1, false⟩] ∧
      t = { r.2 with cores := t.cores, live := t.live, hdrs := t.hdrs, engProg := t.engProg, upsets := t.upsets }) ∧
  (∀ (k : Nat) (q : QRec) (s : State), (s.mover (coreTile k)).descs.length < 1024 →
    let a := s.accOf k q
    ∃ t, s.post 0 k none q (portDesc q.bits) = some ((coreTile k, (s.mover (coreTile k)).nextId), t) ∧
      t.mover (coreTile k) = { s.mover (coreTile k) with
        nextId := (s.mover (coreTile k)).nextId + 1,
        descs := (s.mover (coreTile k)).descs ++ [MDesc.new (s.mover (coreTile k)).nextId (.port k none) a.part a.ctx (s.part a.part).gen q.step
          q.attempt q.layer (BitVec.ofNat 512 (bits q.bits 639 128))] } ∧
      t = { s with movers := t.movers }) ∧
  (∀ (k : Nat) (q : QRec) (s : State), (s.kpm (bits q.bits 146 144)).ops.length < 8192 →
    let a := s.accOf k q
    let h := bits q.bits 146 144
    ∃ t, s.post 1 k none q (portDesc q.bits) = some ((64 + h, (s.kpm h).nextId), t) ∧
      t.kpm h = { s.kpm h with
        nextId := (s.kpm h).nextId + 1,
        ops := (s.kpm h).ops ++ [⟨(s.kpm h).nextId, .port k none, k, a.part, a.ctx, (s.part a.part).gen, q.step, q.attempt, q.layer,
          BitVec.ofNat 512 (bits q.bits 639 128), .accepted, none, false, [], false⟩] } ∧
      t = { s with kpms := t.kpms }) ∧
  (∀ (k : Nat) (q : QRec) (s : State),
    let a := s.accOf k q
    let c := coreCluster k
    ∃ t, s.post 2 k none q (portDesc q.bits) = some ((128 + c, (s.txu c).nextId), t) ∧
      t.txu c = { s.txu c with
        nextId := (s.txu c).nextId + 1,
        ops := (s.txu c).ops ++ [⟨(s.txu c).nextId, k, none, a.part, (s.part a.part).gen, q.step, q.attempt, q.layer,
          BitVec.ofNat 512 (bits q.bits 639 128), .accepted, 0, 0⟩] } ∧
      t = { s with txus := t.txus }) ∧
  (∀ (k : Nat) (q : QRec) (s : State), s.ready k 7 = some q → (s.predOf k q.bits).1 = .run →
    (1024 ≤ (s.mover (coreTile k)).descs.length → exec (.portMover k) s = .next s) ∧
    (8192 ≤ (s.kpm (bits q.bits 146 144)).ops.length → exec (.portKpm k) s = .next s)) ∧
  (∀ (k : Nat) (q : QRec) (s : State), s.ready k 7 = some q → (s.execs k 7).length < 64 → recPred q.bits = false → recOpcode q.bits = 0x43 →
    s.upsets = [] →
    let ctx := byteFld q.bits 16 8
    let tok := byteFld q.bits 24 8
    let cnt := byteFld q.bits 32 8
    let cb := s.cbRead k (aoAddr ctx) 96
    let nb := ofLe (s.cbRead k (aoAddr cnt) 4)
    let f := fun (o n : Nat) => ofLe ((cb.drop o).take n)
    aoSpace ctx = 2 → aoAddr ctx + 96 ≤ 2 ^ 23 → aoSpace cnt = 2 → aoAddr cnt + 4 ≤ 2 ^ 23 →
    aoSpace tok = 2 → aoAddr tok + 4 * (nb % 32) ≤ 2 ^ 23 →
    (nb % 32 ≤ f 18 1 + 1 → (s.accOf k q).stale = false →
      ∃ t, exec (.portEmit k) s = .next t ∧ t.execs k 7 = s.execs k 7 ++ [⟨q, true, none, none, false⟩] ∧
        t.emit.held = s.emit.held ++ (List.range (nb % 32)).map (fun i =>
          ⟨(s.accOf k q).part, q.uid, q.step, q.opidx.toNat, tokenRec (f 8 4) (f 12 6 + i) (s.accOf k q).part (decide (i < nbits nb 12 8))
            (ofLe (s.cbRead k (aoAddr tok + 4 * i) 4)) q.step⟩) ∧
        t = { s with cores := t.cores, live := t.live, hdrs := t.hdrs, engProg := t.engProg, emit := { s.emit with held := t.emit.held } }) ∧
    (f 18 1 + 1 < nb % 32 →
      ∃ t, exec (.portEmit k) s = .next t ∧ t.execs k 7 = s.execs k 7 ++ [⟨q, true, some errRuntime, none, false⟩] ∧ t.emit = s.emit))

/-- The scalar ALU (Table 5.10, R115): gd takes the function of ga and gb, g0 stays zero, the pipe goes to the next instruction, and nothing
else but counts changes. A shift by 64 or more leaves a value of gd that nothing states (log entry 5): the statement holds for every one. An
undefined FN ends the record with RUNTIME. The immediate forms and RDSYS (Table 5.10): gd takes ga plus, and, or, exclusive-or the
sign-extended immediate; SHLI16 shifts ga left by 16 and puts the immediate, zero-extended, into the low bits; RDSYS reads house time, the
step, the attempt, the partition and the core ID, and for another immediate ends the record with RUNTIME, the model's choice (log entry 21). -/
def Obligations.ScalarArithmetic : Prop :=
  (∀ (k j : Nat) (fn : BitVec 11) (gd ga gb : BitVec 5) (v : W64) (u s : State), s.issues k j useR (wordR 0x00 gd ga gb fn) u →
    ¬(5 ≤ fn.toNat ∧ fn.toNat ≤ 7 ∧ 64 ≤ (u.gpr k j gb).toNat) → aluFn fn.toNat (u.gpr k j ga) (u.gpr k j gb) 0 = some v →
    ∃ t, exec (.alu k j fn gd ga gb) s = .next t ∧ GprSet u t k j gd v ((u.pipe k j).pc + 4)) ∧
  (∀ (k j : Nat) (fn : BitVec 11) (gd ga gb : BitVec 5) (u s : State), s.issues k j useR (wordR 0x00 gd ga gb fn) u →
    5 ≤ fn.toNat → fn.toNat ≤ 7 → 64 ≤ (u.gpr k j gb).toNat →
    ∃ t v, exec (.alu k j fn gd ga gb) s = .next t ∧ GprSet { u with freeCtr := u.freeCtr + 1 } t k j gd v ((u.pipe k j).pc + 4)) ∧
  (∀ (k j : Nat) (fn : BitVec 11) (gd ga gb : BitVec 5) (u s : State), s.issues k j useR (wordR 0x00 gd ga gb fn) u → 0x10 ≤ fn.toNat →
    exec (.alu k j fn gd ga gb) s = .next (u.scFail k j ⟨errRuntime, (u.pipe k j).pc⟩)) ∧
  (∀ a b f : W64, aluFn 0x000 a b f = some (a + b) ∧ aluFn 0x001 a b f = some (a - b) ∧ aluFn 0x002 a b f = some (a &&& b) ∧
    aluFn 0x003 a b f = some (a ||| b) ∧ aluFn 0x004 a b f = some (a ^^^ b) ∧ aluFn 0x008 a b f = some (a * b) ∧
    aluFn 0x009 a b f = some (((a.zeroExtend 128 * b.zeroExtend 128) >>> 64).truncate 64) ∧
    (b.toNat < 64 → aluFn 0x005 a b f = some (a <<< b.toNat) ∧ aluFn 0x006 a b f = some (a >>> b.toNat) ∧
      aluFn 0x007 a b f = some (BitVec.ofInt 64 (a.toInt / 2 ^ b.toNat))) ∧
    aluFn 0x00A a b f = some (BitVec.ofInt 64 (min a.toInt b.toInt)) ∧ aluFn 0x00B a b f = some (BitVec.ofInt 64 (max a.toInt b.toInt)) ∧
    aluFn 0x00C a b f = some (BitVec.ofNat 64 (min a.toNat b.toNat)) ∧ aluFn 0x00D a b f = some (BitVec.ofNat 64 (max a.toNat b.toNat)) ∧
    aluFn 0x00E a b f = some (if a.toInt < b.toInt then 1 else 0) ∧ aluFn 0x00F a b f = some (if a.toNat < b.toNat then 1 else 0)) ∧
  (∀ (k j : Nat) (gd ga : BitVec 5) (imm : W16) (u s : State),
    (s.issues k j useR (wordI 0x01 gd ga imm) u →
      ∃ t, exec (.addi k j gd ga imm) s = .next t ∧ GprSet u t k j gd (u.gpr k j ga + imm.signExtend 64) ((u.pipe k j).pc + 4)) ∧
    (s.issues k j useR (wordI 0x02 gd ga imm) u →
      ∃ t, exec (.andi k j gd ga imm) s = .next t ∧ GprSet u t k j gd (u.gpr k j ga &&& imm.signExtend 64) ((u.pipe k j).pc + 4)) ∧
    (s.issues k j useR (wordI 0x03 gd ga imm) u →
      ∃ t, exec (.ori k j gd ga imm) s = .next t ∧ GprSet u t k j gd (u.gpr k j ga ||| imm.signExtend 64) ((u.pipe k j).pc + 4)) ∧
    (s.issues k j useR (wordI 0x04 gd ga imm) u →
      ∃ t, exec (.xori k j gd ga imm) s = .next t ∧ GprSet u t k j gd (u.gpr k j ga ^^^ imm.signExtend 64) ((u.pipe k j).pc + 4)) ∧
    (s.issues k j useR (wordI 0x05 gd ga imm) u →
      ∃ t, exec (.shli16 k j gd ga imm) s = .next t ∧
        GprSet u t k j gd ((u.gpr k j ga <<< 16) ||| imm.zeroExtend 64) ((u.pipe k j).pc + 4))) ∧
  (∀ (k j : Nat) (gd : BitVec 5) (imm : W16) (u s : State), s.issues k j useDI (wordI 0x1F gd 0 imm) u → imm.toNat ≤ 4 →
    ∃ t, exec (.rdsys k j gd imm) s = .next t ∧ GprSet u t k j gd (BitVec.ofNat 64 (match imm.toNat with
      | 0 => u.time.now.toNat
      | 1 => (match u.scRec k j with | some r => r.step | none => 0)
      | 2 => (match u.scRec k j with | some r => r.attempt | none => 0)
      | 3 => (u.scAcc k j).part
      | _ => k)) ((u.pipe k j).pc + 4)) ∧
  (∀ (k j : Nat) (gd : BitVec 5) (imm : W16) (u s : State), s.issues k j useDI (wordI 0x1F gd 0 imm) u → 4 < imm.toNat →
    exec (.rdsys k j gd imm) s = .next (u.scFail k j ⟨errRuntime, (u.pipe k j).pc⟩))

/-- A pipe that waits, is halted or does not run, and one whose program holds another word, changes nothing; at a breakpoint the pipe halts
before the instruction (R471); a fetch that gives no instruction ends the record with its error, which for a pc not aligned to 4 and for a
word that is no instruction is RUNTIME (R115). -/
def Obligations.ScalarIssue : Prop :=
  (∀ (k j use w : Nat) (f : State → State) (s : State), s.scReady k j = false → s.scCmd k j use w f = .next s) ∧
  (∀ (k j use w : Nat) (f : State → State) (s : State), s.scReady k j = true → (s.pipe k j).atBreak = true →
    ∃ t, s.scCmd k j use w f = .next t ∧ t.pipe k j = { s.pipe k j with halted := true } ∧ (∀ a, a ≠ k → t.core a = s.core a) ∧
      t.core k = { s.core k with pipes := (t.core k).pipes } ∧ (∀ b, b ≠ j → t.pipe k b = s.pipe k b) ∧ t.mem = s.mem ∧ t.cb = s.cb) ∧
  (∀ (k j use w x : Nat) (f : State → State) (u s : State), s.scReady k j = true → (s.pipe k j).atBreak = false →
    s.scFetch k j = (.ok x, u) → x &&& use ≠ w &&& use → s.scCmd k j use w f = .next s) ∧
  (∀ (k j use w : Nat) (e : Flt) (f : State → State) (u s : State), s.scReady k j = true → (s.pipe k j).atBreak = false →
    s.scFetch k j = (.error e, u) →
    ∃ t, s.scCmd k j use w f = .next t ∧ (t.pipe k j).running = false ∧ (t.pipe k j).pc = (u.pipe k j).pc ∧
      t.execs k (5 + j) = (u.execs k (5 + j)).dropLast ++ ((u.execs k (5 + j)).getLast?.map fun x => { x with done := true, err := some e.err }).toList ∧
      t = { u with cores := t.cores }) ∧
  (∀ (k j : Nat) (s : State), (s.pipe k j).pc % 4 ≠ 0 → (s.scFetch k j).1 = .error ⟨errRuntime, (s.pipe k j).pc⟩) ∧
  (∀ (k j : Nat) (b : Bytes) (r : RdRes) (u s : State), (s.pipe k j).pc % 4 = 0 →
    s.readVa .store true (s.scAcc k j) (s.pipe k j).pc 4 = (r, u) → r.use (s.pipe k j).pc = .ok b →
    s.scFetch k j = (if opDefined (ofLe b / 2 ^ 26 % 64) then .ok (ofLe b) else .error ⟨errRuntime, (s.pipe k j).pc⟩, u)) ∧
  (∀ op : Nat, opDefined op = true ↔ op ∈ [0x00, 0x01, 0x02, 0x03, 0x04, 0x05, 0x08, 0x09, 0x0A, 0x0B, 0x0C, 0x0D, 0x0E, 0x0F, 0x10, 0x14, 0x15,
    0x16, 0x17, 0x18, 0x19, 0x1C, 0x1D, 0x1E, 0x1F, 0x20, 0x3F])

/-- Loads and stores of the store (R115, R117, R130, R187): a load of 8 or 4 bytes puts what its read answers, zero-extended, into gd; a store
writes the low 8 or 4 bytes of gd where translation puts them; a failed access ends the record with its error. Where the address's leaf is
another module's store, a request goes to its port: the pipe then waits for a load's answer, and goes on after a store with one more
acknowledgement outstanding; with no port that reaches the module the record ends with LINK_PEER_LOST. Loads and stores of the core buffer
(R116): 8 or 4 bytes at ga plus the immediate, little-endian; a load zero-extends; a store changes those bytes of the buffer and no other;
an offset beyond 8 MiB is RUNTIME and a word that cannot be corrected UNCORRECTABLE_MEMORY. The operand `ec` strikes the first word before
the read (log entry 72). -/
def Obligations.ScalarMemoryAccess : Prop :=
  (∀ (k j : Nat) (gd ga : BitVec 5) (imm : W16) (ec : MemErr) (n : Nat) (u s : State),
    let a := u.scAcc k j
    let va := u.ea k j ga imm
    let r := (match u.lookupFor .store a.part a.ctx va false with | .ok _ pa => u.strike (.store (pa / 8) ec) | .bad _ => u).readVa .store true
      a va n
    let i : Instr := if n = 8 then .ld k j gd ga imm ec else .ldw k j gd ga imm ec
    (n = 8 ∧ s.issues k j useR (wordI 0x08 gd ga imm) u) ∨ (n = 4 ∧ s.issues k j useR (wordI 0x09 gd ga imm) u) →
    u.remoteLeaf a va false = none →
    (∀ b, r.1.use va = .ok b → ∃ t, exec i s = .next t ∧ GprSet r.2 t k j gd (BitVec.ofNat 64 (ofLe b)) ((r.2.pipe k j).pc + 4)) ∧
    (∀ e, r.1.use va = .error e → exec i s = .next (r.2.scFail k j e))) ∧
  (∀ (k j : Nat) (gd ga : BitVec 5) (imm : W16) (n : Nat) (u s : State),
    let a := u.scAcc k j
    let va := u.ea k j ga imm
    let r := u.writeVa .store true a va (leBytes n (u.gpr k j gd).toNat)
    let i : Instr := if n = 8 then .st k j gd ga imm else .stw k j gd ga imm
    (n = 8 ∧ s.issues k j useR (wordI 0x0A gd ga imm) u) ∨ (n = 4 ∧ s.issues k j useR (wordI 0x0B gd ga imm) u) →
    u.remoteLeaf a va true = none →
    (r.1 = none → ∃ t, exec i s = .next t ∧ PcTo r.2 t k j ((r.2.pipe k j).pc + 4)) ∧
    (∀ e, r.1 = some e → exec i s = .next (r.2.scFail k j e))) ∧
  (∀ (k j : Nat) (gd ga : BitVec 5) (imm : W16) (ec : MemErr) (n : Nat) (l : Leaf) (h : Nat) (u u2 s : State),
    let i : Instr := if n = 8 then .ld k j gd ga imm ec else .ldw k j gd ga imm ec
    (n = 8 ∧ s.issues k j useR (wordI 0x08 gd ga imm) u) ∨ (n = 4 ∧ s.issues k j useR (wordI 0x09 gd ga imm) u) →
    u.remoteLeaf (u.scAcc k j) (u.ea k j ga imm) false = some (l, h) →
    (u.request (.port k none) j true (n == 4) (u.pipe k j).prog (u.scAcc k j).part l.module (.read h n) = (.sent, u2) →
      ∃ t, exec i s = .next t ∧ (t.pipe k j).wait = .remote ∧ (t.pipe k j).dest = gd.toNat ∧ (t.pipe k j).remote = (u2.pipe k j).remote + 1 ∧
        PcTo u2 t k j ((u2.pipe k j).pc + 4)) ∧
    (∀ e, u.request (.port k none) j true (n == 4) (u.pipe k j).prog (u.scAcc k j).part l.module (.read h n) = (.lost e, u2) →
      exec i s = .next (u2.scFail k j ⟨e, u.ea k j ga imm⟩))) ∧
  (∀ (k j : Nat) (gd ga : BitVec 5) (imm : W16) (n : Nat) (l : Leaf) (h : Nat) (u u2 s : State),
    let i : Instr := if n = 8 then .st k j gd ga imm else .stw k j gd ga imm
    (n = 8 ∧ s.issues k j useR (wordI 0x0A gd ga imm) u) ∨ (n = 4 ∧ s.issues k j useR (wordI 0x0B gd ga imm) u) →
    u.remoteLeaf (u.scAcc k j) (u.ea k j ga imm) true = some (l, h) →
    u.request (.port k none) j false false (u.pipe k j).prog (u.scAcc k j).part l.module (.write h (leBytes n (u.gpr k j gd).toNat) [])
      = (.sent, u2) →
    ∃ t, exec i s = .next t ∧ (t.pipe k j).wait = (u2.pipe k j).wait ∧ (t.pipe k j).remote = (u2.pipe k j).remote + 1 ∧
      PcTo u2 t k j ((u2.pipe k j).pc + 4)) ∧
  (∀ (k j : Nat) (gd ga : BitVec 5) (imm : W16) (ec : MemErr) (n : Nat) (u s : State),
    let o := u.ea k j ga imm
    let g := (u.strike (.core k (o / 8) ec)).cbGet k o n
    let i : Instr := if n = 8 then .cld k j gd ga imm ec else .cldw k j gd ga imm ec
    (n = 8 ∧ s.issues k j useR (wordI 0x0C gd ga imm) u) ∨ (n = 4 ∧ s.issues k j useR (wordI 0x0D gd ga imm) u) →
    (o + n ≤ 2 ^ 23 → g.1.2 = [] →
      ∃ t, exec i s = .next t ∧ GprSet g.2 t k j gd (BitVec.ofNat 64 (ofLe (u.cbRead k o n))) ((u.pipe k j).pc + 4)) ∧
    (o + n ≤ 2 ^ 23 → g.1.2 ≠ [] → exec i s = .next (g.2.scFail k j ⟨errUncorr, o⟩)) ∧
    (2 ^ 23 < o + n → exec i s = .next (u.scFail k j ⟨errRuntime, o⟩))) ∧
  (∀ (k j : Nat) (gd ga : BitVec 5) (imm : W16) (n : Nat) (u s : State), Memory.wf u.cb = true →
    let o := u.ea k j ga imm
    let b := leBytes n (u.gpr k j gd).toNat
    let i : Instr := if n = 8 then .cst k j gd ga imm else .cstw k j gd ga imm
    (n = 8 ∧ s.issues k j useR (wordI 0x0E gd ga imm) u) ∨ (n = 4 ∧ s.issues k j useR (wordI 0x0F gd ga imm) u) →
    (o + n ≤ 2 ^ 23 → ∃ t, exec i s = .next t ∧ t.cbRead k o n = b ∧
      (∀ x, x < cbKey k o ∨ cbKey k o + n ≤ x → Memory.read1 t.cb x = Memory.read1 u.cb x) ∧
      PcTo (u.cbWrite k o b) t k j ((u.pipe k j).pc + 4)) ∧
    (2 ^ 23 < o + n → exec i s = .next (u.scFail k j ⟨errRuntime, o⟩)))

/-- ATOM (R183 to R186, R188, Tables 8.4, 8.5): at core scope on the core buffer, and at the other scopes on the store, gd takes the old word
and the word takes the operation's result; a compare-and-exchange that does not match writes nothing; an acquire of cluster scope or wider
then empties the core's read cache. At fabric scope another module's word is asked for from there, and the pipe waits for the answer. A
release at fabric scope waits for the pipe's remote writes. A misaligned address and a reserved operation are RUNTIME. WAITC passes once the
counter is at least ga and stays while it is below. SIGC adds ga to the counter that gb names, in a core of the same partition only. POST
gives the unit that gb names the 64 B at ga. FENCE's fabric release waits for the pipe's remote writes, and its acquire empties the read cache.
HALT ends the program, and its record is done once no remote store is outstanding. RC_FLUSH empties the read cache. How SIGC and POST encode
the counter and the unit is the model's reading (log entry 21), and a program of a discarded attempt signals and posts nothing (log entry 31). -/
def Obligations.ScalarAtomicsAndWaits : Prop :=
  (∀ (k j : Nat) (fn : BitVec 11) (gd ga gb : BitVec 5) (new : Option Nat) (ovf : Nat) (u s : State),
    s.issues k j useR (wordR 0x10 gd ga gb fn) u → atomScope fn.toNat = 0 →
    let n := atomW fn.toNat
    let a := (u.gpr k j ga).toNat
    let old := ofLe (u.cbRead k a (n / 8))
    let g := u.cbGet k a (n / 8)
    let u1 := match new with | some v => g.2.cbWrite k a (leBytes (n / 8) v) | none => g.2
    a % (n / 8) = 0 → a + n / 8 ≤ 2 ^ 23 → g.1.2 = [] →
    atomNew (fn.toNat % 16) n old ((u.gpr k j gb).toNat % 2 ^ n) ((u.gpr k j gd).toNat % 2 ^ n) = some (new, ovf) →
    ∃ t, exec (.atom k j fn gd ga gb) s = .next t ∧ GprSet u1 t k j gd (BitVec.ofNat 64 old) ((u.pipe k j).pc + 4)) ∧
  (∀ (k j : Nat) (fn : BitVec 11) (gd ga gb : BitVec 5) (l : Leaf) (pa : Nat) (new : Option Nat) (ovf : Nat) (r : RdRes) (ob : Bytes)
    (u u2 u3 s : State), s.issues k j useR (wordR 0x10 gd ga gb fn) u → atomScope fn.toNat ≠ 0 →
    (atomScope fn.toNat = 3 → atomRel fn.toNat = true → (u.pipe k j).remote = 0) →
    let n := atomW fn.toNat
    let a := (u.gpr k j ga).toNat
    a % (n / 8) = 0 → u.remoteLeaf (u.scAcc k j) a true = none →
    u.lookupFor .store (u.scAcc k j).part (u.scAcc k j).ctx a true = .ok l pa →
    u.readVa .store false (u.scAcc k j) a (n / 8) = (r, u2) → r.use a = .ok ob →
    atomNew (fn.toNat % 16) n (ofLe ob) ((u.gpr k j gb).toNat % 2 ^ n) ((u.gpr k j gd).toNat % 2 ^ n) = some (new, ovf) →
    (match new with
      | some v => (u2.bump (pk tSTORE (sliceOf pa)) 0x078 1).writeVa .store true (u.scAcc k j) a (leBytes (n / 8) v) = (none, u3)
      | none => u2 = u3) →
    ∃ t, exec (.atom k j fn gd ga gb) s = .next t ∧
      GprSet (if atomAcq fn.toNat then u3.acquire k else u3) t k j gd (BitVec.ofNat 64 (ofLe ob)) ((u3.pipe k j).pc + 4)) ∧
  (∀ (k j : Nat) (fn : BitVec 11) (gd ga gb : BitVec 5) (l : Leaf) (h : Nat) (u u2 s : State),
    s.issues k j useR (wordR 0x10 gd ga gb fn) u → atomScope fn.toNat = 3 → (atomRel fn.toNat = true → (u.pipe k j).remote = 0) →
    (u.gpr k j ga).toNat % (atomW fn.toNat / 8) = 0 → (atomNew (fn.toNat % 16) (atomW fn.toNat) 0 0 0).isSome = true →
    u.remoteLeaf (u.scAcc k j) (u.gpr k j ga).toNat true = some (l, h) →
    u.request (.port k none) j true (atomW fn.toNat == 32) (u.pipe k j).prog (u.scAcc k j).part l.module
      (.atom h fn (u.gpr k j gb) (u.gpr k j gd)) = (.sent, u2) →
    ∃ t, exec (.atom k j fn gd ga gb) s = .next t ∧ (t.pipe k j).wait = .remote ∧ (t.pipe k j).dest = gd.toNat ∧
      (t.pipe k j).remote = (u2.pipe k j).remote + 1 ∧ PcTo u2 t k j ((u2.pipe k j).pc + 4)) ∧
  (∀ (k j : Nat) (fn : BitVec 11) (gd ga gb : BitVec 5) (u s : State), s.issues k j useR (wordR 0x10 gd ga gb fn) u →
    (u.gpr k j ga).toNat % (atomW fn.toNat / 8) = 0 → (atomNew (fn.toNat % 16) (atomW fn.toNat) 0 0 0).isSome = true →
    atomScope fn.toNat = 3 → atomRel fn.toNat = true → (u.pipe k j).remote ≠ 0 → exec (.atom k j fn gd ga gb) s = .next u) ∧
  (∀ (k j : Nat) (fn : BitVec 11) (gd ga gb : BitVec 5) (u s : State), s.issues k j useR (wordR 0x10 gd ga gb fn) u →
    (u.gpr k j ga).toNat % (atomW fn.toNat / 8) ≠ 0 ∨ 12 ≤ fn.toNat % 16 ∨ (10 ≤ fn.toNat % 16 ∧ atomW fn.toNat = 64) →
    exec (.atom k j fn gd ga gb) s = .next (u.scFail k j ⟨errRuntime, (u.pipe k j).pc⟩)) ∧
  (∀ n old b cmp : Nat, atomNew 0x0 n old b cmp = some (some ((old + b) % 2 ^ n), 0) ∧ atomNew 0x1 n old b cmp = some (some (old &&& b), 0) ∧
    atomNew 0x2 n old b cmp = some (some (old ||| b), 0) ∧ atomNew 0x3 n old b cmp = some (some (old ^^^ b), 0) ∧
    atomNew 0x6 n old b cmp = some (some (min old b), 0) ∧ atomNew 0x7 n old b cmp = some (some (max old b), 0) ∧
    atomNew 0x8 n old b cmp = some (some b, 0) ∧ (old = cmp → atomNew 0x9 n old b cmp = some (some b, 0)) ∧
    (old ≠ cmp → atomNew 0x9 n old b cmp = some (none, 0)) ∧ atomNew 0xA 64 old b cmp = none ∧ atomNew 0xB 64 old b cmp = none) ∧
  (∀ a b : BitVec 32, atomNew 0x4 32 a.toNat b.toNat 0 = some (some (if b.toInt < a.toInt then b else a).toNat, 0) ∧
    atomNew 0x5 32 a.toNat b.toNat 0 = some (some (if a.toInt < b.toInt then b else a).toNat, 0)) ∧
  (∀ (k j : Nat) (ga : BitVec 5) (imm : W16) (u s : State), s.issues k j useAI (wordI 0x1C 0 ga imm) u →
    ((u.gpr k j ga).toNat ≤ u.dc k (imm.toNat % 64) → ∃ t, exec (.waitc k j ga imm) s = .next t ∧
      PcTo (if (u.core k).dcWide.contains (imm.toNat % 64) then u.acquire k else u) t k j ((u.pipe k j).pc + 4)) ∧
    (u.dc k (imm.toNat % 64) < (u.gpr k j ga).toNat → exec (.waitc k j ga imm) s = .next u)) ∧
  (∀ (k j : Nat) (ga gb : BitVec 5) (u s : State), s.issues k j useAB (wordR 0x1D 0 ga gb 0) u → (u.scAcc k j).stale = false →
    let c := nbits (u.gpr k j gb).toNat 12 6
    let n := (u.gpr k j gb).toNat % 64
    (u.coreOwner c = u.coreOwner k → ∃ t, exec (.sigc k j ga gb) s = .next t ∧
      (∀ a b, t.dc a b = if a = c ∧ b = n then min (u.dc a b + (u.gpr k j ga).toNat) 0xFFFF else u.dc a b) ∧
      PcTo (u.addDc c n (u.gpr k j ga).toNat (c != k)) t k j ((u.pipe k j).pc + 4)) ∧
    (u.coreOwner c ≠ u.coreOwner k → exec (.sigc k j ga gb) s = .next (u.scFail k j ⟨errRuntime, (u.pipe k j).pc⟩))) ∧
  (∀ (k j : Nat) (gd ga gb : BitVec 5) (q : QRec) (r : (Nat × Nat) × State) (u s : State), s.issues k j useNoFn (wordR 0x1E gd ga gb 0) u →
    (u.gpr k j ga).toNat + 64 ≤ 2 ^ 23 → (u.gpr k j gb).toNat ≤ 2 → u.scRec k j = some q → (u.scAcc k j).stale = false →
    let g := u.cbGet k (u.gpr k j ga).toNat 64
    g.1.2 = [] → g.2.post (u.gpr k j gb).toNat k (some ((u.gpr k j gd).toNat % 256)) q (BitVec.ofNat 512 (ofLe g.1.1)) = some r →
    ∃ t, exec (.post k j gd ga gb) s = .next t ∧ (t.pipe k j).pc = (r.2.pipe k j).pc + 4 ∧ (∀ x, t.gpr k j x = r.2.gpr k j x) ∧
      t = { r.2 with cores := t.cores, live := t.live, hdrs := t.hdrs, engProg := t.engProg }) ∧
  (∀ (k j : Nat) (imm : W16) (u s : State), s.issues k j useI (wordI 0x20 0 0 imm) u →
    (bits imm 1 0 ≠ 0 → (bits imm 1 0 = 2 ∨ bits imm 3 2 ≠ 3 ∨ (u.pipe k j).remote = 0) →
      ∃ t, exec (.fence k j imm) s = .next t ∧
        PcTo (if bits imm 1 0 ≠ 1 ∧ bits imm 3 2 ≠ 0 then u.acquire k else u) t k j ((u.pipe k j).pc + 4)) ∧
    (bits imm 0 0 = 1 → bits imm 3 2 = 3 → (u.pipe k j).remote ≠ 0 → exec (.fence k j imm) s = .next u)) ∧
  (∀ (k j : Nat) (u s : State), s.issues k j useOp (wordI 0x3F 0 0 0) u →
    ∃ t, exec (.halt k j) s = .next t ∧ (t.pipe k j).running = false ∧ (∀ g, t.gpr k j g = u.gpr k j g) ∧
      t.execs k (5 + j) = (if (u.pipe k j).remote = 0 then
        (u.execs k (5 + j)).dropLast ++ ((u.execs k (5 + j)).getLast?.map fun x => { x with done := true, err := none }).toList else u.execs k (5 + j)) ∧
      t = { u with cores := t.cores, live := t.live }) ∧
  (∀ (k : Nat) (v : W64) (s : State), s.up = true → k < 128 → bitOf v 0 = true →
    ∃ t, exec (.rcFlush k v) s = .next t ∧ t.core k = { s.core k with rc := [] } ∧ (∀ a, a ≠ k → t.core a = s.core a) ∧
      t = { s with cores := t.cores })

/-- Branches and jumps (Table 5.10): a taken branch goes to its own address plus four times the signed immediate, else to the next
instruction; JAL and JR put the address of the next instruction into gd. That a branch is relative to itself, and that BLT and BGE compare
as two's complement, are the model's readings (log entry 20). -/
def Obligations.ScalarBranches : Prop :=
  ∀ (k j : Nat) (gd ga : BitVec 5) (imm : W16) (u s : State),
    let pc := (u.pipe k j).pc
    let there := (BitVec.ofNat 64 pc + 4 * imm.signExtend 64).toNat
    (s.issues k j useR (wordI 0x14 gd ga imm) u → ∃ t, exec (.beq k j gd ga imm) s = .next t ∧
      PcTo u t k j (if u.gpr k j gd = u.gpr k j ga then there else pc + 4)) ∧
    (s.issues k j useR (wordI 0x15 gd ga imm) u → ∃ t, exec (.bne k j gd ga imm) s = .next t ∧
      PcTo u t k j (if u.gpr k j gd = u.gpr k j ga then pc + 4 else there)) ∧
    (s.issues k j useR (wordI 0x16 gd ga imm) u → ∃ t, exec (.blt k j gd ga imm) s = .next t ∧
      PcTo u t k j (if (u.gpr k j gd).toInt < (u.gpr k j ga).toInt then there else pc + 4)) ∧
    (s.issues k j useR (wordI 0x17 gd ga imm) u → ∃ t, exec (.bge k j gd ga imm) s = .next t ∧
      PcTo u t k j (if (u.gpr k j gd).toInt < (u.gpr k j ga).toInt then pc + 4 else there)) ∧
    (s.issues k j useDI (wordI 0x18 gd 0 imm) u → ∃ t, exec (.jal k j gd imm) s = .next t ∧
      GprSet u t k j gd (BitVec.ofNat 64 (pc + 4)) there) ∧
    (s.issues k j useDA (wordI 0x19 gd ga 0) u → ∃ t, exec (.jr k j gd ga) s = .next t ∧
      GprSet u t k j gd (BitVec.ofNat 64 (pc + 4)) (u.gpr k j ga).toNat)

/-- The store's scrub (R129 to R131): with scrub on, the next word of the slice is checked and scrub moves 8 bytes on, from the slice's end to
its start with a pass counted. A word in error, struck by the command's operand (log entry 72): a corrected one is good again and counted, and
the first one's address kept in CE_ADDR; an uncorrectable one is poisoned and counted, and the first one's address kept in UE_ADDR, and in the
steward's region it is a fatal error. A slice whose scrub is off does nothing. A write of STORE.ADDR_CLR clears what its bits name, and
nothing else. -/
def Obligations.StoreScrubAndErrors : Prop :=
  (∀ (t : Nat) (s : State), s.up = true → t < 8 → bitOf (s.rg (pk tSTORE t) 0x210) 0 = true → s.sage.fatal = none →
    let off := (s.slice t).scrubOff
    let pa := t * 2 ^ 32 + off
    let pg := pk tSTORE t
    off % 8 = 0 → off < 2 ^ 32 → s.noUpset pa 8 →
    (∃ u, exec (.storeScrub t .clean) s = .next u ∧ u.slice t = (s.slice t).advance ∧ (∀ x, x ≠ t → u.slice x = s.slice x) ∧
      u = { s with slices := u.slices, hdrs := u.hdrs }) ∧
    (∃ u, exec (.storeScrub t .corr) s = .next u ∧ (u.slice t).scrubOff = (s.slice t).advance.scrubOff ∧
      (u.slice t).passes = (s.slice t).advance.passes ∧
      (u.slice t).ceAddr = (if (s.slice t).ceAddr = 0 then pack 64 [⟨34, 3, pa / 8⟩, ⟨0, 0, 1⟩] else (s.slice t).ceAddr) ∧
      bits (u.stat pg 0x068) 31 0 = (bits (s.stat pg 0x068) 31 0 + 1) % 2 ^ 32 ∧ u.wordHits pa 8 = [] ∧
      (∀ x, x ≠ t → u.slice x = s.slice x) ∧ u = { s with slices := u.slices, hdrs := u.hdrs, live := u.live, upsets := u.upsets }) ∧
    (∃ u, exec (.storeScrub t .uncorr) s = .next u ∧ (u.slice t).scrubOff = (s.slice t).advance.scrubOff ∧ pa ∈ u.poison ∧
      (∀ w, w ∈ u.poison → w = pa ∨ w ∈ s.poison) ∧
      (u.slice t).ueAddr = (if (s.slice t).ueAddr = 0 then pack 64 [⟨34, 3, pa / 8⟩, ⟨0, 0, 1⟩] else (s.slice t).ueAddr) ∧
      bits (u.stat pg 0x068) 63 32 = (bits (s.stat pg 0x068) 63 32 + 1) % 2 ^ 32 ∧ u.mem = s.mem ∧
      (0xFC000000 ≤ off → u.sage.fatal = some 1) ∧
      (off < 0xFC000000 → u = { s with slices := u.slices, hdrs := u.hdrs, live := u.live, upsets := u.upsets, poison := u.poison }))) ∧
  (∀ c : SliceSt, (c.scrubOff + 8 < 2 ^ 32 → c.advance = { c with scrubOff := c.scrubOff + 8 }) ∧
    (2 ^ 32 ≤ c.scrubOff + 8 → c.advance = { c with scrubOff := 0, passes := c.passes + 1, rowSeen := [] })) ∧
  (∀ (t : Nat) (e : MemErr) (s : State), bitOf (s.rg (pk tSTORE t) 0x210) 0 = false → exec (.storeScrub t e) s = .next s) ∧
  (∀ (t : Nat) (v : W64) (s : State), s.up = true → t < 8 →
    ∃ u, exec (.storeAddrClr t v) s = .next u ∧ u.slice t = { s.slice t with
        ceAddr := if bitOf v 0 then 0 else (s.slice t).ceAddr, ueAddr := if bitOf v 1 then 0 else (s.slice t).ueAddr } ∧
      (∀ x, x ≠ t → u.slice x = s.slice x) ∧ u = { s with slices := u.slices })

/-- Mover descriptors (R133 to R137, Table 6.4). Each operation starts its descriptor when its turn has come: a well-formed one is carried on
as far as it can go, list, source and destination in turn, and one that waited goes on in the same way; one that breaks a rule is done with
RUNTIME and moves nothing; under another operation, or before its turn, nothing changes. A core's descriptor of one row of at most 4 KiB with
its operands in the core's own buffer, no error stored there and its source clear of its destination, is done at once: COPY leaves the bytes
of its source at its destination; FILL the pattern of AUX, byte b its byte b mod 8; GATHER the row that its list entry names, or zeros for
0xFFFFFFFF; SCATTER its source at the row that its list entry names, or nothing for 0xFFFFFFFF; TRANSPOSE element e of its source in row e. No
other byte of any buffer changes. A steward's SCRUB of one row of the store leaves zeros and finds every word as written. -/
def Obligations.MoverDescriptorsStart : Prop :=
  (∀ (t id op : Nat) (i : Instr) (d : MDesc) (s : State), (op, i) ∈ mvCmds t id → s.running = true → s.mdesc t id = some d →
    ((mvOf d.raw).op = op → d.st ≠ .reading → s.mvMay t d = true → mvBad d.src d.raw = false →
      exec i s = .next ((s.mvBegin t d).mvGo t id 5)) ∧
    ((mvOf d.raw).op = op → d.st = .reading → s.mvStale d = false → exec i s = .next (s.mvGo t id 5)) ∧
    ((mvOf d.raw).op = op → s.mvMay t d = true → mvBad d.src d.raw = true → d.id = id → d.err = none →
      ∃ u, exec i s = .next u ∧ (∃ x, u.mdesc t id = some x ∧ x.st = .done ∧ x.err = some errRuntime) ∧ u = { s with movers := u.movers }) ∧
    ((mvOf d.raw).op ≠ op ∨ (d.st ≠ .reading ∧ s.mvMay t d = false) → exec i s = .next s)) ∧
  (∀ (t id k : Nat) (d : MDesc) (s : State), s.mvTurn t id k d → s.upsets = [] →
    let m := mvOf d.raw
    let src := aoAddr m.src
    let dst := aoAddr m.dst
    m.rows = 1 → m.len ≤ 4096 → aoSpace m.dst = 2 → dst + m.len ≤ 2 ^ 23 →
    (m.op = 1 → aoSpace m.src = 2 → src + m.len ≤ 2 ^ 23 →
      ∃ u, exec (.copy t id) s = .next u ∧ u.cb = Memory.write s.cb (cbKey k dst) (s.cbRead k src m.len) ∧ s.mvDone u t id) ∧
    (m.op = 5 →
      ∃ u, exec (.fill t id) s = .next u ∧ u.cb = Memory.write s.cb (cbKey k dst)
        ((List.range m.len).map fun b => BitVec.ofNat 8 (nbits m.aux (8 * (b % 8) + 7) (8 * (b % 8)))) ∧ s.mvDone u t id) ∧
    (m.op = 2 → aoSpace m.src = 2 → aoSpace m.aux = 2 → aoAddr m.aux + 4 ≤ 2 ^ 23 →
      let j := ofLe (s.cbRead k (aoAddr m.aux) 4)
      (j = 0xFFFFFFFF → ∃ u, exec (.gather t id) s = .next u ∧
        u.cb = Memory.write s.cb (cbKey k dst) (List.replicate m.len 0) ∧ s.mvDone u t id) ∧
      (j ≠ 0xFFFFFFFF → src + j * m.ss + m.len ≤ 2 ^ 23 → src + j * m.ss + m.len ≤ dst ∨ dst + m.len ≤ src + j * m.ss →
        ∃ u, exec (.gather t id) s = .next u ∧
          u.cb = Memory.write s.cb (cbKey k dst) (s.cbRead k (src + j * m.ss) m.len) ∧ s.mvDone u t id)) ∧
    (m.op = 3 → aoSpace m.src = 2 → aoSpace m.aux = 2 → aoAddr m.aux + 4 ≤ 2 ^ 23 →
      let j := ofLe (s.cbRead k (aoAddr m.aux) 4)
      (j = 0xFFFFFFFF → ∃ u, exec (.scatter t id) s = .next u ∧ u.cb = s.cb ∧ s.mvDone u t id) ∧
      (j ≠ 0xFFFFFFFF → src + m.len ≤ 2 ^ 23 → dst + j * m.ds + m.len ≤ 2 ^ 23 →
        src + m.len ≤ dst + j * m.ds ∨ dst + j * m.ds + m.len ≤ src →
        ∃ u, exec (.scatter t id) s = .next u ∧
          u.cb = Memory.write s.cb (cbKey k (dst + j * m.ds)) (s.cbRead k src m.len) ∧ s.mvDone u t id))) ∧
  (∀ (t id k : Nat) (d : MDesc) (s : State), s.mvTurn t id k d → s.upsets = [] → Memory.wf s.cb = true →
    let m := mvOf d.raw
    let es := 2 ^ m.esize
    let src := aoAddr m.src
    let dst := aoAddr m.dst
    m.op = 4 → m.rows = 1 → m.len * es ≤ 4096 → aoSpace m.src = 2 → aoSpace m.dst = 2 → es ≤ m.ds → src + m.len * es ≤ 2 ^ 23 →
    dst + m.len * m.ds ≤ 2 ^ 23 → src + m.len * es ≤ dst ∨ dst + m.len * m.ds ≤ src →
    ∃ u, exec (.transpose t id) s = .next u ∧ (∀ e, e < m.len → u.cbRead k (dst + e * m.ds) es = s.cbRead k (src + e * es) es) ∧
      (∀ x, (∀ e, e < m.len → x < cbKey k (dst + e * m.ds) ∨ cbKey k (dst + e * m.ds) + es ≤ x) →
        Memory.read1 u.cb x = Memory.read1 s.cb x) ∧ s.mvDone u t id) ∧
  (∀ (t id : Nat) (d : MDesc) (s : State), s.running = true → s.mdesc t id = some d → d.id = id → isSteward d = true →
    s.mvMay t d = true → mvBad d.src d.raw = false → s.mvOutstanding t id = false → d.phase = 0 → d.pos = 0 → d.buf = [] → d.err = none →
    let m := mvOf d.raw
    let dst := aoAddr m.dst
    m.op = 6 → m.rows = 1 → m.len ≤ 4096 → dst % 8 = 0 → m.len % 8 = 0 → dst + m.len ≤ 2 ^ 35 → s.noUpset dst m.len →
    (∀ w, w ∈ s.poison → w % 8 = 0) →
    ∃ u, exec (.scrub t id) s = .next u ∧ u.mem = Memory.write s.mem dst (List.replicate m.len 0) ∧
      (∃ x, u.mdesc t id = some x ∧ x.st = .done ∧ x.err = none) ∧
      u = { s with mem := u.mem, poison := u.poison, movers := u.movers, live := u.live, hdrs := u.hdrs })

/-- Replies, completion and the steward's queue (R130, R136, R138 to R140, R166, Tables 6.5 and 6.7). The oldest reply for a descriptor is
taken: a read's bytes are kept for its destination, poison or a link that is down is its error, and it goes on; under an old generation of its
partition the reply is dropped with nothing written. A completed descriptor leaves the mover: a port record that waits for it is done with its
error; the counter that POST named is signalled by 1 at the poster's core, unless its signal was dropped; the operation of a KPM keeps its
error; room in the mover then lets the steward's queue post. A MIGRATE without an error points the tables at the new page. PQ_TAIL within the
queue's size is kept and posts entries; another is ignored. -/
def Obligations.MoverEffects : Prop :=
  (∀ (t id : Nat) (r : TRep) (d : MDesc) (s : State), s.up = true → (s.mover t).replies.find? (fun x => x.desc == id) = some r →
    s.mdesc t id = some d →
    let s1 := s.modMover t fun m => { m with replies := removeFirst (fun x => x.desc == id) m.replies }
    (s.mvStale d = false → exec (.tierReply t id) s = .next ((s1.modDesc t id fun x => x.takeReply r).mvGo t id 5)) ∧
    (s.mvStale d = true → ∃ u, exec (.tierReply t id) s = .next u ∧
      (u.mover t).replies = removeFirst (fun x => x.desc == id) (s.mover t).replies ∧ u = { s with movers := u.movers, live := u.live })) ∧
  (∀ (d : MDesc) (r : TRep) (b : Bytes), d.err = none →
    (r.data = some b → (d.takeReply r).buf = Tbl.set d.buf r.slot (b, r.bad)) ∧ (r.data = none → (d.takeReply r).buf = d.buf) ∧
    (r.down = true → (d.takeReply r).err = some errBridgeDown) ∧
    (r.down = false → r.bad ≠ [] → (mvOf d.raw).op ≠ 7 → (d.takeReply r).err = some errTierPoison) ∧
    (r.down = false → r.bad = [] → (d.takeReply r).err = none)) ∧
  (∀ (t id : Nat) (d : MDesc) (s : State), s.mdesc t id = some d → s.up = true → d.id = id → d.st = .done → s.mvOutstanding t id = false →
    d.err = none → (mvOf d.raw).op ≠ 7 →
    ∃ u : State, exec (.descriptorComplete t id) s = .next (u.pqPost t (bits (s.rg (pk tMOVER t) 0x298) 12 0)) ∧
      (u.mover t).descs = (s.mover t).descs.filter (fun x => x.id != id) ∧ (∀ x, x ≠ t → u.mover x = s.mover x) ∧
      (∀ k, d.src = .port k none → u.execs k 7 = (s.execs k 7).map (fun x => if x.port = some (t, id) then { x with done := true, err := none } else x) ∧
        u = { s with movers := u.movers, cores := u.cores, live := u.live }) ∧
      (∀ k c, d.src = .port k (some c) →
        (∀ a b, u.dc a b = if d.noSignal = false ∧ a = k ∧ b = c % 64 then min (s.dc a b + 1) 0xFFFF else s.dc a b) ∧
        u = { s with movers := u.movers, cores := u.cores, live := u.live }) ∧
      (∀ k op, d.src = .kpm k op → u = { s with movers := u.movers, kpms := u.kpms, live := u.live }) ∧
      (d.src = .steward → (u.mover t).pqDone = (s.mover t).pqDone + 1 ∧ u = { s with movers := u.movers, live := u.live })) ∧
  (∀ (t id : Nat) (d : MDesc) (s : State), s.mdesc t id = some d → s.up = true → d.id = id → d.st = .done → s.mvOutstanding t id = false →
    d.err = none → (mvOf d.raw).op = 7 → d.src = .steward →
    let src := aoAddr (mvOf d.raw).src
    let dst := aoAddr (mvOf d.raw).dst
    ∃ u : State, exec (.descriptorComplete t id) s = .next (u.pqPost t (bits (s.rg (pk tMOVER t) 0x298) 12 0)) ∧
      (∀ p, (u.part p).leaves = (s.part p).leaves.map fun l => if l.inPage src then { l with addr := dst + (l.addr - src), migrating := false } else l) ∧
      (u.tier (tierKeyOf src)).retired.contains (pageAt src) = true ∧ u.stewLog = s.stewLog ++ [.retirement src] ∧ u.mem = s.mem) ∧
  (∀ (t : Nat) (v : W64) (s : State), bits (s.rg (pk tMOVER t) 0x298) 12 0 ≤ bits v 12 0 → exec (.pqTail t v) s = .next s) ∧
  (∀ (t : Nat) (v : W64) (s : State), s.up = true → t < 8 → bits v 12 0 < bits (s.rg (pk tMOVER t) 0x298) 12 0 →
    (∀ d, d ∈ (s.mover t).descs → d.id < (s.mover t).nextId) →
    ∃ u, exec (.pqTail t v) s = .next u ∧ u.rg (pk tMOVER t) 0x2A0 = BitVec.ofNat 64 (bits v 12 0) ∧
      (∃ l, (u.mover t).descs = (s.mover t).descs ++ l ∧ ∀ d, d ∈ l → d.src = .steward ∧ d.queued = true ∧ d.st = .accepted))

/-- Service at the tiers (R148, R151, R154, R156 to R159, R168). A near stack or a bridge's rank that is not in self-refresh serves the
burst whose turn it is, and a bridge the crumb access: the request leaves, its unit's stream has been served last, and its mover is answered.
A write, with no error stored at its bytes and none of them poisoned, puts them at the unit's address and changes no other; a read with
nothing wrong answers the bytes there, deciphered where the bridge port encrypts, and changes no byte; a codeword that the command's operand
strikes beyond its code's reach (log entry 72) becomes poisoned. Each command names the request it serves;
with no request waiting, in self-refresh, and where another request's turn it is, nothing changes. -/
def Obligations.TierRequests : Prop :=
  (∀ (u : TierUnit) (r : TReq) (s : State), s.up = true → s.sage.fatal = none → unitOk u = true → (s.tier (unitKey u)).selfRefresh = false →
    s.nextBurst (unitKey u) = some r →
    let k := unitKey u
    let pa := unitBase k + r.off
    (∀ b, r.wr = some b → r.bad = [] → s.noUpset pa b.length →
      ∃ t, exec (.nearBurst u r.off r.len r.wr.isSome r.stream cwGood) s = .next t ∧ t.mem = Memory.write s.mem pa b ∧ t.poison = poisonAfter s.poison pa b.length ∧
        (t.tier k).reqs = removeFirst (· == r) (s.tier k).reqs ∧ (t.tier k).lastStream = r.stream ∧
        (t.mover r.tile).replies = (s.mover r.tile).replies ++ [⟨r.desc, r.slot, none, [], false, r.cost⟩] ∧
        t = { s with mem := t.mem, poison := t.poison, tiers := t.tiers, movers := t.movers, live := t.live, hdrs := t.hdrs }) ∧
    (r.wr = none → s.noUpset pa r.len → s.poisonIn pa r.len = [] →
      ∃ t, exec (.nearBurst u r.off r.len r.wr.isSome r.stream cwGood) s = .next t ∧ (t.tier k).reqs = removeFirst (· == r) (s.tier k).reqs ∧
        (t.tier k).lastStream = r.stream ∧
        (t.mover r.tile).replies = (s.mover r.tile).replies ++ [⟨r.desc, r.slot,
          some (match r.encVa with | some va => s.portCipher r.part va (Memory.read s.mem pa r.len) | none => Memory.read s.mem pa r.len), [], false, r.cost⟩] ∧
        t = { s with tiers := t.tiers, movers := t.movers, live := t.live, hdrs := t.hdrs }) ∧
    (∀ e, r.wr = none → s.noUpset pa r.len → 1 ≤ r.len → inTier (pa / 64 * 64) = true → e.dies ≠ [] → cwDecode (s.tier k).die e = .uncorrectable →
      tierKeyOf (pa / 64 * 64) = k → Tbl.get cwGood s.cwUpsets (pa / 64) = cwGood →
      ∃ t, exec (.nearBurst u r.off r.len r.wr.isSome r.stream e) s = .next t ∧ t.mem = s.mem ∧ (∀ i, i < 8 → pa / 64 * 64 + 8 * i ∈ t.poison))) ∧
  (∀ (b rank : Nat) (r : TReq) (s : State), s.up = true → s.sage.fatal = none → b < 8 → s.nextCrumb b = some (16 + 8 * rank + b, r) →
    let k := 16 + 8 * rank + b
    (s.tier k).selfRefresh = false →
    let pa := unitBase k + r.off
    (∀ w, r.wr = some w → r.bad = [] → s.noUpset pa w.length →
      ∃ t, exec (.crumb b rank r.off r.len r.wr.isSome r.stream cwGood) s = .next t ∧ t.mem = Memory.write s.mem pa w ∧ t.poison = poisonAfter s.poison pa w.length ∧
        (t.tier k).reqs = removeFirst (· == r) (s.tier k).reqs ∧ (t.bridge b).lastCrumb = r.stream ∧
        (t.mover r.tile).replies = (s.mover r.tile).replies ++ [⟨r.desc, r.slot, none, [], false, r.cost⟩] ∧
        t = { s with mem := t.mem, poison := t.poison, bridges := t.bridges, tiers := t.tiers, movers := t.movers, live := t.live, hdrs := t.hdrs }) ∧
    (r.wr = none → s.noUpset pa r.len → s.poisonIn pa r.len = [] →
      ∃ t, exec (.crumb b rank r.off r.len r.wr.isSome r.stream cwGood) s = .next t ∧ (t.tier k).reqs = removeFirst (· == r) (s.tier k).reqs ∧ (t.bridge b).lastCrumb = r.stream ∧
        (t.mover r.tile).replies = (s.mover r.tile).replies ++ [⟨r.desc, r.slot,
          some (match r.encVa with | some va => s.portCipher r.part va (Memory.read s.mem pa r.len) | none => Memory.read s.mem pa r.len), [], false, r.cost⟩] ∧
        t = { s with bridges := t.bridges, tiers := t.tiers, movers := t.movers, live := t.live, hdrs := t.hdrs })) ∧
  (∀ (u : TierUnit) (off len stream : Nat) (wr : Bool) (e : CwErr) (s : State),
    s.nextBurst (unitKey u) = none ∨ (s.tier (unitKey u)).selfRefresh = true ∨
      (∃ r, s.nextBurst (unitKey u) = some r ∧ r.named off len wr stream = false) →
    exec (.nearBurst u off len wr stream e) s = .next s) ∧
  (∀ (b rank off len stream : Nat) (wr : Bool) (e : CwErr) (s : State),
    s.nextCrumb b = none ∨ (∃ k r, s.nextCrumb b = some (k, r) ∧
      (k ≠ 16 + 8 * rank + b ∨ (s.tier k).selfRefresh = true ∨ r.named off len wr stream = false)) →
    exec (.crumb b rank off len wr stream e) s = .next s)

/-- Scrub, repair and retirement of the tiers (R159, R161 to R165): scrub, on and out of self-refresh, reads the next codeword and starts
again at the unit's end with a pass counted; a completed repair takes a spare of the row's bank group; a page that RETIRE names, not retired
before, is out of service, counted and queued for flash, and the unit is degraded at its threshold; the oldest queued page is appended to the
list in flash. RETIREMENT deals with the oldest row that asks: a page that nobody owns is retired at once and logged; one of a live partition
migrates to the lowest free page of its unit, its owner with it; with no free page in the tier its retirement is pending. ADDR_CLR clears what
its bits name. A bridge link that goes down puts both ranks into self-refresh, answers what is outstanding there and raises LINK_DOWN (R152). In
FIRMWARE, initialisation leaves every tier byte zero and the store as it was, with every link up (R169, log entry 26); a hot die doubles its
refresh (R462). -/
def Obligations.TierMaintenance : Prop :=
  (∀ (u : TierUnit) (s : State), s.up = true → s.sage.fatal = none → unitOk u = true → bitOf (s.rg (tierPage (unitKey u)) 0x210) 0 = true →
    s.linkDownOf (unitKey u) = false → (s.tier (unitKey u)).selfRefresh = false →
    let k := unitKey u
    let off := (s.tier k).scrubOff
    s.noUpset (unitBase k + off) 64 → Tbl.get cwGood s.cwUpsets ((unitBase k + off) / 64) = cwGood →
    ∃ t, exec (.tierScrub u cwGood) s = .next t ∧ t.tier k = (if off + 64 < unitSize k then { s.tier k with scrubOff := off + 64 }
        else { s.tier k with scrubOff := 0, passes := (s.tier k).passes + 1, rowSeen := [], dieHits := [] }) ∧
      (∀ x, x ≠ k → t.tier x = s.tier x) ∧ t = { s with tiers := t.tiers, hdrs := t.hdrs }) ∧
  (∀ (u : TierUnit) (row : Nat) (rest : List Nat) (s : State), s.up = true → (s.tier (unitKey u)).repairing = row :: rest →
    ∃ t, exec (.pprDone u) s = .next t ∧ (t.tier (unitKey u)).repairing = rest ∧
      Tbl.get 0 (t.tier (unitKey u)).spares (rowGroup (unitKey u) row) = Tbl.get 0 (s.tier (unitKey u)).spares (rowGroup (unitKey u) row) + 1 ∧
      bitOf (t.hdr (tierPage (unitKey u))).intStat 1 = true ∧
      t = { s with tiers := t.tiers, hdrs := t.hdrs, pcie := t.pcie, out := t.out }) ∧
  (∀ (u : TierUnit) (pg : Nat) (s : State), s.up = true → unitOk u = true → pg < unitPages (unitKey u) →
    (s.tier (unitKey u)).retired.contains pg = false →
    ∃ t, exec (.retire u pg) s = .next t ∧ (t.tier (unitKey u)).retired = (s.tier (unitKey u)).retired ++ [pg] ∧
      (t.back (backKey (unitKey u) pg)).owner = none ∧ t.boot.retireQueue = s.boot.retireQueue ++ [(unitKey u, pg)] ∧
      (t.tier (unitKey u)).degraded =
        ((s.tier (unitKey u)).degraded || decide (unitDegraded (unitKey u) ≤ (s.tier (unitKey u)).retired.length + 1)) ∧
      t = { s with tiers := t.tiers, backing := t.backing, boot := { s.boot with retireQueue := t.boot.retireQueue }, hdrs := t.hdrs,
                   pcie := t.pcie, out := t.out }) ∧
  (∀ (u : TierUnit) (pg : Nat) (s : State), s.up = false ∨ unitOk u = false ∨ unitPages (unitKey u) ≤ pg ∨
    (s.tier (unitKey u)).retired.contains pg = true → exec (.retire u pg) s = .next s) ∧
  (∀ (u : TierUnit) (row : Nat) (rest : List Nat) (s : State), s.running = true → unitOk u = true →
    (s.tier (unitKey u)).retireReq = row :: rest →
    let k := unitKey u
    let pg := row / 1024
    s.pageSteward k pg = false →
    ((s.back (backKey k pg)).owner = none → (s.tier k).retired.contains pg = false →
      ∃ t, exec (.retirement u) s = .next t ∧ (t.tier k).retired = (s.tier k).retired ++ [pg] ∧
        (t.tier k).retireReq = (s.tier k).retireReq.filter (fun r => r / 1024 != pg) ∧
        t.stewLog = s.stewLog ++ [.retirement (unitBase k + pg * 2 ^ 21)] ∧ t.mem = s.mem) ∧
    (∀ p f, (s.back (backKey k pg)).owner = some p → (s.part p).state ≠ .tearingDown → (s.part p).state ≠ .scrubbing →
      s.freePage k = some f → s.migrations < 8 → (s.mover (tierTile k)).descs.length < 1024 →
      ∃ t, exec (.retirement u) s = .next t ∧
        (t.mover (tierTile k)).descs = (s.mover (tierTile k)).descs ++ [MDesc.new (s.mover (tierTile k)).nextId .steward 32 0 (s.part 32).gen 0 0 0
          (migrateDesc (unitBase k + pg * 2 ^ 21) (unitBase k + f * 2 ^ 21))] ∧
        t.back (backKey k f) = s.back (backKey k pg) ∧
        (∀ q l, l ∈ (t.part q).leaves → leafIn k pg l = true → l.migrating = true) ∧ t.mem = s.mem) ∧
    (∀ p, (s.back (backKey k pg)).owner = some p → (s.part p).state ≠ .tearingDown → (s.part p).state ≠ .scrubbing →
      (∀ v, v ∈ tierMates k → s.freePage v = none) →
      ∃ t, exec (.retirement u) s = .next t ∧ (t.tier k).retirePending = true ∧ (t.tier k).retired = (s.tier k).retired ∧
        t = { s with tiers := t.tiers })) ∧
  (∀ (e : Nat × Nat) (rest : List (Nat × Nat)) (s : State), s.up = true → s.boot.retireQueue = e :: rest →
    ∃ t, exec .flashAppend s = .next t ∧ t.boot = { s.boot with
        retireQueue := rest, retiredList := if s.boot.retiredList.contains e then s.boot.retiredList else s.boot.retiredList ++ [e] } ∧ t = { s with boot := t.boot }) ∧
  (∀ (u : TierUnit) (v : W64) (s : State), s.up = true → unitOk u = true →
    let k := regUnit (unitKey u)
    ∃ t, exec (.tierAddrClr u v) s = .next t ∧ t.tier k = { s.tier k with
        ceAddr := if bitOf v 0 then 0 else (s.tier k).ceAddr, ueAddr := if bitOf v 1 then 0 else (s.tier k).ueAddr } ∧
      (∀ x, x ≠ k → t.tier x = s.tier x) ∧ t = { s with tiers := t.tiers }) ∧
  (∀ (b : Nat) (s : State), s.up = true → b < 8 → (s.bridge b).linkUp = true →
    ∃ t, exec (.bridgeLinkDown b) s = .next t ∧ (t.bridge b).linkUp = false ∧ (t.tier (16 + b)).selfRefresh = true ∧
      (t.tier (24 + b)).selfRefresh = true ∧ (t.tier (16 + b)).reqs = [] ∧ (t.tier (24 + b)).reqs = [] ∧
      bitOf (t.hdr (pk tBRIDGE b)).intStat 6 = true ∧ (∀ x, x ≠ b → t.bridge x = s.bridge x) ∧
      ((s.tier (16 + b)).reqs = [] → (s.tier (24 + b)).reqs = [] →
        t = { s with bridges := t.bridges, tiers := t.tiers, hdrs := t.hdrs, pcie := t.pcie, out := t.out }) ∧
      t = { s with bridges := t.bridges, tiers := t.tiers, movers := t.movers, mem := t.mem, freeCtr := t.freeCtr, live := t.live, hdrs := t.hdrs,
                   pcie := t.pcie, out := t.out }) ∧
  (∀ s : State, s.up = true → s.boot.code = 0x03 →
    ∃ t, exec .tierInit s = .next t ∧ (∀ a, Memory.read1 t.mem a = if inTier a then 0 else Memory.read1 s.mem a) ∧
      (∀ w, w ∈ t.poison ↔ w ∈ s.poison ∧ inTier w = false) ∧ t.cwUpsets = [] ∧ (∀ b, b < 8 → (t.bridge b).linkUp = true) ∧
      t.boot.tiersDone = true ∧ t.parts = s.parts) ∧
  (∀ (u : TierUnit) (hot : Bool) (s : State), s.up = true → unitOk u = true →
    ∃ t, exec (.refresh2x u hot) s = .next t ∧ t.tier (unitKey u) = { s.tier (unitKey u) with refresh2x := hot } ∧
      (∀ x, x ≠ unitKey u → t.tier x = s.tier x) ∧ t = { s with tiers := t.tiers })

/-- SQ and CQ control (R223, R431, R448, R453). A DISABLED SQ whose length is 16 to 4096 and whose CQ is enabled becomes NORMAL and empty; with
another length or a CQ not enabled, its enable changes nothing but the error record, which then holds PLAN_INVALID. An SQ not DISABLED starts
draining when disabled, and nothing is fetched from it; drained, with no fetched entry left, it is DISABLED, and with one left nothing changes.
A FAILED or BROKEN SQ resumes at its head. A CQ that is not enabled, with a length of 16 to 4096 and a token ring of none or 16 to 1,048,576
records, becomes empty with PHASE 1, and held notices go out; with another length only the error record changes. A CQ that no enabled SQ
uses is disabled; the disable of one that is used is ignored and counted. The notice CQ's name is taken, and held notices go out. -/
def Obligations.QueueControl : Prop :=
  (∀ (fn : Fn) (q : Nat) (s : State), s.up = true → qOk fn q = true → (s.sq (qKey fn q)).state = .disabled → 16 ≤ s.sqEntries fn q →
    s.sqEntries fn q ≤ 4096 → qOk fn (s.sqCq fn q) = true → (s.cq (qKey fn (s.sqCq fn q))).enabled = true →
    ∃ t, exec (.sqEnable fn q) s = .next t ∧ t.sq (qKey fn q) = ⟨.normal, false, 0, 0, 0⟩ ∧
      (∀ k, k ≠ qKey fn q → t.sq k = s.sq k) ∧ t = { s with sqs := t.sqs, fmu := t.fmu }) ∧
  (∀ (fn : Fn) (q : Nat) (s : State), s.up = true → qOk fn q = true → (s.sq (qKey fn q)).state = .disabled →
    s.sqEntries fn q < 16 ∨ 4096 < s.sqEntries fn q ∨ qOk fn (s.sqCq fn q) = false ∨ (s.cq (qKey fn (s.sqCq fn q))).enabled = false →
    ∃ t, exec (.sqEnable fn q) s = .next t ∧ t = s.noteErr (sqPage fn) 0x70 0 ∧ t.sqs = s.sqs ∧ t = { s with hdrs := t.hdrs }) ∧
  (∀ (fn : Fn) (q : Nat) (s : State), s.up = true → qOk fn q = true → (s.sq (qKey fn q)).state ≠ .disabled →
    ∃ t, exec (.sqDisable fn q) s = .next t ∧ t.sq (qKey fn q) = { s.sq (qKey fn q) with draining := true } ∧ t.mayFetch fn q = false ∧
      (∀ k, k ≠ qKey fn q → t.sq k = s.sq k) ∧ t = { s with sqs := t.sqs }) ∧
  (∀ (fn : Fn) (q : Nat) (s : State), s.up = true → qOk fn q = true → (s.sq (qKey fn q)).draining = true →
    ((∀ e, e ∈ s.ents → ¬(e.fn = fn ∧ e.sq = q)) → ∃ t, exec (.sqDrained fn q) s = .next t ∧
      t.sq (qKey fn q) = { s.sq (qKey fn q) with state := .disabled, draining := false } ∧ (∀ k, k ≠ qKey fn q → t.sq k = s.sq k) ∧
      t = { s with sqs := t.sqs }) ∧
    (∀ e, e ∈ s.ents → e.fn = fn → e.sq = q → exec (.sqDrained fn q) s = .next s)) ∧
  (∀ (fn : Fn) (q : Nat) (s : State), s.up = true → qOk fn q = true →
    (s.sq (qKey fn q)).state = .failed ∨ (s.sq (qKey fn q)).state = .broken →
    ∃ t, exec (.sqResume fn q) s = .next t ∧ t.sq (qKey fn q) = { s.sq (qKey fn q) with state := .normal } ∧
      (∀ k, k ≠ qKey fn q → t.sq k = s.sq k) ∧ t = { s with sqs := t.sqs }) ∧
  (∀ (fn : Fn) (q : Nat) (s : State), s.up = true → qOk fn q = true → (s.cq (qKey fn q)).enabled = false →
    (16 ≤ s.cqEntries fn q → s.cqEntries fn q ≤ 4096 → s.trEntries fn q = 0 ∨ (16 ≤ s.trEntries fn q ∧ s.trEntries fn q ≤ 1048576) →
      ∃ u : State, exec (.cqEnable fn q) s = .next u.drainNotices ∧ u.cq (qKey fn q) = { CqSt.zero with enabled := true } ∧ CqSt.zero.phase = true ∧
        (∀ k, k ≠ qKey fn q → u.cq k = s.cq k) ∧ u = { s with cqs := u.cqs } ∧ (s.gfe.notices = [] → u.drainNotices = u)) ∧
    (s.cqEntries fn q < 16 ∨ 4096 < s.cqEntries fn q ∨ (s.trEntries fn q ≠ 0 ∧ (s.trEntries fn q < 16 ∨ 1048576 < s.trEntries fn q)) →
      ∃ t, exec (.cqEnable fn q) s = .next t ∧ t = s.noteErr (cqPage fn) 0x70 0 ∧ t.cqs = s.cqs ∧ t = { s with hdrs := t.hdrs })) ∧
  (∀ (fn : Fn) (q : Nat) (s : State), s.up = true → qOk fn q = true → (s.cq (qKey fn q)).enabled = true →
    (s.cqBound fn q = false → ∃ t, exec (.cqDisable fn q) s = .next t ∧ t.cq (qKey fn q) = { s.cq (qKey fn q) with enabled := false } ∧
      (∀ k, k ≠ qKey fn q → t.cq k = s.cq k) ∧ t = { s with cqs := t.cqs }) ∧
    (s.cqBound fn q = true → exec (.cqDisable fn q) s = .next (s.countErr (cqPage fn)))) ∧
  (∀ (v : W64) (s : State), s.up = true →
    ∃ u : State, exec (.noticeCq v) s = .next u.drainNotices ∧ u.rg pgGFE 0x208 = v &&& 0x8F ∧ u = { s with rf := u.rf } ∧
      (s.gfe.notices = [] → u.drainNotices = u))

/-- Doorbells (R452). A tail below the length of an SQ that is not DISABLED is taken, and the write crosses the FMU's doorbell tap with the time;
one out of range, or of a DISABLED SQ, is ignored and counted. A head of an enabled CQ, or of its token ring, that lies in the span is taken,
frees the slots it passes, and, of the CQ, lets held notices out; one outside the span, or of a CQ not enabled, is ignored and counted. What a
head frees is never more than the slots used, and brings the head to the value written. -/
def Obligations.Doorbells : Prop :=
  (∀ (fn : Fn) (q : Nat) (v : W64) (s : State), s.up = true → qOk fn q = true → (s.sq (qKey fn q)).state ≠ .disabled →
    bits v 12 0 < s.sqEntries fn q →
    ∃ t, exec (.sqTail fn q v) s = .next t ∧ t.sq (qKey fn q) = { s.sq (qKey fn q) with tail := bits v 12 0 } ∧
      (∀ k, k ≠ qKey fn q → t.sq k = s.sq k) ∧
      t.fmu = { s.fmu with tapOrd := s.fmu.tapOrd + 1, doorTap := s.fmu.doorTap ++
        [⟨fn, q, (s.sq (qKey fn q)).tail, bits v 12 0, s.time.now, s.fmu.tapOrd + 1⟩] } ∧ t = { s with sqs := t.sqs, fmu := t.fmu }) ∧
  (∀ (fn : Fn) (q : Nat) (v : W64) (s : State), s.up = true → qOk fn q = true →
    (s.sq (qKey fn q)).state = .disabled ∨ s.sqEntries fn q ≤ bits v 12 0 →
    exec (.sqTail fn q v) s = .next (s.countErr (dbPage fn))) ∧
  (∀ (fn : Fn) (q d : Nat) (v : W64) (s : State), s.up = true → qOk fn q = true → (s.cq (qKey fn q)).enabled = true →
    freedBy (s.cqEntries fn q) (s.cq (qKey fn q)).used (s.cq (qKey fn q)).head (bits v 12 0) = some d →
    ∃ u : State, exec (.cqHead fn q v) s = .next u.drainNotices ∧
      u.cq (qKey fn q) = { s.cq (qKey fn q) with head := bits v 12 0, used := (s.cq (qKey fn q)).used - d } ∧
      (∀ k, k ≠ qKey fn q → u.cq k = s.cq k) ∧ u = { s with cqs := u.cqs } ∧ (s.gfe.notices = [] → u.drainNotices = u)) ∧
  (∀ (fn : Fn) (q d : Nat) (v : W64) (s : State), s.up = true → qOk fn q = true → (s.cq (qKey fn q)).enabled = true →
    freedBy (s.trEntries fn q) (s.cq (qKey fn q)).trUsed (s.cq (qKey fn q)).trHead (bits v 19 0) = some d →
    ∃ t, exec (.trHead fn q v) s = .next t ∧
      t.cq (qKey fn q) = { s.cq (qKey fn q) with trHead := bits v 19 0, trUsed := (s.cq (qKey fn q)).trUsed - d } ∧
      (∀ k, k ≠ qKey fn q → t.cq k = s.cq k) ∧ t = { s with cqs := t.cqs }) ∧
  (∀ (fn : Fn) (q : Nat) (v : W64) (s : State), s.up = true → qOk fn q = true →
    ((s.cq (qKey fn q)).enabled = false ∨ freedBy (s.cqEntries fn q) (s.cq (qKey fn q)).used (s.cq (qKey fn q)).head (bits v 12 0) = none →
      exec (.cqHead fn q v) s = .next (s.countErr (dbPage fn))) ∧
    ((s.cq (qKey fn q)).enabled = false ∨ freedBy (s.trEntries fn q) (s.cq (qKey fn q)).trUsed (s.cq (qKey fn q)).trHead (bits v 19 0) = none →
      exec (.trHead fn q v) s = .next (s.countErr (dbPage fn)))) ∧
  (∀ n used head v d : Nat, head < n → used ≤ n → freedBy n used head v = some d → d ≤ used ∧ v < n ∧ (head + d) % n = v)

/-- Fetching entries and placing those that only signal (R209, R211, R213, R220, R431). Where the GFE may fetch from an SQ, a well-formed entry joins
those in hand in ring order and the head index moves on; a malformed one completes at once with PLAN_INVALID 0x000D; a refused or late read
leaves the SQ BROKEN and fetches nothing. Where it may not, nothing changes. A SIGNAL or NOP entry that is the next to place completes with
OK, and each semaphore of its context loses what its waits on it name. An SQ with none to place next is left alone. A fence signal
takes the larger value; a semaphore signal adds, up to 2³² − 1. -/
def Obligations.EntriesAreFetchedAndSignalled : Prop :=
  (∀ (fn : Fn) (q : Nat) (b : Bytes) (s : State), s.mayFetch fn q = true →
    let raw : Desc := BitVec.ofNat 512 (ofLe (b.take 64))
    let x := s.sq (qKey fn q)
    (entOk fn raw = true → ∃ t e, exec (.entryFetch fn q (.data b)) s = .next t ∧ t.ents = s.ents ++ [e] ∧ e.raw = raw ∧ e.st = .fetched ∧
      e.busy = false ∧ e.fn = fn ∧ e.sq = q ∧ e.idx = x.head ∧ e.launchId = launchIdOf x.wraps x.head ∧ e.uid = s.gfe.nextUid ∧
      e.cq = s.sqCq fn q ∧ e.part = entPart fn raw ∧
      t.sq (qKey fn q) = { x with
        head := if s.sqEntries fn q ≤ x.head + 1 then 0 else x.head + 1, wraps := if s.sqEntries fn q ≤ x.head + 1 then x.wraps + 1 else x.wraps } ∧
      t = { s with ents := t.ents, sqs := t.sqs, gfe := t.gfe, fmu := t.fmu, live := t.live, hdrs := t.hdrs }) ∧
    (entOk fn raw = false → (∀ y, y ∈ s.ents → y.uid < s.gfe.nextUid) → ∃ t e, exec (.entryFetch fn q (.data b)) s = .next t ∧
      t.ents = s.ents ++ [e] ∧ e.uid = s.gfe.nextUid ∧ e.raw = raw ∧ e.st = .done ∧ e.status = ⟨0x0070, 0x000D⟩ ∧
      t = { s with ents := t.ents, sqs := t.sqs, gfe := t.gfe, fmu := t.fmu, live := t.live, hdrs := t.hdrs })) ∧
  (∀ (fn : Fn) (q : Nat) (s : State), s.mayFetch fn q = true →
    (∃ t, exec (.entryFetch fn q .refused) s = .next t ∧ (t.sq (qKey fn q)).state = .broken ∧ (t.sq (qKey fn q)).head = (s.sq (qKey fn q)).head ∧
      t.ents = s.ents) ∧
    (∃ t, exec (.entryFetch fn q .timeout) s = .next t ∧ (t.sq (qKey fn q)).state = .broken ∧ (t.sq (qKey fn q)).head = (s.sq (qKey fn q)).head ∧
      t.ents = s.ents)) ∧
  (∀ (fn : Fn) (q : Nat) (r : HostRd) (s : State), s.mayFetch fn q = false → exec (.entryFetch fn q r) s = .next s) ∧
  (∀ (fn : Fn) (q : Nat) (e : Entry) (s : State), s.entsDistinct = true → s.toPlace fn q = some e → entOpc e.raw = 0 ∨ entOpc e.raw = 2 →
    ∃ t, exec (.signal fn q) s = .next t ∧ (∃ x, x ∈ t.ents ∧ x.uid = e.uid ∧ x.st = .done ∧ x.status = ⟨0, 0⟩) ∧
      (∀ i, i < 65536 → t.sem e.part e.ctx i =
        s.sem e.part e.ctx i - (((entWaitL e.raw).filter fun w => w.sem && w.idx == i).map (·.val)).sum) ∧
      (∀ k, k / 65536 ≠ e.part * 8 + e.ctx → Tbl.get 0 t.sems k = Tbl.get 0 s.sems k) ∧
      (∀ x, x ∈ s.ents → x.uid ≠ e.uid → x ∈ t.ents) ∧ t = { s with ents := t.ents, sems := t.sems, gfe := t.gfe }) ∧
  (∀ (fn : Fn) (q : Nat) (s : State), s.toPlace fn q = none → exec (.signal fn q) s = .next s) ∧
  (∀ (p c i v : Nat) (s : State), v < 2 ^ 46 →
    (s.signalSlot p c ⟨false, i, v⟩).fence p c i = max (s.fence p c i) v ∧ (s.signalSlot p c ⟨true, i, v⟩).sem p c i = min (s.sem p c i + v) 0xFFFFFFFF ∧
    (s.signalSlot p c ⟨false, i, v⟩).sems = s.sems ∧ (s.signalSlot p c ⟨true, i, v⟩).fences = s.fences)

/-- Completion (R221, R224, R228, R453): with no write fault, the oldest completed entry of an enabled CQ that is not BROKEN leaves with its
token records, its signals made and one slot of the ring taken; QUIET, with no records and the function a bus master, the one message
out is the CQ entry at the tail. A fault at the entry's write, which ATS must be on to show, leaves the CQ BROKEN and the entry held, its
signals made and not to be made again; a fault at the token ring, with records to write, leaves it BROKEN and the entry as it was. REARM
of a BROKEN CQ without a fault clears BROKEN and writes everything held; with a fault at the first write the CQ is BROKEN again and the
entry still held; of a CQ that is not BROKEN it does nothing. Deadlock (R221 to R223): in a deadlocked set every SQ waits, and each of its unmet
waits has a helper and none outside the set. A walk that is due counts itself; finding no set it changes nothing else, else every SQ of it is
FAILED and GFE raises DEADLOCK; no fence or semaphore changes. Flushing a FAILED SQ leaves it NORMAL with no entry of it waiting to be placed. -/
def Obligations.EntriesCompleteOrDeadlock : Prop :=
  (∀ (fn : Fn) (q : Nat) (e : Entry) (s : State), s.up = true → s.sage.fatal = none → qOk fn q = true → (s.cq (qKey fn q)).enabled = true →
    (s.cq (qKey fn q)).broken = false → s.doneOf fn q = some e →
    (s.writeFaults fn false = false →
      ∃ t, exec (.completionEntry fn q .none) s = .next t ∧ t.ents = s.ents.filter (fun x => x.uid != e.uid) ∧ t.relOf e.uid = [] ∧
        (t.cq (qKey fn q)).used = (s.cq (qKey fn q)).used + 1 ∧ (t.cq (qKey fn q)).trUsed = (s.cq (qKey fn q)).trUsed + (s.relOf e.uid).length ∧
        t.fences = (s.signalEnt e).fences ∧ t.sems = (s.signalEnt e).sems ∧
        (t.cq (qKey fn q)).tail = (if s.cqEntries fn q ≤ (s.cq (qKey fn q)).tail + 1 then 0 else (s.cq (qKey fn q)).tail + 1) ∧
        (t.cq (qKey fn q)).phase = (if s.cqEntries fn q ≤ (s.cq (qKey fn q)).tail + 1 then !(s.cq (qKey fn q)).phase else (s.cq (qKey fn q)).phase) ∧
        (s.relOf e.uid = [] → s.bme fn = true → entFlag e.raw 2 = true → t.out = s.out ++
          [.hostWrite fn (s.cqBase fn q + s.cqeSize * (s.cq (qKey fn q)).tail) (s.cqeBytes (s.cq (qKey fn q)).phase (s.cqeOf e)) false false]) ∧
        t.mem = s.mem ∧ t.sqs = s.sqs) ∧
    (s.atsOn fn = true →
      ∃ t, exec (.completionEntry fn q .cqEntry) s = .next t ∧ (t.cq (qKey fn q)).broken = true ∧ (t.cq (qKey fn q)).cqFault = true ∧
        (∃ x, x ∈ t.ents ∧ x.uid = e.uid ∧ x.st = .done ∧ x.noSig = true) ∧ t.fences = (s.signalEnt e).fences ∧ t.sems = (s.signalEnt e).sems) ∧
    (s.atsOn fn = true → s.relOf e.uid ≠ [] →
      ∃ t, exec (.completionEntry fn q .tokenRing) s = .next t ∧ (t.cq (qKey fn q)).broken = true ∧ (t.cq (qKey fn q)).trFault = true ∧
        t.ents = s.ents ∧ t.emit.rel = s.emit.rel ∧ t.fences = s.fences ∧ t.sems = s.sems)) ∧
  (∀ (fn : Fn) (q : Nat) (s : State), s.up = true → qOk fn q = true → (s.cq (qKey fn q)).broken = true → s.writeFaults fn false = false →
    ∃ u : State, exec (.rearm fn q none) s = .next u.drainNotices ∧ (u.cq (qKey fn q)).broken = false ∧ (u.cq (qKey fn q)).cqFault = false ∧
      (u.cq (qKey fn q)).trFault = false ∧ u.doneOf fn q = none ∧ u.mem = s.mem ∧ u.gfe.notices = s.gfe.notices) ∧
  (∀ (fn : Fn) (q : Nat) (e : Entry) (s : State), s.up = true → qOk fn q = true → (s.cq (qKey fn q)).broken = true → s.atsOn fn = true →
    s.doneOf fn q = some e →
    ∃ t, exec (.rearm fn q (some 0)) s = .next t ∧ (t.cq (qKey fn q)).broken = true ∧ (∃ x, x ∈ t.ents ∧ x.uid = e.uid ∧ x.st = .done)) ∧
  (∀ (fn : Fn) (q : Nat) (f : Option Nat) (s : State), (s.cq (qKey fn q)).broken = false → exec (.rearm fn q f) s = .next s) ∧
  (∀ (p : Nat) (s : State), ∀ x, x ∈ s.deadlocked p → s.unmet x ≠ [] ∧ ∀ w, w ∈ s.unmet x →
    (∃ h, h ∈ s.deadlocked p ∧ s.helps w h = true) ∧ (∀ h, h ∈ s.heldSqs → s.helps w h = true → h ∈ s.deadlocked p)) ∧
  (∀ (p : Nat) (s : State), s.running = true → s.served p = true → s.partHalted p = false → s.sage.stewardRst = false → s.walkDue p = true → s.entsDistinct = true →
    (s.deadlocked p = [] → ∃ t, exec (.deadlockWalk p) s = .next t ∧ t = { s with live := (s.bump pgGFE 0x060 1).live, sage := t.sage } ∧
      t.sage = { s.sage with lastWalk := Tbl.set s.sage.lastWalk p s.time.now }) ∧
    (s.deadlocked p ≠ [] → ∃ t, exec (.deadlockWalk p) s = .next t ∧ (∀ x, x ∈ s.deadlocked p → (t.sq (qKey x.1 x.2)).state = .failed) ∧
      bitOf (t.hdr pgGFE).intStat 1 = true ∧ t.fences = s.fences ∧ t.sems = s.sems ∧
      t = { s with sqs := t.sqs, ents := t.ents, live := t.live, sage := { s.sage with lastWalk := t.sage.lastWalk }, hdrs := t.hdrs,
                   pcie := t.pcie, out := t.out })) ∧
  (∀ (fn : Fn) (q : Nat) (s : State), s.up = true → qOk fn q = true → (s.sq (qKey fn q)).state = .failed →
    ∃ t, exec (.sqFlush fn q) s = .next t ∧ t.sq (qKey fn q) = { s.sq (qKey fn q) with state := .normal } ∧
      (∀ k, k ≠ qKey fn q → t.sq k = s.sq k) ∧ (∀ e, e ∈ t.ents → ¬(e.fn = fn ∧ e.sq = q ∧ e.st = .fetched)) ∧
      t = { s with sqs := t.sqs, ents := t.ents, live := t.live })

/-- Plans (R196, R197, R200, R201, R203, R205). A LOAD next to place, with a handle free: an image that reads and passes every check becomes
resident under the lowest free handle and completes with OK; one whose header fails, or that fails a later check, completes with PLAN_INVALID
and that check's sub-status; a read that fails completes with its error. UNLOAD marks a resident plan and completes 0x000E where none has the
handle; a marked plan that no placed launch uses goes, and its UNLOAD completes; one in use stays. A PATCH from a PF queue of a plan that
a context runs waits for the step edge, of another takes effect at once; from a VF queue, of an unknown ID or of a value too long
it completes with 0x000A, and of no resident plan with 0x000E. The contract level goes from 2 to 1 only with no plan loaded
and nothing placed since reset; any other write of it is ignored and counted. -/
def Obligations.PlansLoadAndUnload : Prop :=
  (∀ (fn : Fn) (q h : Nat) (e : Entry) (r : RdRes) (u s : State), s.toPlace fn q = some e → entOpc e.raw = 4 → s.freeHandle e.part = some h →
    let va := entOperand e.raw 0 % 2 ^ 49
    (s.takeHead fn q e).readVa .store false (entAcc e) va 256 = (r, u) →
    (∀ f, r.use va = .error f → exec (.load fn q) s = .next (u.entDone e.uid f.err)) ∧
    (∀ hd, r.use va = .ok hd → hdrImageOk hd = false ∨ aligned va 64 = false → exec (.load fn q) s = .next (u.entDone e.uid ⟨0x0070, 1⟩)) ∧
    (∀ (hd b : Bytes) (r2 : RdRes) (u2 : State), r.use va = .ok hd → hdrImageOk hd = true → aligned va 64 = true →
      u.readVa .store false (entAcc e) va (fld hd 40 8) = (r2, u2) → r2.use va = .ok b →
      (u2.loadFail e.part va b (planAt e.part e.ctx h va b) = none → u2.ent e.uid = some e → ∃ t, exec (.load fn q) s = .next t ∧
        t.plans = u2.plans ++ [planAt e.part e.ctx h va b] ∧
        (∃ x, x ∈ t.ents ∧ x.uid = e.uid ∧ x.st = .done ∧ x.status = ⟨0, 0⟩ ∧ x.planH = h) ∧
        t = { u2 with plans := t.plans, gfe := { u2.gfe with planLoaded := true }, sec := { u2.sec with meas := t.sec.meas }, ents := t.ents }) ∧
      (∀ sub, u2.loadFail e.part va b (planAt e.part e.ctx h va b) = some sub →
        exec (.load fn q) s = .next (u2.entDone e.uid ⟨0x0070, BitVec.ofNat 16 sub⟩)))) ∧
  (∀ (fn : Fn) (q : Nat) (e : Entry) (s : State), s.toPlace fn q = some e → entOpc e.raw = 5 →
    (∀ pl, s.namedPlan e = some pl → ∃ t, exec (.unload fn q) s = .next t ∧
      (∀ x, x ∈ t.plans → x.part = e.part → x.ctx = s.activeCtx e.part → x.handle = pl.handle → x.steps = [] → x.unloading = true) ∧
      (∀ x, x ∈ t.ents → x.uid = e.uid → x.busy = true ∧ x.planH = pl.handle) ∧
      t = { s with sems := t.sems, gfe := t.gfe, plans := t.plans, ents := t.ents }) ∧
    (s.namedPlan e = none → exec (.unload fn q) s = .next ((s.takeHead fn q e).entDone e.uid ⟨0x0070, 0x000E⟩))) ∧
  (∀ (p h : Nat) (q : Plan) (s : State), s.entsDistinct = true → s.planOf p h = some q → s.running = true → q.unloading = true →
    s.planInUse p h = false →
    ∃ t, exec (.unloadComplete p h) s = .next t ∧ t.plans = s.plans.filter (fun x => !(x.part == p && x.ctx == q.ctx && x.handle == h)) ∧
      (∀ e, e ∈ s.ents → e.part = p → e.busy = true → entOpc e.raw = 5 → e.planH = h →
        ∃ x, x ∈ t.ents ∧ x.uid = e.uid ∧ x.st = .done ∧ x.status = ⟨0, 0⟩) ∧
      t = { s with plans := t.plans, ents := t.ents, sec := { s.sec with meas := t.sec.meas } }) ∧
  (∀ (p h : Nat) (s : State), s.planInUse p h = true → exec (.unloadComplete p h) s = .next s) ∧
  (∀ (q : Nat) (e : Entry) (pl : Plan) (t0 : PatchPt) (s : State), s.toPlace .pf q = some e → entOpc e.raw = 6 → s.namedPlan e = some pl →
    pl.patches.find? (fun x => x.id == byteFld e.raw 6 2) = some t0 → patchLenOk t0.kind (BitVec.ofNat 64 (byteFld e.raw 8 8)) = true →
    (s.planRuns e.part pl.handle = true → s.ent e.uid = some e →
      ∃ t, exec (.patch .pf q) s = .next t ∧ t.mem = s.mem ∧
        t.plans = s.plans.map (fun x => if x.part = e.part ∧ x.ctx = s.activeCtx e.part ∧ x.handle = pl.handle ∧ x.steps = [] then
          { x with pendPatch := x.pendPatch ++ [(byteFld e.raw 6 2, BitVec.ofNat 64 (byteFld e.raw 8 8))] } else x) ∧
        (∃ x, x ∈ t.ents ∧ x.uid = e.uid ∧ x.st = .done ∧ x.status = ⟨0, 0⟩) ∧
        t = { s with plans := t.plans, ents := t.ents, sems := t.sems, gfe := t.gfe, sec := { s.sec with meas := t.sec.meas } }) ∧
    (s.planRuns e.part pl.handle = false →
      exec (.patch .pf q) s = .next ((((s.takeHead .pf q e).patchPlan pl [] [(byteFld e.raw 6 2, BitVec.ofNat 64 (byteFld e.raw 8 8))]).measureOpen
        (measPlan e.part) 0x31 [pl.handle, byteFld e.raw 6 2, byteFld e.raw 8 8 % 2 ^ 64]).entDone e.uid ⟨0, 0⟩))) ∧
  (∀ (q : Nat) (e : Entry) (s : State), s.toPlace .pf q = some e → entOpc e.raw = 6 →
    (s.namedPlan e = none → exec (.patch .pf q) s = .next ((s.takeHead .pf q e).entDone e.uid ⟨0x0070, 0x000E⟩)) ∧
    (∀ pl, s.namedPlan e = some pl →
      (∀ t0, pl.patches.find? (fun x => x.id == byteFld e.raw 6 2) = some t0 → patchLenOk t0.kind (BitVec.ofNat 64 (byteFld e.raw 8 8)) = false) →
      exec (.patch .pf q) s = .next ((s.takeHead .pf q e).entDone e.uid ⟨0x0070, 0x000A⟩))) ∧
  (∀ (p q : Nat) (e : Entry) (s : State), s.toPlace (.vf p) q = some e → entOpc e.raw = 6 →
    exec (.patch (.vf p) q) s = .next ((s.takeHead (.vf p) q e).entDone e.uid ⟨0x0070, 0x000A⟩)) ∧
  (∀ (v : W64) (s : State), s.up = true →
    (s.gfe.level = 2 → bits v 1 0 = 1 → s.plans = [] → s.gfe.placedAny = false →
      exec (.contractWrite v) s = .next { s with gfe := { s.gfe with level := 1 } }) ∧
    (s.gfe.level ≠ 2 ∨ bits v 1 0 ≠ 1 ∨ s.plans ≠ [] ∨ s.gfe.placedAny = true → exec (.contractWrite v) s = .next (s.countErr pgGFE)))

/-- Launches (R214 to R216, R220, R229). A launch that is the next to place, of a resident plan, and that passes every check is placed: it takes the
next step number, its bucket and START, its place in the sequencers of its clusters, and its constants are kept; the context's next step
number goes up by one. One whose plan is not resident completes with PLAN_INVALID 0x000E, and one that fails a check with that check's
status: refused, they consume no step number and take nothing from a semaphore. A partition whose slice is done, or that has no placeable launch
while another tenant context has one, and none placed and not completed, passes to the next context with an enabled SQ or an entry that waits, in
round robin; else nothing switches. -/
def Obligations.LaunchesArePlaced : Prop :=
  (∀ (fn : Fn) (q b : Nat) (e : Entry) (pl : Plan) (s : State), s.toPlace fn q = some e → entOpc e.raw = 1 → s.namedPlan e = some pl →
    s.launchCheck e pl = .ok b →
    ∃ t v : State, exec (.launchPlace fn q) s = .next t ∧ t = s.place fn q e pl b ∧
      (v.ctx e.part).nextStep = (s.ctx e.part).nextStep + 1 ∧ v.gfe.placedAny = true ∧
      (∀ x, x ∈ v.ents → x.uid = e.uid → x.st = .placed ∧ x.step = some (s.ctx e.part).nextStep ∧ x.bucket = b ∧ x.planH = pl.handle ∧
        x.start = s.time.now) ∧
      (∀ k, k ∈ (s.clustersOf e.part).take pl.clusters → e.uid ∈ (v.seq k).launches) ∧
      t = (if (v.ctx e.part).cur = (s.ctx e.part).nextStep then v.checkSlot e.part else v).openIfDue e.part ∧
      v.plans = s.plans ∧ v.mem = s.mem) ∧
  (∀ (fn : Fn) (q : Nat) (e : Entry) (s : State), s.toPlace fn q = some e → entOpc e.raw = 1 → s.ent e.uid = some e →
    (s.namedPlan e = none →
      ∃ t, exec (.launchPlace fn q) s = .next t ∧ (∃ x, x ∈ t.ents ∧ x.uid = e.uid ∧ x.st = .done ∧ x.status = ⟨0x0070, 0x000E⟩) ∧
        t = { s with ents := t.ents, live := t.live }) ∧
    (∀ pl er, s.namedPlan e = some pl → s.launchCheck e pl = .error er →
      ∃ t, exec (.launchPlace fn q) s = .next t ∧ (∃ x, x ∈ t.ents ∧ x.uid = e.uid ∧ x.st = .done ∧ x.status = er) ∧
        t = { s with ents := t.ents, live := t.live })) ∧
  (∀ (fn : Fn) (q : Nat) (s : State), s.toPlace fn q = none → exec (.launchPlace fn q) s = .next s) ∧
  (∀ (p : Nat) (s : State), s.running = true → s.served p = true →
    (∀ e, e ∈ s.ents → e.part = p → e.st ≠ .placed ∧ e.st ≠ .running) →
    s.sliceDone p = true ∨ ((∀ x, x ∈ sqsFor p → s.launchHead x.1 x.2 = none) ∧ s.otherWaits p = true) →
    ∃ t, exec (.contextSwitch p) s = .next t ∧ t.activeCtx p = s.nextCtx p ∧ (t.ctx p).slicePlaced = 0 ∧
      (s.nextCtx p ≠ s.activeCtx p → t.savedCtx p (s.activeCtx p) = s.ctx p ∧ t.ctx p = { s.savedCtx p (s.nextCtx p) with slicePlaced := 0 }) ∧
      (∀ k, k ≠ p → t.ctx k = s.ctx k ∧ t.coord k = s.coord k ∧ t.activeCtx k = s.activeCtx k) ∧
      (∀ k, k ∈ s.coresOf p → (t.core k).rc = []) ∧
      t = { s with saved := t.saved, ctxs := t.ctxs, coords := t.coords, rf := t.rf, gfe := { s.gfe with activeCtx := t.gfe.activeCtx },
                   xlats := t.xlats, cores := t.cores, live := t.live }) ∧
  (∀ (p : Nat) (s : State), s.running = false ∨ s.served p = false ∨ (∃ e, e ∈ s.ents ∧ e.part = p ∧ (e.st = .placed ∨ e.st = .running)) ∨
      (s.sliceDone p = false ∧ s.otherWaits p = false) →
    exec (.contextSwitch p) s = .next s)

/-- HOST_COPY (R211, R213, R226, R424, R430). A copy that is the next to place starts: from the host, the bytes that its read returned are written to the
store through the entry's translation; to the host, the bytes of the store leave as one bulk write with Relaxed Ordering, or with the
function's address refused a fault is kept for the completion. A store access that faults completes the entry with its error; a host read that
is refused or late completes it with HOST_FAULT 2 or 3 and records the host address. A copy in progress completes with OK, or, to the host with a
fault at a write that ATS showed, with HOST_FAULT 1. With no copy to start or to complete nothing changes. -/
def Obligations.HostCopies : Prop :=
  (∀ (fn : Fn) (q : Nat) (e : Entry) (s : State), s.toPlace fn q = some e → entOpc e.raw = 3 →
    let len := byteFld e.raw 4 4
    let va := entOperand e.raw 1 % 2 ^ 49
    let s0 := (s.takeHead fn q e).modEnt e.uid fun x => { x with busy := true, start := s.time.now }
    (∀ x, x ∈ s0.ents → x.uid = e.uid → x.busy = true ∧ x.start = s.time.now) ∧
    (∀ (b : Bytes) (u : State), entFlag e.raw 0 = false → b.length = len →
      (((s0.hostGet fn (entOperand e.raw 0) len).writeVa .store false (entAcc e) va b) = (none, u) → exec (.hostCopy fn q (.data b)) s = .next u) ∧
      (∀ f, ((s0.hostGet fn (entOperand e.raw 0) len).writeVa .store false (entAcc e) va b) = (some f, u) →
        exec (.hostCopy fn q (.data b)) s = .next (u.entDone e.uid f.err))) ∧
    (entFlag e.raw 0 = false →
      exec (.hostCopy fn q .refused) s = .next (s0.copyReadFault e 2) ∧ exec (.hostCopy fn q .timeout) s = .next (s0.copyReadFault e 3)) ∧
    (∀ (rd : HostRd) (r : RdRes) (u : State), entFlag e.raw 0 = true → s0.readVa .store false (entAcc e) va len = (r, u) →
      (∀ b, r.use va = .ok b → u.writeFaults fn false = false → u.bme fn = true →
        ∃ t, exec (.hostCopy fn q rd) s = .next t ∧ t.out = u.out ++ [.hostWrite fn (entOperand e.raw 0) b true false] ∧
          t = { u with out := t.out, live := t.live, pcie := t.pcie }) ∧
      (∀ b, r.use va = .ok b → u.writeFaults fn false = true →
        exec (.hostCopy fn q rd) s = .next (u.modEnt e.uid fun x => { x with wrFault := true })) ∧
      (∀ f, r.use va = .error f → exec (.hostCopy fn q rd) s = .next (u.entDone e.uid f.err)))) ∧
  (∀ (fn : Fn) (q : Nat) (s : State), s.toPlace fn q = none → ∀ rd, exec (.hostCopy fn q rd) s = .next s) ∧
  (∀ (fn : Fn) (q : Nat) (e : Entry) (f : Bool) (s : State), s.entsDistinct = true → s.copying fn q = some e → s.running = true →
    (entFlag e.raw 0 && (e.wrFault || (f && s.atsOn fn))) = false →
    ∃ t, exec (.hostCopyComplete fn q f) s = .next t ∧
      (∃ x, x ∈ t.ents ∧ x.uid = e.uid ∧ x.st = .done ∧ x.status = ⟨0, 0⟩ ∧ x.busy = false ∧ x.start = e.start ∧ x.endT = s.time.now) ∧
      t = { s with ents := t.ents }) ∧
  (∀ (fn : Fn) (q : Nat) (e : Entry) (f : Bool) (s : State), s.entsDistinct = true → s.copying fn q = some e → s.running = true →
    (entFlag e.raw 0 && (e.wrFault || (f && s.atsOn fn))) = true →
    ∃ t, exec (.hostCopyComplete fn q f) s = .next t ∧
      (∃ x, x ∈ t.ents ∧ x.uid = e.uid ∧ x.st = .done ∧ x.status = ⟨0x0061, 1⟩ ∧ x.busy = false ∧ x.start = e.start) ∧
      t.ents = (s.entDone e.uid ⟨0x0061, 1⟩).ents ∧ t.mem = s.mem) ∧
  (∀ (fn : Fn) (q : Nat) (f : Bool) (s : State), s.copying fn q = none → exec (.hostCopyComplete fn q f) s = .next s)

/-- How a KPM operation ends (R239, R246, R256): on an error none of its effect on streams, descriptors and memory stands, and the operation is done
with that error; done, it keeps what its body did; waiting, nothing changes; of an old generation, it is dropped and counted; one that may not
take effect yet leaves everything as it is. Done, it leaves the KPM as KPM_OP_COMPLETE tells whoever posted it; one with an OP that no operation
has leaves it with RUNTIME. What the operations do (R231, R235, R239, R242, R244, R246, R248, R252, R253, Table 11.4), where their body
ends without an error: OPEN opens an empty stream, CLOSE empties it, ALLOC fills the entry with a page and a descriptor of their own, SHARE
gives it the source's, FREE empties it and counts its descriptor down, RESERVE stages positions after COMMIT, or for a discarded attempt
none, ACCEPT says how many of them stay, PIN pins, SPAN pins and changes nothing else of a descriptor, MOVE and PRIVATE begin copies,
PATTERN takes the new pattern. An ALLOC or PRIVATE that already shows its result changes nothing. Complete copies on write move the entry and
the stream's global references to the new descriptor, complete copies of a MOVE give the descriptor its new page, and failed or cut ones are
undone. POOL_ADD adds the pages whose leaf is of the tier and counts the others (R237). -/
def Obligations.KpmOperations : Prop :=
  (∀ (tile id op : Nat) (c : Instr) (o : KOp) (f : Flt) (s : State), (op, c) ∈ kpmCmds tile id → s.kTurn tile id op o →
    s.kBody tile o = .error f →
    ∃ t, exec c s = .next t ∧ t.kop tile id = some { o with st := .done, err := some f.err } ∧
      (t.kpm tile).streams = (s.kpm tile).streams ∧ (t.kpm tile).parts = (s.kpm tile).parts ∧ t.mem = s.mem ∧ t.cb = s.cb) ∧
  (∀ (tile id op : Nat) (c : Instr) (o : KOp) (u s : State), (op, c) ∈ kpmCmds tile id → s.kTurn tile id op o →
    s.kBody tile o = .ok (.done u) → exec c s = .next (u.modKop tile id fun x => { x with st := .done })) ∧
  (∀ (tile id op : Nat) (c : Instr) (o : KOp) (u s : State), (op, c) ∈ kpmCmds tile id → s.kTurn tile id op o →
    s.kBody tile o = .ok (.copying u) → exec c s = .next (u.modKop tile id fun x => { x with st := .reading })) ∧
  (∀ (tile id op : Nat) (c : Instr) (o : KOp) (s : State), (op, c) ∈ kpmCmds tile id → s.kTurn tile id op o →
    s.kBody tile o = .ok .wait → exec c s = .next s) ∧
  (∀ (tile id op : Nat) (c : Instr) (o : KOp) (s : State), (op, c) ∈ kpmCmds tile id → s.running = true → s.kop tile id = some o →
    (kpOf o.raw).op = op → s.kMay tile o = true → s.genLive o.part o.gen = false →
    ∃ t, exec c s = .next t ∧ t.kop tile id = none ∧ (t.kpm tile).streams = (s.kpm tile).streams ∧
      bits (t.stat (pgKPM tile) 0x078) 31 0 = (bits (s.stat (pgKPM tile) 0x078) 31 0 + 1) % 2 ^ 32 ∧ t = { s with kpms := t.kpms, live := t.live }) ∧
  (∀ (tile id op : Nat) (c : Instr) (o : KOp) (s : State), (op, c) ∈ kpmCmds tile id → s.kop tile id = some o → s.kMay tile o = false →
    exec c s = .next s) ∧
  (∀ (tile id : Nat) (o : KOp) (s : State), s.up = true → s.sage.fatal = none → s.kop tile id = some o →
    (o.st = .done → ∃ u : State,
      exec (.kpmOpComplete tile id) s = .next ((u.debugEvent 11 o.part).postDone o.src (uKpm tile) id o.part o.step o.err o.stale) ∧
      u.kop tile id = none ∧ (u.kpm tile).streams = (s.kpm tile).streams ∧ (u.kpm tile).parts = (s.kpm tile).parts ∧
      u = { s with kpms := u.kpms, live := u.live, hdrs := u.hdrs }) ∧
    (o.st = .accepted → s.kMay tile o = true → (kpOf o.raw).op = 0 ∨ 12 < (kpOf o.raw).op → ∃ u : State,
      exec (.kpmOpComplete tile id) s = .next ((u.debugEvent 11 o.part).postDone o.src (uKpm tile) id o.part o.step (some errRuntime) o.stale) ∧
      u.kop tile id = none ∧ (u.kpm tile).streams = (s.kpm tile).streams ∧ (u.kpm tile).parts = (s.kpm tile).parts ∧
      u = { s with kpms := u.kpms, live := u.live, hdrs := u.hdrs })) ∧
  (∀ (tile id : Nat) (o : KOp) (s : State), s.kop tile id = some o → o.st = .reading → (kpOf o.raw).op ≠ 9 →
    exec (.kpmOpComplete tile id) s = .next s) ∧
  (∀ (tile id : Nat) (o : KOp) (u s : State), s.kTurn tile id 1 o → s.kOpen tile o = .ok (.done u) →
    s.kstream tile o.part (kpOf o.raw).stream = none →
    ∃ t k, exec (.kpmOpen tile id) s = .next t ∧ t.kstream tile o.part (kpOf o.raw).stream = some k ∧ k.closing = false ∧ k.commit = 0 ∧
      k.staged = 0 ∧ k.basePos = 0 ∧ k.ring = [] ∧ k.recVa = aoAddr (kpOf o.raw).a0 ∧ k.globals.length = byteFld o.raw 54 1 / 2) ∧
  (∀ (tile id : Nat) (o : KOp) (k0 : KStream) (u s : State), s.kTurn tile id 2 o → s.kOn tile o k0 → s.kClose tile o = .ok (.done u) →
    ∃ t, exec (.close tile id) s = .next t ∧ ∀ k, t.kstream tile o.part (kpOf o.raw).stream = some k →
      k.closing = true ∧ k.ring = [] ∧ ∀ g, g ∈ k.globals → g.2 = none) ∧
  (∀ (tile id : Nat) (o : KOp) (k : KStream) (u s : State), s.kTurn tile id 3 o → s.kOn tile o k → k.basePos ≤ (kpOf o.raw).pos →
    k.covers (kpOf o.raw).pos = true → k.entry (kpOf o.raw).pos = none → s.kAlloc tile o k = .ok (.done u) →
    ∃ t k1 d, exec (.alloc tile id) s = .next t ∧ t.kstream tile o.part (kpOf o.raw).stream = some k1 ∧
      k1.entry (kpOf o.raw).pos = some d ∧ (t.kdesc tile o.part d).firstPos = k.page (kpOf o.raw).pos ∧ (t.kdesc tile o.part d).fill = 0 ∧
      (t.kdesc tile o.part d).refc = 1 + (k.globalsFor (k.page (kpOf o.raw).pos) d).length ∧ k1.commit = k.commit ∧ k1.staged = k.staged) ∧
  (∀ (tile id : Nat) (o : KOp) (k : KStream) (s : State), s.kTurn tile id 3 o → s.kOn tile o k → k.basePos ≤ (kpOf o.raw).pos →
    (k.entry (kpOf o.raw).pos).isSome = true → exec (.alloc tile id) s = .next (s.modKop tile id fun x => { x with st := .done })) ∧
  (∀ (tile id : Nat) (o : KOp) (k src : KStream) (u s : State), s.kTurn tile id 4 o → s.kOn tile o k →
    s.kstream tile o.part (BitVec.ofNat 32 (byteFld o.raw 48 4)) = some src → s.kShare tile o k = .ok (.done u) →
    ∃ t k1, exec (.share tile id) s = .next t ∧ t.kstream tile o.part (kpOf o.raw).stream = some k1 ∧
      ∀ i, i < (kpOf o.raw).n → k1.entry (k.page (kpOf o.raw).pos + i * k.P) = src.entry (k.page (kpOf o.raw).pos + i * k.P)) ∧
  (∀ (tile id : Nat) (o : KOp) (k : KStream) (d : Nat) (u s : State), s.kTurn tile id 5 o → s.kOn tile o k →
    k.page (kpOf o.raw).pos ≠ k.page k.commit → k.entry (kpOf o.raw).pos = some d → s.kFree tile o k = .ok (.done u) →
    ∃ t k1, exec (.free tile id) s = .next t ∧ t.kstream tile o.part (kpOf o.raw).stream = some k1 ∧ k1.entry (kpOf o.raw).pos = none ∧
      (t.kdesc tile o.part d).refc = (s.kdesc tile o.part d).refc - 1 ∧ k1.globals = k.globals ∧ k1.commit = k.commit) ∧
  (∀ (tile id : Nat) (o : KOp) (k : KStream) (s : State), s.kTurn tile id 6 o → s.kOn tile o k → k.basePos ≤ (kpOf o.raw).pos →
    (k.entry (kpOf o.raw).pos).isSome = true → s.needsCow tile o k (kpOf o.raw).pos = none →
    exec (.privatize tile id) s = .next (s.modKop tile id fun x => { x with st := .done })) ∧
  (∀ (tile id d : Nat) (o : KOp) (k : KStream) (u s : State), s.kTurn tile id 6 o → s.kOn tile o k → k.basePos ≤ (kpOf o.raw).pos →
    s.needsCow tile o k (kpOf o.raw).pos = some d → s.cowStart tile o k (k.page (kpOf o.raw).pos) d = .ok (.copying u) →
    ∃ t k1 c, exec (.privatize tile id) s = .next t ∧ t.kstream tile o.part (kpOf o.raw).stream = some k1 ∧ k1.cow = some c ∧ c.op = o.id ∧
      c.old = d ∧ c.entry = k.idx (k.page (kpOf o.raw).pos) ∧ c.move = none ∧ k1.ring = k.ring ∧ (t.kdesc tile o.part d).cow = true) ∧
  (∀ (tile id : Nat) (o : KOp) (k : KStream) (u s : State), s.kTurn tile id 7 o → s.kOn tile o k → s.kReserve tile o k = .ok (.done u) →
    ∃ t k1, exec (.reserve tile id) s = .next t ∧ t.kstream tile o.part (kpOf o.raw).stream = some k1 ∧ k1.commit = k.commit ∧
      (o.stale = false → k1.staged = k.staged + (kpOf o.raw).n ∧ ∃ r, k1.resvs = k.resvs ++ [r] ∧ r.step = o.step ∧ r.attempt = o.attempt ∧
        r.n = (kpOf o.raw).n ∧ r.spec = (kpOf o.raw).spec ∧ r.k = none) ∧
      (o.stale = true → k1.staged = k.staged ∧ k1.resvs = k.resvs)) ∧
  (∀ (tile id : Nat) (o : KOp) (k : KStream) (u s : State), s.kTurn tile id 8 o → s.kOn tile o k → s.kAccept tile o k = .ok (.done u) →
    ∃ t k1 n b, exec (.accept tile id) s = .next t ∧ n < 32 ∧ t.kstream tile o.part (kpOf o.raw).stream = some k1 ∧
      (s.readOp false (kAccStep tile o) (kpOf o.raw).a0 0 4).1.use (aoAddr (kpOf o.raw).a0) = .ok b ∧ n = ofLe b % 32 ∧
      k1 = { k with resvs := k.resvs.map fun v => if v.step == o.step && v.attempt == o.attempt && v.spec then { v with k := some n } else v } ∧
      (k.resvs.any fun v => v.step == o.step && v.attempt == o.attempt && v.spec && decide (n ≤ v.n)) = true) ∧
  (∀ (tile id : Nat) (o : KOp) (k : KStream) (u s : State), s.kTurn tile id 9 o → s.kOn tile o k →
    (s.kSpan tile o k = .ok (.done u) ∨ s.kSpan tile o k = .ok (.copying u)) →
    ∃ t, exec (.span tile id) s = .next t ∧ (t.kpm tile).streams = (s.kpm tile).streams ∧
      ∀ d, (t.kdesc tile o.part d).addr = (s.kdesc tile o.part d).addr ∧ (t.kdesc tile o.part d).refc = (s.kdesc tile o.part d).refc ∧
        ((t.kdesc tile o.part d).pinEpoch = (s.kdesc tile o.part d).pinEpoch ∨ (t.kdesc tile o.part d).pinEpoch = some (BitVec.ofNat 32 o.step))) ∧
  (∀ (tile id : Nat) (o : KOp) (k : KStream) (u s : State), s.kTurn tile id 10 o → s.kOn tile o k → s.kPin tile o k = .ok (.done u) →
    ∃ t, exec (.pin tile id) s = .next t ∧ (t.kpm tile).streams = (s.kpm tile).streams ∧
      ∀ d, t.kdesc tile o.part d = if (k.ring.any fun e => e.2 == d) = true ∧ k.page (kpOf o.raw).pos ≤ (s.kdesc tile o.part d).firstPos ∧
          (s.kdesc tile o.part d).firstPos ≤ byteFld o.raw 48 6 ∧ k.basePos ≤ (s.kdesc tile o.part d).firstPos
        then (s.kdesc tile o.part d).pin o.step else s.kdesc tile o.part d) ∧
  (∀ (tile id d : Nat) (o : KOp) (k : KStream) (u s : State), s.kTurn tile id 11 o → s.kOn tile o k →
    k.entry (kpOf o.raw).pos = some d → s.kMove tile o k = .ok (.copying u) →
    ∃ t k1 c page, exec (.move tile id) s = .next t ∧ t.kstream tile o.part (kpOf o.raw).stream = some k1 ∧ k1.cow = some c ∧
      c.move = some (page, byteFld o.raw 48 1) ∧ k1.ring = k.ring ∧ (t.kdesc tile o.part d).cow = true ∧
      (t.kdesc tile o.part d).addr = (s.kdesc tile o.part d).addr) ∧
  (∀ (tile id : Nat) (o : KOp) (k : KStream) (u s : State), s.kTurn tile id 12 o → s.kOn tile o k → s.kPattern tile o k = .ok (.done u) →
    ∃ t k1, exec (.pattern tile id) s = .next t ∧ t.kstream tile o.part (kpOf o.raw).stream = some k1 ∧
      k1.pattern = BitVec.ofNat 8 (byteFld o.raw 54 1) ∧ k1.wUnits = byteFld o.raw 56 4 ∧ k1.ring = k.ring ∧ k1.commit = k.commit) ∧
  (∀ (tile id : Nat) (o : KOp) (k : KStream) (c : Cow) (s : State), s.running = true → s.kop tile id = some o →
    s.kstream tile o.part (kpOf o.raw).stream = some k → k.cow = some c → c.op = id → o.st = .reading → s.copiesOut tile id = false →
    (∀ u, o.cut = false → o.err = none → s.cowInstall tile o k c = .ok u →
      let o1 := { o with st := .accepted, cowed := o.cowed ++ [c.entry] }
      exec (.cowCopyDone tile id) s = .next ((u.modKop tile id fun _ => o1).kGo tile o1) ∧
        ∃ k1, u.kstream tile o.part (kpOf o.raw).stream = some k1 ∧ k1.cow = none ∧
          (c.move = none → (c.entry, c.new) ∈ k1.ring ∧ ∀ g, g ∈ k1.globals → g.2 = some c.old → c.new = c.old) ∧
          (∀ m, c.move = some m → k1.ring = k.ring ∧ (u.kdesc tile o.part c.old).addr = m.1 ∧ (u.kdesc tile o.part c.old).tier = m.2)) ∧
    (o.cut = true ∨ o.err.isSome = true →
      exec (.cowCopyDone tile id) s = .next ((s.cowUndo tile (kAcc tile o) k c).modKop tile id fun x => { x with st := .done }))) ∧
  (∀ (tile id : Nat) (o : KOp) (s : State), s.kop tile id = some o → s.copiesOut tile id = true → exec (.cowCopyDone tile id) s = .next s) ∧
  (∀ (tile : Nat) (v : W64) (s : State), s.up = true → tile < 8 →
    let p := s.rgN (pgKPM tile) 0x200 % 32
    let pages := (List.range (bits v 23 0)).map fun i => s.kpmReg tile p 2 + 65536 * i
    let good := fun va => match s.leafAt p (s.activeCtx p) va with | some l => l.target == bits v 25 24 | none => false
    ∃ t, exec (.poolAdd tile v) s = .next t ∧
      Tbl.get [] (t.kpart tile p).free (bits v 25 24) = Tbl.get [] (s.kpart tile p).free (bits v 25 24) ++ pages.filter good ∧
      (t.kpm tile).poolReject = (s.kpm tile).poolReject + (pages.filter fun va => !good va).length ∧ t = { s with kpms := t.kpms })

/-- TXU operations (R259, R261, R262, R264, R265, R268, R270). A descriptor that is not in form, an OP of none of the three among them, ends with
RUNTIME. SLOTS of a stage without one opens it with the slots of its table, takes the records that came before it and closes what may close;
it ends with RUNTIME where an entry is not in form, the capacities sum to more than 32,768 or the stage has a SLOTS. A DISPATCH sends its
tokens and then its ENDs, and is then done but for its results; while the next token's results have no room it waits and nothing changes;
it ends with the error that a token meets, RUNTIME for an expert that the map does not hold. PASS_DONE of a closed pass sends its results;
when the origins have accepted all of them it marks the pass done and ends, and until then it waits; of an open or done pass it
ends with RUNTIME. -/
def Obligations.TxuOperations : Prop :=
  (∀ (c id op : Nat) (o : TOp) (i : Instr) (s : State), (op, i) ∈ [(1, Instr.slots c id), (2, .dispatch c id), (3, .passDone c id)] →
    (s.topMay c id op = some o → tpOk o.raw = false → exec i s = .next (s.topDone c o (some errRuntime))) ∧
    (s.topMay c id op = none → exec i s = .next s)) ∧
  (∀ (c id : Nat) (o : TOp) (s : State), s.running = true → s.topOp c id = some o → o.st = .accepted → (tpOf o.raw).op = 0 ∨ 3 < (tpOf o.raw).op →
    exec (.slots c id) s = .next (s.topDone c o (some errRuntime)) ∧ exec (.dispatch c id) s = .next (s.topDone c o (some errRuntime)) ∧
    exec (.passDone c id) s = .next (s.topDone c o (some errRuntime))) ∧
  (∀ (c id : Nat) (o : TOp) (b : Bytes) (u s : State), s.topMay c id 1 = some o → tpOk o.raw = true →
    (∀ g, s.tstage c (tpOf o.raw).stage o.step = some g → g.op = none) →
    s.topRead c o (tpOf o.raw).a0 0 (32 * (tpOf o.raw).n) = (.ok b, u) → u.txus = s.txus →
    let raws : List (BitVec 256) := (tableAt b 0 (tpOf o.raw).n 32).map fun x => BitVec.ofNat 256 (ofLe x)
    let early := ((s.tstage c (tpOf o.raw).stage o.step).map (·.early)).getD []
    (raws.all (slOk c) = true → (raws.map slCap).sum ≤ 32768 → ∃ (v : State) (g : TStage),
      exec (.slots c id) s = .next ((v.each early fun s r => s.placeTok c (tpOf o.raw).stage o.step r).closeAll c (tpOf o.raw).stage o.step) ∧
      v.tstage c (tpOf o.raw).stage o.step = some g ∧ g.op = some id ∧ g.origins = (tpOf o.raw).base ∧ g.early = [] ∧
      g.slots = raws.map (fun x => ⟨x, List.replicate 9 ⟨[], false, false⟩, []⟩) ∧ v = { u with txus := v.txus }) ∧
    (raws.all (slOk c) = false ∨ 32768 < (raws.map slCap).sum → exec (.slots c id) s = .next (u.topDone c o (some errRuntime)))) ∧
  (∀ (c id : Nat) (o : TOp) (g : TStage) (s : State), s.topMay c id 1 = some o → s.tstage c (tpOf o.raw).stage o.step = some g →
    g.op.isSome = true → exec (.slots c id) s = .next (s.topDone c o (some errRuntime))) ∧
  (∀ (c id : Nat) (o : TOp) (mb : Bytes) (u v w s : State), s.topMay c id 2 = some o → tpOk o.raw = true →
    s.sendTokens c o (s.nextTok c o) ((tpOf o.raw).n - s.nextTok c o) = (.ok, u) →
    u.topRead c o (tpOf o.raw).a2 0 (8 * (tpOf o.raw).mapCount) = (.ok mb, v) →
    v.sendEnds c o ((mapHosts mb (tpOf o.raw).mapCount).drop o.sent) = (.ok, w) →
    exec (.dispatch c id) s = .next ((w.modTop c id fun x => { x with st := .done }).retireDispatch c o)) ∧
  (∀ (c id : Nat) (o : TOp) (s : State), s.topMay c id 2 = some o → tpOk o.raw = true → s.nextTok c o < (tpOf o.raw).n →
    ((s.txu c).toks.any fun w => w.op == o.id && w.tok == s.nextTok c o) = false →
    (s.txu c).room (tpOf o.raw).k = false → exec (.dispatch c id) s = .next s) ∧
  (∀ (c id : Nat) (o : TOp) (e : Err) (u s : State), s.topMay c id 2 = some o → tpOk o.raw = true →
    s.sendTokens c o (s.nextTok c o) ((tpOf o.raw).n - s.nextTok c o) = (.fail e, u) →
    exec (.dispatch c id) s = .next (u.topDone c o (some e))) ∧
  (∀ (c : Nat) (o : TOp) (w : TokWait) (ch x gate : Nat) (row : Bytes) (s : State),
    ((tpOf o.raw).mapCount ≤ x → s.sendChoice c o w ch x gate row = (.fail errRuntime, s)) ∧
    (∀ (mb : Bytes) (u : State), x < (tpOf o.raw).mapCount → s.topRead c o (tpOf o.raw).a2 (8 * x) 8 = (.ok mb, u) → (ofLe mb).testBit 31 = false →
      s.sendChoice c o w ch x gate row = (.fail errRuntime, u))) ∧
  (∀ (c id : Nat) (o : TOp) (g : TStage) (x : ESlot) (p : Pass) (s : State), s.topMay c id 3 = some o → tpOk o.raw = true →
    s.tstage c (tpOf o.raw).stage o.step = some g → g.slots[(tpOf o.raw).eslot]? = some x → x.passes[(tpOf o.raw).pass]? = some p →
    (∀ (u : State) (y : TOp), p.closed = true → p.done = false → s.sendResults c o x o.sent (p.rows.drop o.sent) = (.ok, u) → u.topOp c id = some y →
      (p.rows.length ≤ y.acked → exec (.passDone c id) s = .next (((u.modStage c (tpOf o.raw).stage o.step fun g => g.modSlot (tpOf o.raw).eslot fun x =>
        { x with passes := x.passes.modify (tpOf o.raw).pass fun p => { p with done := true } }).topDone c o none).retireSlots c
          (tpOf o.raw).stage o.step)) ∧
      (y.acked < p.rows.length → exec (.passDone c id) s = .next u)) ∧
    (p.closed = false ∨ p.done = true → exec (.passDone c id) s = .next (s.topDone c o (some errRuntime))))

/-- Records between TXUs (R263, R266, R268, R270, R271, R273, R315). A DISPATCH record that comes on a fenced port, or for a partition that is not
bound or not active, is refused with sub-status 3; one that names no current attempt of the cluster's partition is dropped and counted; one
without room waits and the TXU's credit is withheld; else its origin's count goes up and it goes to the lowest open pass of its slot that is
not full, its bytes to that pass's row, or past the last pass is held with SPILL raised; then passes that may close do. An END tells
how many its origin has sent. A result goes to its token's row and is kept once per choice; the last of a token is combined with the
others; one for no waiting token is dropped and counted. The combine of an element starts at +0 and adds each choice's product in order, each
fused multiply-add rounded once. -/
def Obligations.TxuRecords : Prop :=
  (∀ (e c num : Nat) (m : W16) (h tag : BitVec 128) (row : Bytes) (s : State), s.running = true → e < 16 → s.portUp e = true → c < 32 →
    rhKind h = 1 →
    (s.refuses e (rhPart h) = true → exec (.dispatchRecord c ⟨e, m, num⟩ h tag row) s =
      .next (s.respond e ⟨rhPart h, BitVec.ofNat 8 (byteFld h 5 1), m, num, true⟩ (.refusal 3))) ∧
    (s.refuses e (rhPart h) = false → s.ownerOf c ≠ some (rhPart h) ∨ s.recordStep (rhPart h) h = none →
      ∃ t, exec (.dispatchRecord c ⟨e, m, num⟩ h tag row) s = .next t ∧
        bits (t.stat (pgTXU c) 0x078) 31 0 = (bits (s.stat (pgTXU c) 0x078) 31 0 + 1) % 2 ^ 32 ∧ t = { s with live := t.live }) ∧
    (∀ step, s.refuses e (rhPart h) = false → s.ownerOf c = some (rhPart h) → s.recordStep (rhPart h) h = some step →
      ((s.txu c).room 1 = false → exec (.dispatchRecord c ⟨e, m, num⟩ h tag row) s = .next (s.modTxu c fun x => { x with stalled := true })) ∧
      ((s.txu c).room 1 = true → ∃ (u : State) (g : TStage), exec (.dispatchRecord c ⟨e, m, num⟩ h tag row) s =
          .next ((u.placeTok c (rhStage h) step ⟨h, tag, row⟩).closeAll c (rhStage h) step) ∧
        u.tstage c (rhStage h) step = some g ∧
        g.heard = hear (((s.tstage c (rhStage h) step).map (·.heard)).getD []) m (tagTxu tag) (fun o => { o with got := o.got + 1 }) ∧
        u = { s with live := u.live, hdrs := u.hdrs, txus := u.txus }))) ∧
  (∀ (c stage step i : Nat) (r : TEarly) (g : TStage) (x : ESlot) (p : Pass) (u s : State), s.tstage c stage step = some g →
    g.slots[rhEslot r.hdr]? = some x →
    (x.passes.findIdx? fun p => !p.closed && decide (p.rows.length < slCap x.raw)) = some i → x.passes[i]? = some p →
    let n := rhH r.hdr * elemBytes (rhDfmt r.hdr)
    (if i = 0 then s else s.bumpEv (pgTXU c) (0x600 + 4 * rhEslot r.hdr) 1).writeOp
      ⟨rhPart r.hdr, s.activeCtx (rhPart r.hdr), some step, c / 4, 4 * c, false⟩
      (slIn x.raw) ((i * slCap x.raw + p.rows.length) * n) ((r.row ++ List.replicate (n - r.row.length) 0).take n) = (none, u) →
    s.placeTok c stage step r = u.modStage c stage step fun g => g.modSlot (rhEslot r.hdr) fun x =>
      { x with passes := x.passes.modify i fun q => { q with rows := q.rows ++ [r.tag] } }) ∧
  (∀ (c stage step : Nat) (r : TEarly) (g : TStage) (x : ESlot) (s : State), s.tstage c stage step = some g →
    g.slots[rhEslot r.hdr]? = some x → (∀ p, p ∈ x.passes → p.closed = true ∨ slCap x.raw ≤ p.rows.length) →
    ∃ (t : State) (g1 : TStage) (x1 : ESlot), s.placeTok c stage step r = t ∧ t.tstage c stage step = some g1 ∧
      g1.slots[rhEslot r.hdr]? = some x1 ∧ x1 = { x with held := x.held ++ [r.tag] } ∧ bitOf (t.hdr (pgTXU c)).intStat 0 = true) ∧
  (∀ (e c k num : Nat) (m : W16) (h : BitVec 128) (s : State), s.running = true → e < 16 → s.portUp e = true → c < 32 → rhKind h = 3 →
    s.refuses e (rhPart h) = false →
    (∀ step, s.ownerOf c = some (rhPart h) → s.recordStep (rhPart h) h = some step →
      ∃ (u : State) (g : TStage), exec (.endRecord c ⟨e, m, num⟩ k h) s = .next (u.closeAll c (rhStage h) step) ∧ u.tstage c (rhStage h) step = some g ∧
        (∃ o, o ∈ g.heard ∧ o.module = m ∧ o.cluster = k ∧ o.endCount = some (rhCount h)) ∧
        u = { s with hdrs := u.hdrs, txus := u.txus }) ∧
    (s.ownerOf c ≠ some (rhPart h) ∨ s.recordStep (rhPart h) h = none → exec (.endRecord c ⟨e, m, num⟩ k h) s = .next (s.staleDrop c))) ∧
  (∀ (c step : Nat) (h tag : BitVec 128) (row : Bytes) (w : TokWait) (o : TOp) (u s : State), s.running = true → c < 32 → rhKind h = 2 →
    s.ownerOf c = some (rhPart h) → s.recordStep (rhPart h) h = some step →
    ((s.txu c).toks.find? fun w => w.oslot == tagSlot tag && !w.combined) = some w → s.topOp c w.op = some o → o.step = step →
    tagChoice tag < w.k → w.results.any (fun x => x.1 == tagChoice tag) = false →
    let n := 4 * (tpOf o.raw).h
    let b := (row ++ List.replicate (n - row.length) 0).take n
    let w1 := { w with results := w.results ++ [(tagChoice tag, tagGate tag, rowWords (tpOf o.raw).h b)] }
    ((((s.resultHeard c ⟨h, tag, row⟩).bumpHi (pgTXU c) 0x050 1).progress (pgTXU c) 1).writeOp (s.topAcc c o) (tpOf o.raw).a3
      ((w.tok * (tpOf o.raw).k + tagChoice tag) * (tpOf o.raw).h * 4) b) = (none, u) →
    let v := u.modTxu c fun x => { x with toks := x.toks.map fun y => if y.op = w.op ∧ y.tok = w.tok then w1 else y }
    (w.results.length + 1 ≠ (tpOf o.raw).k → exec (.resultRecord c h tag row) s = .next v) ∧
    (w.results.length + 1 = (tpOf o.raw).k → exec (.resultRecord c h tag row) s = .next (v.combine c o w1))) ∧
  (∀ (c : Nat) (h tag : BitVec 128) (row : Bytes) (s : State), s.running = true → c < 32 → rhKind h = 2 →
    ((s.txu c).toks.find? fun w => w.oslot == tagSlot tag && !w.combined) = none →
    exec (.resultRecord c h tag row) s = .next ((s.resultHeard c ⟨h, tag, row⟩).staleDrop c)) ∧
  (combineElem []).1 = .fin false 0 0 ∧
  (∀ (l : List (FVal × FVal)) (x : FVal × FVal), (combineElem (l ++ [x])).1 = (roundVec fp32 false (exactFma x.1 x.2 (combineElem l).1)).1)

/-- A layer's rewind (R280 to R285, R477). LAYER_MARK takes the oldest step in which the layer may be marked, which asks that no record of the step
is queued or running; it keeps the counters of the cores that have begun the attempt and gives the layer to the sequencers; with no such step
nothing changes. A WIDEN_REQ of the open attempt, for a layer with a wider variant and with no order of an earlier or the same layer in
progress, makes the coordinator order one position wider than the layer stands; else it is ignored. A participant acts on an order of the
running attempt once: it notes it, and no record of the layer or a later one stays queued; an order it has seen is ignored. It says DRAINED
once, when nothing of the layer is left, or at once where its bucket holds no such layer. With every participant drained the coordinator sends RESUME.
At RESUME a participant has the layer in its new variant, its sequencers placing and its cores' counters as the mark kept them; one without
the layer only ends its rewind. The numeric event ring's control (R292, R453, R454): enabled empty with PHASE 1 where its size is 64
to 65,536, else the error is noted and it stays disabled; disabled; re-armed where it is BROKEN, else left as it is. -/
def Obligations.RewindsAndNumericEvents : Prop :=
  (∀ (p layer n : Nat) (l : LayerEnt) (s : State), s.running = true → (s.ctx p).running = true → (s.ctx p).frozen = false →
    ([(s.ctx p).cur, (s.ctx p).cur + 1, (s.ctx p).cur + 2].find? fun n => s.mayMark p n layer) = some n →
    ((s.layersOf p n).find? fun l => l.layer == layer) = some l →
    ∃ t, exec (.layerMark p layer) s = .next t ∧ t.ctx p = { s.ctx p with marks := (s.ctx p).marks ++ [s.markOf p n layer] } ∧
      (∀ q, q ≠ p → t.ctx q = s.ctx q) ∧ (∀ k, k ∈ s.clustersOf p → (t.seq k).markLayer = layer ∧ (t.seq k).markOp = l.firstOp) ∧
      t = { s with ctxs := t.ctxs, seqs := t.seqs, live := t.live }) ∧
  (∀ (p layer : Nat) (s : State), (∀ n, (s.ctx p).cur ≤ n → n ≤ (s.ctx p).cur + 2 → s.mayMark p n layer = false) →
    exec (.layerMark p layer) s = .next s) ∧
  (∀ (p n layer k : Nat) (s : State), (s.mayMark p n layer = true → s.stepDrained p n = true ∧ s.widenable p n layer = true) ∧
    (k ∈ s.coresOf p → n = (s.ctx p).cur → (s.seq (coreCluster k)).begun = true → (k, (s.core k).dc) ∈ (s.markOf p n layer).dcs)) ∧
  (∀ (p : Nat) (m : Msg32) (v : Variant) (s : State), s.up = true → s.coordOf (byteFld m 0 2) = some p → wType m = 0x10 →
    (s.coord p).open_ = true → wStep m = (s.coord p).step → wAttempt m = (s.coord p).attempt →
    (∀ o, (s.coord p).order = some o → layerRank (s.layersOf p (s.coord p).step) (wLayer m) < layerRank (s.layersOf p (s.coord p).step) o.2.1) →
    s.chainOf p (s.coord p).step (wLayer m) (wAxis m) = some v →
    (s.coordPos p v < v.base + v.count → ∃ (u : State) (q : Msg32), exec (.widenReq m) s = .next (u.orderIn p q) ∧
      q = widenMsg 0x11 (s.jobId p) s.moduleId p (s.part p).gen (wAxis m) (s.coordPos p v + 1) (s.coord p).step (s.coord p).attempt
        ((s.coord p).seq + 1) (wLayer m) s.time.now ∧
      u.out = s.out ++ [.job p q] ∧ (u.coord p).order = some ((s.coord p).seq + 1, wLayer m, wAxis m, s.coordPos p v + 1) ∧
      (u.coord p).seq = (s.coord p).seq + 1 ∧ (u.coord p).drained = [] ∧ u = { s with coords := u.coords, out := u.out }) ∧
    (v.base + v.count ≤ s.coordPos p v → exec (.widenReq m) s = .next s)) ∧
  (∀ (p : Nat) (m : Msg32) (o : Nat × Nat × Nat × Nat) (s : State), s.coordOf (byteFld m 0 2) = some p → (s.coord p).order = some o →
    layerRank (s.layersOf p (s.coord p).step) o.2.1 ≤ layerRank (s.layersOf p (s.coord p).step) (wLayer m) → exec (.widenReq m) s = .next s) ∧
  (∀ (p : Nat) (m : Msg32) (s : State), s.up = true → s.partOf (byteFld m 0 2) = some p → wType m = 0x11 →
    BitVec.ofNat 16 (byteFld m 2 2) = s.coordId p → (s.ctx p).bound = true → (s.ctx p).coordLost = false → (s.ctx p).frozen = false →
    (s.ctx p).running = true → (s.ctx p).pend = none → wStep m = (s.ctx p).cur → wAttempt m = (s.ctx p).attempt →
    (∀ r, (s.ctx p).rewind = some r → r.seq < wSeq m) → (s.ctx p).seqDone < wSeq m →
    let ls := s.layersOf p (s.ctx p).cur
    ∃ t, exec (.widenOrder m) s = .next t ∧ (t.ctx p).rewind = some ⟨wSeq m, wLayer m, wAxis m, wPos m, false, (ls.find? fun l => l.layer == wLayer m).isNone⟩ ∧
      (t.ctx p).cur = (s.ctx p).cur ∧ (t.ctx p).attempt = (s.ctx p).attempt ∧ (t.ctx p).running = true ∧
      ((ls.find? fun l => l.layer == wLayer m).isSome = true → ∀ k, k ∈ s.coresOf p → ∀ e, e ∈ (t.core k).queues → ∀ q, q ∈ e.2 →
        q.step = (s.ctx p).cur → layerRank ls q.layer < layerRank ls (wLayer m)) ∧
      ((ls.find? fun l => l.layer == wLayer m).isNone = true → t = { s with ctxs := t.ctxs })) ∧
  (∀ (p : Nat) (m : Msg32) (s : State), s.partOf (byteFld m 0 2) = some p →
    wSeq m ≤ (s.ctx p).seqDone ∨ (∃ r, (s.ctx p).rewind = some r ∧ wSeq m ≤ r.seq) → exec (.widenOrder m) s = .next s) ∧
  (∀ (p : Nat) (r : Rewind) (s : State), s.running = true → (s.ctx p).frozen = false → (s.ctx p).rewind = some r → r.drained = false →
    (r.absent = true ∨ s.rewindDrained p r = true → ∃ t, exec (.drainedSend p) s = .next t ∧
      (t.ctx p).rewind = some { r with drained := true } ∧
      t.out = s.out ++ [.job p (widenMsg 0x12 (s.jobId p) s.moduleId p (s.part p).gen r.axis r.pos (s.ctx p).cur (s.ctx p).attempt r.seq r.layer s.time.now)] ∧
      t = { s with ctxs := t.ctxs, out := t.out }) ∧
    (r.absent = false → s.rewindDrained p r = false → exec (.drainedSend p) s = .next s)) ∧
  (∀ (p : Nat) (r : Rewind) (s : State), (s.ctx p).rewind = some r → r.drained = true → exec (.drainedSend p) s = .next s) ∧
  (∀ (p seq layer axis pos : Nat) (m : Msg32) (ms : List (W16 × Nat)) (s : State), s.up = true → s.coordOf (byteFld m 0 2) = some p →
    (s.coord p).order = some (seq, layer, axis, pos) → wType m = 0x12 → (s.coord p).open_ = true → wStep m = (s.coord p).step →
    wAttempt m = (s.coord p).attempt → wSeq m = seq →
    let who : W16 × Nat := (BitVec.ofNat 16 (byteFld m 2 2), byteFld m 4 1)
    ((∀ x, x ∈ (s.moduleId, p) :: ms → x = who ∨ x ∈ (s.coord p).drained) → ∃ (u : State) (q : Msg32), exec (.drained m ms) s = .next (u.resumeIn p q) ∧
      q = widenMsg 0x13 (s.jobId p) s.moduleId p (s.part p).gen axis pos (s.coord p).step (s.coord p).attempt seq layer s.time.now ∧
      u.out = s.out ++ [.job p q] ∧ (u.coord p).order = none ∧ (u.coord p).lastResume = some s.time.now ∧
      (u.coord p).positions = Tbl.set (s.coord p).positions (layer * 4 + axis) pos ∧
      u = { s with coords := u.coords, out := u.out }) ∧
    ((∃ x, x ∈ (s.moduleId, p) :: ms ∧ x ≠ who ∧ x ∉ (s.coord p).drained) → ∃ t, exec (.drained m ms) s = .next t ∧
      (t.coord p).order = (s.coord p).order ∧ who ∈ (t.coord p).drained ∧ t = { s with coords := t.coords })) ∧
  (∀ (p : Nat) (m : Msg32) (r : Rewind) (s : State), s.up = true → s.partOf (byteFld m 0 2) = some p → wType m = 0x13 →
    BitVec.ofNat 16 (byteFld m 2 2) = s.coordId p → (s.ctx p).rewind = some r → (s.ctx p).bound = true → (s.ctx p).frozen = false →
    (s.ctx p).pend = none → wStep m = (s.ctx p).cur → wAttempt m = (s.ctx p).attempt → wSeq m = r.seq →
    (r.absent = true → ∃ t, exec (.widenResume m) s = .next t ∧ t.ctx p = { s.ctx p with rewind := none, seqDone := r.seq } ∧
      t = { s with ctxs := t.ctxs }) ∧
    (r.absent = false → ∃ t, exec (.widenResume m) s = .next t ∧ (t.ctx p).rewind = none ∧ (t.ctx p).seqDone = r.seq ∧ (t.ctx p).widened = true ∧
      Tbl.get 0 (t.ctx p).variants (r.layer * 4 + r.axis) = r.pos ∧ (∀ k, k ∈ s.clustersOf p → (t.seq k).placing = true) ∧
      ∀ mk, ((s.ctx p).marks.find? fun x => x.step == (s.ctx p).cur && x.layer == r.layer) = some mk →
        ∀ k d, (k, d) ∈ mk.dcs → (∀ e, e ∈ mk.dcs → e.1 = k → e.2 = d) → (t.core k).dc = d)) ∧
  (∀ (p : Nat) (s : State), s.up = true → p < 32 → (s.ner p).enabled = false → 64 ≤ s.nerSize p → s.nerSize p ≤ 65536 →
    ∃ t, exec (.nerEnable p) s = .next t ∧ t.ner p = { NerSt.zero with enabled := true } ∧ (∀ q, q ≠ p → t.ner q = s.ner q) ∧
      t.rg (pk tVFSTATUS p) 0x230 = 0 ∧ t = { s with ners := t.ners, rf := t.rf }) ∧
  (∀ (p : Nat) (s : State), s.up = true → p < 32 → (s.ner p).enabled = false → s.nerSize p < 64 ∨ 65536 < s.nerSize p →
    ∃ t, exec (.nerEnable p) s = .next t ∧ t = s.noteErr (pk tVFSTATUS p) 0x70 0 ∧ t.ners = s.ners) ∧
  (∀ (p : Nat) (s : State), s.up = true → p < 32 → (s.ner p).enabled = true →
    ∃ t, exec (.nerDisable p) s = .next t ∧ t.ner p = { s.ner p with enabled := false } ∧ (∀ q, q ≠ p → t.ner q = s.ner q) ∧ t = { s with ners := t.ners }) ∧
  (∀ (p : Nat) (s : State), s.up = true → p < 32 → (s.ner p).broken = true →
    ∃ t, exec (.nerRearm p) s = .next t ∧ t.ner p = { s.ner p with broken := false } ∧ (∀ q, q ≠ p → t.ner q = s.ner q) ∧ t = { s with ners := t.ners }) ∧
  (∀ (p : Nat) (s : State), (s.ner p).broken = false → exec (.nerRearm p) s = .next s)

/-- Elren flits (R299 to R303, R307, R308). The flit in order with its CRC right is taken: the expected LSEQ moves on, the credits that it returns
are added up to 1,024, one credit is owed for its lane, what its ACK names leaves the replay buffer, and the port sends what it now may; one
for another module is only counted, and a wrong tag raises AUTH. One that cannot be corrected, with a wrong CRC or out of order asks for a replay,
once. On a port that is not up nothing changes. Of the lanes that can send, lane 3 goes first, and none goes that cannot. Remote requests
(R187, R189, R303, R315, R316): without authentication refused with 4, on a fenced port or for a partition that is not bound or not active with
3; else served and answered on lane 1 behind what waits there: a write that may be made is made and acknowledged, a read answered
with its bytes, an atomic with the old value, and REMOTE_FAULT where the address does not translate. A response of the current generation reaches
whoever asked: a pipe's register, a mover's buffer; a refusal fails the descriptor, or the DISPATCH, that asked; an old one is dropped and
counted, and one to no request changes nothing. -/
def Obligations.FlitsAndRemoteRequests : Prop :=
  (∀ (e n : Nat) (f : Flit) (tag : Bool) (s : State), s.up = true → e < 16 → s.portUp e = true → flitSeq f = (s.port e).rxSeq.toNat →
    ∃ u : State, (u.port e).rxSeq = (s.port e).rxSeq + 1 ∧ (u.port e).replayAsked = false ∧
      Tbl.get 0 (u.port e).credits (bits f 181 180) = min 1024 (Tbl.get 0 (s.port e).credits (bits f 181 180) + bits f 191 182) ∧
      Tbl.get 0 (u.port e).owed (bits f 33 32) = Tbl.get 0 (s.port e).owed (bits f 33 32) + 1 ∧
      (∀ i, (s.port e).replay.findIdx? (fun x => flitSeq x.flit % 2 ^ 20 == bits f 179 160) = some i →
        (u.port e).replay = (s.port e).replay.drop (i + 1)) ∧
      (byteFld f 0 2 = (s.port e).ownId.toNat → tag = true → exec (.flitReceive e f (.good n) true tag) s = .next (u.pumpPort e)) ∧
      (byteFld f 0 2 = (s.port e).ownId.toNat → tag = false →
        ∃ t, exec (.flitReceive e f (.good n) true tag) s = .next t ∧ bitOf (t.hdr (pgEl e)).intStat 3 = true) ∧
      (byteFld f 0 2 ≠ (s.port e).ownId.toNat → exec (.flitReceive e f (.good n) true tag) s = .next ((u.pumpPort e).bumpHi (pgEl e) 0x090 1)) ∧
      ((u.port e).txq = [] → u.pumpPort e = u) ∧
      (∀ q, q ≠ e → u.port q = s.port q) ∧ u = { s with ports := u.ports, live := u.live, txus := u.txus, out := u.out }) ∧
  (∀ (e : Nat) (f : Flit) (fec : FecRes) (crc tag : Bool) (s : State), s.up = true → e < 16 → s.portUp e = true →
    (fec = .uncorrectable ∨ crc = false ∨ flitSeq f ≠ (s.port e).rxSeq.toNat) →
    ((s.port e).replayAsked = false → ∃ t, exec (.flitReceive e f fec crc tag) s = .next t ∧ t.port e = { s.port e with replayAsked := true } ∧
      t.out = s.out ++ [.replayReq e (s.port e).rxSeq] ∧ t = { s with ports := t.ports, live := t.live, out := t.out }) ∧
    ((s.port e).replayAsked = true → ∃ t, exec (.flitReceive e f fec crc tag) s = .next t ∧ t = { s with live := t.live })) ∧
  (∀ (e : Nat) (f : Flit) (fec : FecRes) (crc tag : Bool) (s : State), s.portUp e = false → exec (.flitReceive e f fec crc tag) s = .next s) ∧
  (∀ (e l : Nat) (s : State), (s.laneReady e 3 = true → s.nextLane e = some 3) ∧
    (s.nextLane e = some l → s.laneReady e l = true ∧ (l = 3 ∨ (l < 3 ∧ s.laneReady e 3 = false)))) ∧
  (∀ (e : Nat) (h : RemHdr) (op : RemOp) (s : State), s.running = true → e < 16 → s.portUp e = true → h.dpart < 32 →
    (s.portFenced e = false → h.authOk = false → exec (.remoteRequest e h op) s = .next (s.respond e h (.refusal 4))) ∧
    (s.portFenced e = true ∨ h.authOk = true → s.portFenced e = true ∨ (s.ctx h.dpart).bound = false ∨ (s.part h.dpart).state ≠ .active →
      exec (.remoteRequest e h op) s = .next (s.respond e h (.refusal 3))) ∧
    (s.portFenced e = false → h.authOk = true → (s.ctx h.dpart).bound = true → (s.part h.dpart).state = .active →
      exec (.remoteRequest e h op) s = .next ((s.serveRemote e h op).2.respond e h (s.serveRemote e h op).1))) ∧
  (∀ (e : Nat) (h : RemHdr) (r : RemResp) (s : State), s.portUp e = true → ∃ (u : State) (fs : List TxFlit), s.respond e h r = u.pumpPort e ∧
    (u.port e).lane 1 = (s.port e).lane 1 ++ fs ∧ fs.filterMap (·.msg) = [.resp e h.src h.tag h.gen r] ∧
    fs.length = (match r with | .data b _ => flitsFor b.length | _ => 1) ∧ u = { s with ports := u.ports }) ∧
  (∀ (e va : Nat) (b : Bytes) (bad : List Nat) (h : RemHdr) (s : State),
    let a : Acc := ⟨h.dpart, s.activeCtx h.dpart, none, e / 2, 0, false⟩
    (∀ k, s.rangeFail h.dpart a.ctx va b.length true = some k → s.serveRemote e h (.write va b bad) = (.remoteFault, s)) ∧
    (s.rangeFail h.dpart a.ctx va b.length true = none → (s.serveRemote e h (.write va b bad)).1 = .ack ∧
      (bad = [] → (s.serveRemote e h (.write va b bad)).2 = (s.writeVa .store false a va b).2))) ∧
  (∀ (e va n : Nat) (h : RemHdr) (s : State),
    let q := s.readVa .store false ⟨h.dpart, s.activeCtx h.dpart, none, e / 2, 0, false⟩ va n
    s.serveRemote e h (.read va n) = (if q.1.err.isSome then .remoteFault else .data q.1.data q.1.bad, q.2)) ∧
  (∀ (e va o ev : Nat) (x c : W64) (fn : BitVec 11) (h : RemHdr) (s : State),
    let w := atomW fn.toNat
    let a : Acc := ⟨h.dpart, s.activeCtx h.dpart, none, e / 2, 0, false⟩
    let q := s.readVa .store false a va (w / 8)
    s.rangeFail h.dpart a.ctx va (w / 8) true = none → q.1.err = none → q.1.bad = [] →
    atomNew (fn.toNat % 16) w (ofLe q.1.data) (x.toNat % 2 ^ w) (c.toNat % 2 ^ w) = some (some o, ev) →
    ∃ v : State, s.serveRemote e h (.atom va fn x c) = (.data q.1.data [], (v.writeVa .store false a va (leBytes (w / 8) o)).2) ∧
      v = { q.2 with live := v.live }) ∧
  (∀ (e tag k j : Nat) (x : Option Nat) (g : Byte) (q : OutReq) (s : State), s.up = true → e < 16 → s.portUp e = true →
    ((s.port e).outReqs.find? fun q => q.tag == tag) = some q → g = (s.part q.part).gen → q.gen = g → q.who = .port k x → q.pipe = j →
    q.put = (s.pipe k j).prog → (s.pipe k j).running = true →
    (∀ b, q.isRead = true → q.half = false → q.atom = none → BitVec.ofNat 5 (s.pipe k j).dest ≠ 0 →
      ∃ t, exec (.remoteResponse e tag g (.data b [])) s = .next t ∧
        t.gpr k j (BitVec.ofNat 5 (s.pipe k j).dest) = BitVec.ofNat 64 (ofLe (b.take 8)) ∧
        (t.pipe k j).wait = .none ∧ (t.pipe k j).remote = (s.pipe k j).remote - 1 ∧
        (t.port e).outReqs = removeFirst (fun x => x.tag == tag) (s.port e).outReqs ∧ t = { s with ports := t.ports, cores := t.cores }) ∧
    (q.isRead = false → ∃ t, exec (.remoteResponse e tag g .ack) s = .next t ∧ t.pipe k j = { s.pipe k j with remote := (s.pipe k j).remote - 1 } ∧
      (t.port e).outReqs = removeFirst (fun x => x.tag == tag) (s.port e).outReqs ∧ t = { s with ports := t.ports, cores := t.cores })) ∧
  (∀ (e tag tl dn : Nat) (g : Byte) (q : OutReq) (s : State), s.up = true → e < 16 → s.portUp e = true →
    ((s.port e).outReqs.find? fun q => q.tag == tag) = some q → g = (s.part q.part).gen → q.gen = g → q.who = .mover tl dn →
    let u := s.modPort e fun p => { p with outReqs := removeFirst (fun x => x.tag == tag) p.outReqs }
    (∀ b, exec (.remoteResponse e tag g (.data b [])) s =
      .next ((u.modDesc tl dn fun d => { d with buf := Tbl.set d.buf q.put (b, []) }).mvGo tl dn 5)) ∧
    (∀ sub : W16, exec (.remoteResponse e tag g (.refusal sub)) s =
      .next ((u.modDesc tl dn (MDesc.fail ⟨0x0090, BitVec.ofNat 16 sub.toNat⟩ (q.put / 4096))).peerLost e q.dst sub.toNat))) ∧
  (∀ (e tag c id : Nat) (sub : W16) (g : Byte) (q : OutReq) (o : TOp) (s : State), s.up = true → e < 16 → s.portUp e = true →
    ((s.port e).outReqs.find? fun q => q.tag == tag) = some q → g = (s.part q.part).gen → q.gen = g → q.who = .txu c id →
    s.topOp c id = some o →
    exec (.remoteResponse e tag g (.refusal sub)) s = .next
      (((s.modPort e fun p => { p with outReqs := removeFirst (fun x => x.tag == tag) p.outReqs }).topDone c o
        (some ⟨0x0090, BitVec.ofNat 16 sub.toNat⟩)).peerLost e q.dst sub.toNat)) ∧
  (∀ (e tag : Nat) (g : Byte) (q : OutReq) (r : RemResp) (s : State), s.up = true → e < 16 → s.portUp e = true →
    ((s.port e).outReqs.find? fun q => q.tag == tag) = some q → g ≠ (s.part q.part).gen ∨ q.gen ≠ g → (∀ tl dn, q.who ≠ .mover tl dn) →
    ∃ t, exec (.remoteResponse e tag g r) s = .next t ∧ (t.port e).outReqs = removeFirst (fun x => x.tag == tag) (s.port e).outReqs ∧
      bits (t.stat (pgEl e) 0x098) 31 0 = (bits (s.stat (pgEl e) 0x098) 31 0 + 1) % 2 ^ 32 ∧ t = { s with ports := t.ports, live := t.live }) ∧
  (∀ (e tag : Nat) (g : Byte) (r : RemResp) (s : State), ((s.port e).outReqs.find? fun q => q.tag == tag) = none →
    exec (.remoteResponse e tag g r) s = .next s)

/-- A link's life (R301, R306, R308, R312 to R315, R318, R319). An enabled port that is not up trains with every wavelength locked at full width, or
with a half locked, or FORCE_HALF, at half width with HALF raised; with neither half locked it stays down. The TRAIN exchange takes the peer's ID;
of a module with an ID the port is trained where the key check passes. A trained port comes up with LSEQ 0, nothing to send again
and 1,024 credits a lane, the flow counters running on, and UP raised. A training of 2 ms starts again, a shorter one goes on. A
port that is up goes down for causes 1, 3, 5, and 2 after 16 replays, with nothing asked and nothing to send again, the cause kept and DOWN raised;
for another cause it stays up. FENCE, FORCE_HALF and ENABLE write their bit; an unfenced port sends what waits, a disabled one is down. A laser
unit that fails is not good and LSU raised; LSU_CTRL takes the enables, and a unit enabled anew is good. -/
def Obligations.LinksTrainAndFall : Prop :=
  (∀ (e : Nat) (l : W16) (s : State), s.up = true → e < 16 → s.portUp e = false → bitOf (s.rg (pgEl e) 0x200) 0 = true →
    (l = 0xFFFF → bitOf (s.rg (pgEl e) 0x200) 2 = false → ∃ t, exec (.linkTraining e l) s = .next t ∧ t.port e = { s.port e with
        st := .training, trained := false, trainStart := s.time.mono, half := false, upperHalf := false, wlUse := 0xFFFF, wlFail := 0 } ∧
      (∀ q, q ≠ e → t.port q = s.port q) ∧ t = { s with ports := t.ports }) ∧
    ((l &&& 0x00FF = 0x00FF ∧ (l ≠ 0xFFFF ∨ bitOf (s.rg (pgEl e) 0x200) 2 = true)) → ∃ t, exec (.linkTraining e l) s = .next t ∧
      t.port e = { s.port e with
        st := .training, trained := false, trainStart := s.time.mono, half := true, upperHalf := false, wlUse := 0x00FF, wlFail := ~~~l } ∧
      bitOf (t.hdr (pgEl e)).intStat 2 = true ∧ t = { s with ports := t.ports, hdrs := t.hdrs, pcie := t.pcie, out := t.out }) ∧
    (l &&& 0x00FF ≠ 0x00FF → l &&& 0xFF00 = 0xFF00 → ∃ t, exec (.linkTraining e l) s = .next t ∧ t.port e = { s.port e with
        st := .training, trained := false, trainStart := s.time.mono, half := true, upperHalf := true, wlUse := 0xFF00, wlFail := ~~~l } ∧
      bitOf (t.hdr (pgEl e)).intStat 2 = true ∧ t = { s with ports := t.ports, hdrs := t.hdrs, pcie := t.pcie, out := t.out }) ∧
    (l &&& 0x00FF ≠ 0x00FF → l &&& 0xFF00 ≠ 0xFF00 → ∃ t, exec (.linkTraining e l) s = .next t ∧
      t.port e = { s.port e with st := .down, trained := false, wlUse := 0, wlFail := ~~~l, downCause := 6 } ∧ t = { s with ports := t.ports })) ∧
  (∀ (e : Nat) (l : W16) (s : State), s.portUp e = true ∨ bitOf (s.rg (pgEl e) 0x200) 0 = false → exec (.linkTraining e l) s = .next s) ∧
  (∀ (e : Nat) (peer : W16) (pp : Nat) (sw key : Bool) (s : State), s.up = true → e < 16 → (s.port e).st = .training →
    ∃ t, exec (.train e peer pp sw key) s = .next t ∧ (t.port e).st = .training ∧ (t.port e).peer = (if sw then 0xFFFF else peer) ∧
      (t.port e).peerPort = pp % 16 ∧ (t.port e).ownId = s.moduleId ∧
      (s.moduleId ≠ 0xFFFF → (t.port e).trained = key ∧ (t.port e).linkKeyOk = key ∧ (t.port e).keyGen = s.sec.linkKeyGen) ∧
      (s.moduleId = 0xFFFF → (t.port e).trained = (s.port e).trained) ∧ t.out = s.out ++ [.train e] ∧
      t = { s with ports := t.ports, out := t.out }) ∧
  (∀ (e : Nat) (s : State), s.up = true → e < 16 → (s.port e).st = .training → (s.port e).trained = true →
    ∃ t, exec (.linkUp e) s = .next t ∧ (t.port e).st = .up ∧ (t.port e).rxSeq = 0 ∧ (t.port e).txSeq = 0 ∧ (t.port e).replay = [] ∧
      (t.port e).txq = [] ∧ (∀ l, l < 4 → Tbl.get 0 (t.port e).credits l = 1024) ∧ (t.port e).fctr = (s.port e).fctr ∧
      bitOf (t.hdr (pgEl e)).intStat 0 = true) ∧
  (∀ (e : Nat) (s : State), (s.port e).st ≠ .training ∨ (s.port e).trained = false → exec (.linkUp e) s = .next s) ∧
  (∀ (e : Nat) (s : State), s.up = true → e < 16 → (s.port e).st = .training → s.time.mono < (s.port e).trainStart + 2000000 →
    exec (.trainingTimeout e) s = .next s) ∧
  (∀ (e : Nat) (s : State), s.up = true → e < 16 → (s.port e).st = .training → (s.port e).trainStart + 2000000 ≤ s.time.mono →
    ∃ t, exec (.trainingTimeout e) s = .next t ∧
      t.port e = { s.port e with trained := false, trainStart := s.time.mono, downCause := 6 } ∧ t = { s with ports := t.ports }) ∧
  (∀ (e cause : Nat) (s : State), s.up = true → e < 16 → s.portUp e = true →
    (cause = 1 ∨ cause = 3 ∨ cause = 5 ∨ (cause = 2 ∧ 16 ≤ (s.port e).replays)) →
    ∃ t, exec (.linkDown e cause) s = .next t ∧ (t.port e).st = .down ∧ (t.port e).outReqs = [] ∧ (t.port e).replay = [] ∧ (t.port e).txq = [] ∧
      (t.port e).downCause = cause ∧ (t.port e).downs = (s.port e).downs + 1 ∧ bitOf (t.hdr (pgEl e)).intStat 1 = true) ∧
  (∀ (e cause : Nat) (s : State), (cause = 2 ∧ (s.port e).replays < 16) ∨ (cause ≠ 1 ∧ cause ≠ 2 ∧ cause ≠ 3 ∧ cause ≠ 5) ∨ s.portUp e = false →
    exec (.linkDown e cause) s = .next s) ∧
  (∀ (e : Nat) (v : Bool) (s : State), s.up = true → e < 16 →
    (∃ u : State, exec (.elrenFence e v) s = .next (u.pumpPort e) ∧ bitOf (u.rg (pgEl e) 0x200) 1 = v ∧ u = { s with rf := u.rf }) ∧
    (∃ t, exec (.forceHalf e v) s = .next t ∧ bitOf (t.rg (pgEl e) 0x200) 2 = v ∧ t = { s with rf := t.rf }) ∧
    (∃ t u, exec (.elrenEnable e v) s = .next t ∧ bitOf (u.rg (pgEl e) 0x200) 0 = v ∧ u = { s with rf := u.rf } ∧ (v = true → t = u) ∧
      (v = false → s.portUp e = true → t = u.portDown e 4) ∧
      (v = false → s.portUp e = false → (t.port e).st = .down ∧ t = { u with ports := t.ports }))) ∧
  (∀ (b : Bool) (s : State), s.up = true → ∃ t, exec (.lsuFail b) s = .next t ∧
    t.lsu = ⟨s.lsu.aGood && b, s.lsu.bGood && !b⟩ ∧ bitOf (t.hdr (pgEl 0)).intStat 5 = true ∧
    t = { s with lsu := t.lsu, hdrs := t.hdrs, pcie := t.pcie, out := t.out }) ∧
  (∀ (v : BitVec 2) (s : State), s.up = true → ∃ t, exec (.lsuCtrl v) s = .next t ∧ t.rg (pgEl 0) 0x310 = v.zeroExtend 64 ∧
    t.lsu = ⟨s.lsu.aGood || (v.getLsbD 0 && !bitOf (s.rg (pgEl 0) 0x310) 0), s.lsu.bGood || (v.getLsbD 1 && !bitOf (s.rg (pgEl 0) 0x310) 1)⟩ ∧
    t = { s with lsu := t.lsu, rf := t.rf, hdrs := t.hdrs, pcie := t.pcie, out := t.out })

/-- Fold engines (R325 to R327, R330 to R333, R338 to R340, R343, R344). The current entry of a running attempt starts once its WAIT is met, with a
window of 64 blocks, and its engine then does all it can; at the fallback variant it signals at once and is passed over; with a neighbour and
its port down it fails; with its WAIT not met nothing changes. A message of no current attempt, or of no entry or input of the engine, is counted
stale. A child's block is held for its input, once; one with a wrong header fails the entry; one past the window, or without room, is not
accepted. A result block that is right is kept for the edge, counted written and sent to the children; a wrong one fails the entry; for an
entry not started it waits. A broadcast block of the step that committed last is written and forwarded, a wrong one counted corrupt. A grant widens the
window. An entry that is over signals SIG and the engine goes on to the next; one that is not stays; while a block sent up is not
acknowledged it is not over. -/
def Obligations.FoldEntriesRun : Prop :=
  (∀ (e p : Nat) (r : FoldEnt) (s : State), e < 16 → s.running = true → s.foldCur e p = some r → (s.fpart e p).started = false →
    (s.fpart e p).failed = false → (s.ctx p).bound = true → (s.ctx p).running = true → (s.ctx p).frozen = false → (s.ctx p).coordLost = false →
    ((s.ctx p).fails.any fun q => q.1 == (s.ctx p).cur) = false → s.tensorOut p (feTensor r) = false →
    let met := !(feWait r).testBit 15 || decide (byteFld r 26 2 ≤ s.dc (nbits (feWait r) 12 6) (feWait r % 64))
    (met = false → exec (.foldEntryStart e p) s = .next s) ∧
    (met = true → feOp r ≠ 4 → s.foldWidth p r = none →
      exec (.foldEntryStart e p) s = .next (((s.foldSig r).foldNext e p).progress (pgFOLD e) 1)) ∧
    (met = true → (feOp r = 4 ∨ ((s.foldWidth p r).isSome = true ∧ (s.portUp e = true ∨ (feParent r = none ∧ feKids r = [])))) →
      ∃ u : State, exec (.foldEntryStart e p) s = .next (u.foldPump e p) ∧
        u.fpart e p = { s.fpart e p with started := true, granted := 64, given := 64, summed := 0, written := 0 } ∧
        u = { s with folds := u.folds, hdrs := u.hdrs }) ∧
    (met = true → feOp r ≠ 4 → (s.foldWidth p r).isSome = true → ((feParent r).isSome = true ∨ feKids r ≠ []) → s.portUp e = false →
      ∃ t, exec (.foldEntryStart e p) s = .next t ∧ (t.fpart e p).failed = true)) ∧
  (∀ (e p : Nat) (s : State), e < 16 → s.running = true → s.foldCur e p = none ∨ (s.fpart e p).started = true ∨ (s.fpart e p).failed = true →
    exec (.foldEntryStart e p) s = .next (s.foldPump e p)) ∧
  (∀ (e : Nat) (m : FoldMsg) (s : State), e < 16 → s.running = true → s.portUp e = true → s.foldMatch m = false →
    exec (.up e m) s = .next ((s.bump (pgFOLD e) 0x040 1).foldStale e) ∧ exec (.down e m) s = .next ((s.bump (pgFOLD e) 0x040 1).foldStale e)) ∧
  (∀ (e : Nat) (m : FoldMsg) (r : FoldEnt) (i : Nat × W16) (s : State), e < 16 → s.running = true → s.portUp e = true → s.foldMatch m = true →
    s.tensorOut m.part m.tensor.toNat = false →
    (((s.foldList m.part (s.ctx m.part).cur e).drop (s.fpart e m.part).cur).find? fun r => feTensor r == m.tensor.toNat && feOp r != 4) = some r →
    ((feKids r).find? fun k => k.2 == m.src) = some i →
    let f := s.fpart e m.part
    let isCur := s.foldCur e m.part == some r && f.started
    let seen := f.held.any (fun h => h.tensor == feTensor r && h.input == i.1 && h.blk.block == m.blk.block)
      || (isCur && decide (m.blk.block < f.summed)) || decide (feBlocks r ≤ m.blk.block)
    let bad := hdrCorrupt (s.foldScale m.part (s.ctx m.part).cur (feTensor r) 24) (s.foldScale m.part (s.ctx m.part).cur (feTensor r) 40) m.blk
    (seen = true → exec (.up e m) s = .next ((s.bump (pgFOLD e) 0x040 1).foldStale e)) ∧
    (seen = false → bad = true → exec (.up e m) s = .next ((s.bump (pgFOLD e) 0x040 1).foldCorrupt e m.part r m.blk.block m.src)) ∧
    (seen = false → bad = false → (s.foldE e).inflight < 4096 → m.blk.block < (if isCur then f.summed + 64 else 64) →
      ∃ u : State, exec (.up e m) s = .next (u.foldPump e m.part) ∧ u.fpart e m.part = { f with held := f.held ++ [⟨feTensor r, i.1, m.blk⟩] } ∧
        u = { s with folds := u.folds, live := u.live, hdrs := u.hdrs }) ∧
    (seen = false → bad = false → 4096 ≤ (s.foldE e).inflight ∨ (if isCur then f.summed + 64 else 64) ≤ m.blk.block → exec (.up e m) s = .next s)) ∧
  (∀ (e : Nat) (m : FoldMsg) (r : FoldEnt) (s : State), e < 16 → s.running = true → s.portUp e = true → s.foldMatch m = true →
    s.tensorOut m.part m.tensor.toNat = false → s.foldCur e m.part = some r → feTensor r = m.tensor.toNat → feOp r = 2 →
    feParent r = some m.src → (s.fpart e m.part).failed = false → m.blk.block < feBlocks r →
    let bad := hdrCorrupt (s.foldScale m.part (s.ctx m.part).cur (feTensor r) 24) (s.foldScale m.part (s.ctx m.part).cur (feTensor r) 40) m.blk
    let s1 := s.bump (pgFOLD e) 0x040 1
    ((s.fpart e m.part).started = false → exec (.down e m) s = .next s) ∧
    ((s.fpart e m.part).started = true → (bad || sumCorrupt m.blk) = true →
      exec (.down e m) s = .next (s1.foldCorrupt e m.part r m.blk.block m.src)) ∧
    (∀ u : State, (s.fpart e m.part).started = true → (bad || sumCorrupt m.blk) = false →
      (if 8 ≤ m.blk.width then s1.foldSatIn e m.part r m.blk.block else s1).foldResult e m.part r m.blk.block m.blk = (none, u) →
      exec (.down e m) s = .next ((u.each (feKids r) fun s k => s.foldSend e m.part 2 k.2 (feTensor r) m.blk).progress (pgFOLD e) 1))) ∧
  (∀ (e p j : Nat) (r : FoldEnt) (b : FoldBlk) (u s : State), s.foldResult e p r j b = (none, u) →
    (u.fpart e p).written = (s.fpart e p).written + 1 ∧ (u.ctx p).heldOut = (s.ctx p).heldOut ++
      [⟨true, feTensor r, (s.ctx p).cur, nbits (aoAddr (feDst r) + j * (resultBytes (feConv r) b).1.length) 48 0, (resultBytes (feConv r) b).1⟩] ∧
    u = { s with folds := u.folds, ctxs := u.ctxs, live := u.live }) ∧
  (∀ (e : Nat) (m : FoldMsg) (n : Nat) (r : FoldEnt) (s : State), e < 16 → s.running = true → s.portUp e = true →
    (s.ctx m.part).lastCommit = some n → m.blk.step = BitVec.ofNat 8 n → m.gen = (s.part m.part).gen → s.bcastRx e m.part m.tensor.toNat = some r →
    let bad := (bcastFmt m.blk.width).isNone || m.blk.scale != 0 || sumCorrupt m.blk
    let s1 := s.bump (pgFOLD e) 0x040 1
    (bad = true → exec (.bcast e m) s = .next (s1.foldCorrupt e m.part r m.blk.block m.src)) ∧
    (bad = false → exec (.bcast e m) s = .next ((((s1.bcastWrite e m.part r m.blk).bcastCount e m.part (feTensor r) (feBlocks r) n m.blk.block).each (feKids r)
      fun s k => s.foldSend e m.part 3 k.2 (feTensor r) m.blk).progress (pgFOLD e) 1))) ∧
  (∀ (e : Nat) (m : FoldMsg) (s : State), e < 16 → s.running = true → s.portUp e = true →
    (∀ n, (s.ctx m.part).lastCommit = some n → m.blk.step ≠ BitVec.ofNat 8 n) ∨ m.gen ≠ (s.part m.part).gen ∨ s.bcastRx e m.part m.tensor.toNat = none →
    exec (.bcast e m) s = .next ((s.bump (pgFOLD e) 0x040 1).foldStale e)) ∧
  (∀ (e p end_ : Nat) (x : W32) (r : FoldEnt) (s : State), e < 16 → s.running = true → s.portUp e = true → s.foldCur e p = some r →
    (s.fpart e p).started = true → feTensor r = x.toNat →
    ∃ u : State, exec (.grant e p x end_) s = .next (u.foldPump e p) ∧
      u.fpart e p = { s.fpart e p with granted := max (s.fpart e p).granted end_ } ∧ u = { s with folds := u.folds }) ∧
  (∀ (e p end_ : Nat) (x : W32) (r : FoldEnt) (s : State), s.foldCur e p = some r → (s.fpart e p).started = false ∨ feTensor r ≠ x.toNat →
    exec (.grant e p x end_) s = .next s) ∧
  (∀ (e p : Nat) (r : FoldEnt) (s : State), e < 16 → s.running = true → s.foldCur e p = some r → (s.fpart e p).started = true →
    (s.fpart e p).failed = false →
    (s.foldOver e p r = true → ∃ t, exec (.foldEntryComplete e p) s = .next t ∧ (t.fpart e p).cur = (s.fpart e p).cur + 1 ∧
      (t.fpart e p).started = false ∧
      (∀ c n, t.dc c n = if (feSig r).testBit 15 = true ∧ c = nbits (feSig r) 12 6 ∧ n = feSig r % 64
        then min (s.dc c n + byteFld r 30 1) 0xFFFF else s.dc c n) ∧ t = { s with folds := t.folds, cores := t.cores, hdrs := t.hdrs }) ∧
    (s.foldOver e p r = false → exec (.foldEntryComplete e p) s = .next s)) ∧
  (∀ (e p : Nat) (r : FoldEnt) (s : State), feOp r = 1 ∨ feOp r = 3 → (feParent r).isSome = true → s.foldUnacked e p ≠ 0 → s.foldOver e p r = false)

/-- The fold adder (R324, R326): element by element the sum, clamped to the width; a poisoned element stays poisoned and zero; and on two
blocks with true residues the residue check never fails. -/
def Obligations.FoldAdderSums : Prop :=
  ∀ (w : Nat) (a b : FoldBlk), w = 24 ∨ w = 40 → a.elems.length = 64 → b.elems.length = 64 →
    (∀ i, i < 64 → (addBlk w a b).1.elems[i]? = some (if (a.poison ||| b.poison).getLsbD i then 0 else
      min (2 ^ (w - 1) - 1) (max (-2 ^ (w - 1)) ((a.elems[i]?).getD 0 + (b.elems[i]?).getD 0)))) ∧
    (addBlk w a b).1.poison = a.poison ||| b.poison ∧ (addBlk w a b).1.residue = residueOf (addBlk w a b).1.elems ∧
    (a.residue = residueOf a.elems → b.residue = residueOf b.elems → (addBlk w a b).2.2 = false)

/-- Partitions (R347, R358 to R361, R371, R417, Table 16.4), in a module that a request through a PART page wakes from IDLE (R459). CREATE makes a FREE
partition ACTIVE with the clusters of its register, its generation kept, its fences and semaphores zero, and its TDI in ERROR where it was
locked or running; a check that fails leaves it FREE with that check's code; one being torn down ignores and counts CREATE and TEARDOWN. TEARDOWN freezes an
ACTIVE or QUARANTINED partition, and where no compute reset is in progress and no request carries the next generation takes it at once. With
nothing in flight it becomes SCRUBBING: its store units and near pages read zero, its tier and flow keys are gone; with something in flight it
waits. Released it is FREE and owns nothing, its generation kept. REENABLE makes a QUARANTINED partition ACTIVE with its history cleared and its
context serving. -/
def Obligations.PartitionsLiveAndDie : Prop :=
  (∀ (p : Nat) (s : State), s.running = true → p < 32 → (s.part p).state = .free → s.sage.oos = false →
    (s.createErr p = none → ∃ t, exec (.create p) s = .next t ∧
      t.part p = { PartSt.zero with
        state := .active, gen := (s.part p).gen, clusters := BitVec.ofNat 32 (bits (s.rg (pgPART p) 0x200) 31 0),
        tierEnc := bitOf (s.rg (pgPART p) 0x218) 0,
        tdi := if (s.part p).tdi = .locked ∨ (s.part p).tdi = .run then .error else (s.part p).tdi } ∧
      (∀ q, q ≠ p → t.part q = s.part q) ∧ (∀ c i, c < 8 → i < 65536 → t.fence p c i = 0 ∧ t.sem p c i = 0) ∧
      t = { s.partReq with parts := t.parts, sec := t.sec, fences := t.fences, sems := t.sems, freeCtr := t.freeCtr }) ∧
    (∀ e, s.createErr p = some e → ∃ t, exec (.create p) s = .next t ∧ t.part p = { s.part p with errCode := e } ∧
      (∀ q, q ≠ p → t.part q = s.part q) ∧ t = { s.partReq with parts := t.parts })) ∧
  (∀ (p : Nat) (s : State), s.running = true → p < 32 → (s.part p).state = .tearingDown ∨ (s.part p).state = .scrubbing →
    exec (.create p) s = .next (s.partReq.countErr (pgPART p)) ∧ exec (.teardown p) s = .next (s.partReq.countErr (pgPART p))) ∧
  (∀ (p : Nat) (s : State), s.running = true → p < 32 → (s.part p).state = .active ∨ (s.part p).state = .quarantined →
    ∃ u : State, exec (.teardown p) s = .next (if (s.part p).rst = 0 then u.teardownGo p else u) ∧
      u.part p = { s.part p with
        state := .tearingDown, tdStep := 1,
        tdi := if (s.part p).tdi = .locked ∨ (s.part p).tdi = .run then .error else (s.part p).tdi } ∧
      u.ctx p = (s.ctx p).freeze ∧ u = { s.partReq with parts := u.parts, ctxs := u.ctxs } ∧
      (s.genUnused p ((s.part p).gen + 1) = true →
        ((u.teardownGo p).part p).gen = (s.part p).gen + 1 ∧ ((u.teardownGo p).part p).tdStep = 3) ∧
      (s.genUnused p ((s.part p).gen + 1) = false → u.teardownGo p = u)) ∧
  (∀ s : State, (s.power.idle = true → s.partReq = { s with power := { s.power with wake := true } }) ∧
    (s.power.idle = false → s.partReq = s)) ∧
  (∀ (p : Nat) (s : State), s.up = true → s.sage.fatal = none → (s.part p).rst = 0 →
    ((s.part p).tdStep = 1 → exec (.teardownDrained p) s = .next (s.teardownGo p)) ∧
    ((s.part p).tdStep = 3 → s.partInflight p = 0 → ∃ t, exec (.teardownDrained p) s = .next t ∧ (t.part p).state = .scrubbing ∧
      (t.part p).tdStep = 4 ∧ Tbl.get 0 t.sec.tierKeys p = 0 ∧ Tbl.get 0 t.sec.flowKeys p = 0 ∧
      (∀ a, Memory.read1 t.mem a = if (s.blocksOf p).any (fun k => decide (blockTarget k ≤ 1 ∧ (blockSpan k).1 ≤ a ∧
        a < (blockSpan k).1 + (blockSpan k).2)) then 0 else Memory.read1 s.mem a) ∧
      t = { s with mem := t.mem, poison := t.poison, upsets := t.upsets, cwUpsets := t.cwUpsets, backing := t.backing, sec := t.sec,
                   parts := t.parts, live := t.live, stewLog := t.stewLog }) ∧
    ((s.part p).tdStep = 3 → s.partInflight p ≠ 0 → exec (.teardownDrained p) s = .next s)) ∧
  (∀ (p : Nat) (s : State), s.up = true → s.sage.fatal = none → (s.part p).tdStep = 4 →
    ∃ t, exec (.teardownRelease p) s = .next t ∧ t.part p = { PartSt.zero with gen := (s.part p).gen } ∧ (∀ k, (t.back k).owner ≠ some p) ∧
      t.ctx p = CtxSt.zero ∧ (∀ q, q ∈ t.plans → q.part ≠ p) ∧ (∀ e, e ∈ t.ents → e.fn ≠ Fn.vf p) ∧ (∀ x, t.kpart x p = KpmPart.zero) ∧
      t.mem = s.mem ∧ t.cb = s.cb ∧ (∀ q, q ≠ p → t.part q = s.part q ∧ t.ctx q = s.ctx q)) ∧
  (∀ (p : Nat) (s : State), s.running = true → (s.part p).state = .quarantined →
    ∃ t, exec (.reenable p) s = .next t ∧ t.part p = { s.part p with state := .active, hangs := [] } ∧
      t.ctx p = { s.ctx p with frozen := false, rejoinAt := s.time.now } ∧ (∀ q, q ≠ p → t.part q = s.part q ∧ t.ctx q = s.ctx q) ∧
      t = { s.partReq with parts := t.parts, ctxs := t.ctxs })

/-- Mapping and translation (R348, R351 to R354, R361, R373, Tables 16.3, 16.7, 16.9). Of an ACTIVE partition with no request in progress: a request
out of range, over mapped or over pages not all mapped changes no leaf and answers RANGE, OVERLAP or NOT_MAPPED; a MAP that finds its pages and
stays within the quota adds its leaves, pages that another partition held last reading zero and no other byte changing; past the quota it
answers QUOTA, without pages NO_PAGE or QUOTA; a MAP of a remote target adds its leaves; UNMAP removes and PROTECT changes the leaves
of the range and no translation unit still caches one. Of a partition not ACTIVE it answers STATE, of one being torn down it is
ignored and counted, while another is in progress ignored, and while the steward restarts it waits. MAP_COMPLETE ends it, carrying out one that
has waited. A translation whose leaf is not cached walks the tree and caches
what it reads, 4,096 entries at most; one that is not mapped or not writable records the fault. An invalidation
removes exactly what it names. -/
def Obligations.PagesAreMapped : Prop :=
  (∀ (p op : Nat) (c : Instr) (s : State), (op, c) ∈ [(0, Instr.map p), (1, .unmap p), (2, .protect p)] → s.running = true →
    p < 32 →
    (s.mapReq p).op = op ∨ (op = 2 ∧ 2 ≤ (s.mapReq p).op) → (s.part p).mapBusy = false → (s.part p).state = .active → s.sage.stewardRst = false →
    ((s.mapReq p).inRange = false → ∃ t, exec c s = .next t ∧
      t.part p = { s.part p with mapBusy := true, mapPend := false, mapRes := 4, mapDone := 0 } ∧ t = { s.partReq with parts := t.parts }) ∧
    ((s.mapReq p).inRange = true → op = 0 → (s.part p).leaves.any (s.mapReq p).overlaps = true → ∃ t, exec c s = .next t ∧
      (t.part p).mapRes = 2 ∧ (t.part p).leaves = (s.part p).leaves ∧ t = { s.partReq with parts := t.parts }) ∧
    ((s.mapReq p).inRange = true → op = 1 ∨ op = 2 → (s.mapReq p).covered (s.part p).leaves = false → ∃ t, exec c s = .next t ∧
      (t.part p).mapRes = 3 ∧ (t.part p).leaves = (s.part p).leaves ∧ t = { s.partReq with parts := t.parts }) ∧
    ((s.mapReq p).inRange = true → op = 1 → (s.mapReq p).covered (s.part p).leaves = true → ∃ t, exec c s = .next t ∧
      (t.part p).mapRes = 0 ∧ (t.part p).leaves = (s.part p).leaves.filter (fun l => !(s.mapReq p).overlaps l) ∧ t.mem = s.mem ∧
      (∀ k x, x ∈ (t.xlat k).cache → x.meets p (s.mapReq p) = false)) ∧
    ((s.mapReq p).inRange = true → op = 2 → (s.mapReq p).covered (s.part p).leaves = true → ∃ t, exec c s = .next t ∧
      (t.part p).mapRes = 0 ∧ t.mem = s.mem ∧
      (t.part p).leaves = (s.part p).leaves.map (fun l => if (s.mapReq p).overlaps l then { l with w := (s.mapReq p).w } else l) ∧
      (∀ k x, x ∈ (t.xlat k).cache → x.meets p (s.mapReq p) = false))) ∧
  (∀ (p : Nat) (b : Backed) (s : State), s.running = true → p < 32 → (s.mapReq p).op = 0 →
    (s.part p).mapBusy = false → (s.part p).state = .active → s.sage.stewardRst = false → (s.mapReq p).inRange = true →
    (s.part p).leaves.any (s.mapReq p).overlaps = false → (s.mapReq p).target < 4 → s.backAll p (s.mapReq p) (s.mapReq p).count ⟨[], []⟩ = some b →
    ((s.part p).use (s.mapReq p).target + b.fresh.length ≤ s.quota p (s.mapReq p).target → ∃ t, exec (.map p) s = .next t ∧
      (t.part p).mapRes = 0 ∧ (t.part p).mapDone = (s.mapReq p).count ∧ (t.part p).leaves = (s.part p).leaves ++ (s.mapReq p).leavesOn b.pages ∧
      (∀ a, (∀ k, k ∈ b.fresh → (s.back k).last = none ∨ (s.back k).last = some p ∨ ¬((blockSpan k).1 ≤ a ∧ a < (blockSpan k).1 + (blockSpan k).2)) →
        Memory.read1 t.mem a = Memory.read1 s.mem a) ∧
      (∀ k a, k ∈ b.fresh → (∃ q, q ≠ p ∧ (s.back k).last = some q) → (blockSpan k).1 ≤ a → a < (blockSpan k).1 + (blockSpan k).2 →
        Memory.read1 t.mem a = 0)) ∧
    (s.quota p (s.mapReq p).target < (s.part p).use (s.mapReq p).target + b.fresh.length → ∃ t, exec (.map p) s = .next t ∧
      (t.part p).mapRes = 1 ∧ (t.part p).leaves = (s.part p).leaves ∧ t = { s.partReq with parts := t.parts })) ∧
  (∀ (p : Nat) (s : State), s.running = true → p < 32 → (s.mapReq p).op = 0 → (s.part p).mapBusy = false → (s.part p).state = .active →
    s.sage.stewardRst = false → (s.mapReq p).inRange = true → (s.part p).leaves.any (s.mapReq p).overlaps = false →
    ((s.mapReq p).target = 4 → ∃ t, exec (.map p) s = .next t ∧ (t.part p).mapRes = 0 ∧
      (t.part p).leaves = (s.part p).leaves ++ (s.mapReq p).leavesOn ((List.range (s.mapReq p).count).map fun i => (s.mapReq p).home + i * 2 ^ (s.mapReq p).log2) ∧
      t.mem = s.mem) ∧
    ((s.mapReq p).target ≠ 4 → s.backAll p (s.mapReq p) (s.mapReq p).count ⟨[], []⟩ = none → ∃ t, exec (.map p) s = .next t ∧
      (t.part p).mapRes = (if s.quota p (s.mapReq p).target < (s.part p).use (s.mapReq p).target +
        s.blocksWanted p (s.mapReq p) (s.mapReq p).count ⟨[], []⟩ then 1 else 6) ∧
      (t.part p).leaves = (s.part p).leaves ∧ t = { s.partReq with parts := t.parts })) ∧
  (∀ (p op : Nat) (c : Instr) (s : State), (op, c) ∈ [(0, Instr.map p), (1, .unmap p), (2, .protect p)] →
    ((s.part p).mapBusy = true → exec c s = .next s.partReq) ∧
    (s.running = true → p < 32 → (s.mapReq p).op = op → (s.part p).mapBusy = false →
      ((s.part p).state = .tearingDown ∨ (s.part p).state = .scrubbing → exec c s = .next (s.partReq.countErr (pgPART p))) ∧
      ((s.part p).state = .free ∨ (s.part p).state = .quarantined → s.sage.stewardRst = false → ∃ t, exec c s = .next t ∧
        t.part p = { s.part p with mapBusy := true, mapPend := false, mapRes := 5, mapDone := 0 } ∧ t = { s.partReq with parts := t.parts }) ∧
      ((s.part p).state = .active → s.sage.stewardRst = true → ∃ t, exec c s = .next t ∧
        t.part p = { s.part p with mapBusy := true, mapPend := true, mapDone := 0 } ∧ t = { s.partReq with parts := t.parts }))) ∧
  (∀ (p : Nat) (s : State), s.running = true → s.sage.stewardRst = false → (s.part p).mapBusy = true → (s.part p).mapPend = false →
    ∃ t, exec (.mapComplete p) s = .next t ∧ t.part p = { s.part p with mapBusy := false } ∧ t = { s with parts := t.parts }) ∧
  (∀ (p : Nat) (s : State), s.running = true → s.sage.stewardRst = false → (s.part p).mapBusy = true → (s.part p).mapPend = true →
    exec (.mapComplete p) s = .next ((s.doRequest p).modPart p fun q => { q with mapBusy := false })) ∧
  (∀ (k p ctx va : Nat) (wr : Bool) (s : State), s.running = true → k < 8 → p < 32 → s.leafAt p ctx va = none →
    (s.xlat k).hits p ctx va = false → ∃ u : State, exec (.translationWalk k p ctx va wr) s = .next (u.noteFault p k va 1) ∧
      u = { s with xlats := u.xlats, live := u.live, hdrs := u.hdrs }) ∧
  (∀ (k p ctx va : Nat) (wr : Bool) (l : Leaf) (s : State), s.running = true → k < 8 → p < 32 → s.leafAt p ctx va = some l →
    (s.xlat k).hits p ctx va = false → (l.log2 = 16 ∨ l.log2 = 21 ∨ l.log2 = 30) →
    (wr = false ∨ l.w = true → ∃ t, exec (.translationWalk k p ctx va wr) s = .next t ∧
      (∀ x, x ∈ s.walkOf p ctx va → x ∈ (t.xlat k).cache ∨ x ∈ (s.xlat k).cache) ∧ (∃ x, x ∈ (t.xlat k).cache ∧ x.leaf = some l) ∧
      (t.xlat k).cache.length ≤ 4096 ∧ t = { s with xlats := t.xlats, live := t.live, hdrs := t.hdrs }) ∧
    (wr = true → l.w = false → ∃ u : State, exec (.translationWalk k p ctx va wr) s = .next (u.noteFault p k va 2) ∧
      u = { s with xlats := u.xlats, live := u.live, hdrs := u.hdrs })) ∧
  (∀ (k p ctx va : Nat) (wr : Bool) (l : Leaf) (s : State), s.running = true → k < 8 → p < 32 → s.leafAt p ctx va = some l → (wr = false ∨ l.w = true) →
    (s.xlat k).hits p ctx va = true →
    ∃ t, exec (.translationWalk k p ctx va wr) s = .next t ∧ t = { s with live := t.live }) ∧
  (∀ (k : Nat) (v : W64) (s : State), s.up = true → k < 8 →
    ∃ t, exec (.xlatInval k v) s = .next t ∧ (t.xlat k).invalDone = (s.xlat k).invalDone + 1 ∧
      (∀ x, x ∈ (t.xlat k).cache ↔ x ∈ (s.xlat k).cache ∧ bitOf v 63 = false ∧ ¬(x.part = bits v 53 49 ∧ x.ctx = bits v 56 54 ∧
        (bitOf v 62 = true ∨ (x.va ≤ bits v 48 16 * 65536 ∧ bits v 48 16 * 65536 < x.va + 2 ^ x.log2)))) ∧
      t = { s with xlats := t.xlats })

/-- The boot chain and its mailbox (R204, R363 to R367, R436, R442, R446, Tables 16.6, 19.6). With the pins naming a level and an image in flash that passes
every check the firmware runs at that level; with none, or one that fails, the ROM waits for a pushed one, LAST_FAIL keeping the failure; with the pins
naming none it stops. An image passes exactly where all of R363's checks hold. With the tiers initialised BOOT is READY, and not before. A
mailbox command where CODE does not allow it ends with BAD_STATE, one whose image cannot be read with HOST_FAULT; PUSH runs an image
that passes, PUSH_WRITE puts it in flash first, STAGE_FLASH in flash only; one that fails changes no flash and answers its code, and a flash write that
fails leaves no image. MBX_DONE shows the result. While the mailbox is not free its commands do nothing. ROLLBACK_COMMIT blows fuses to the running
image's SVN and revokes the slots below its own. PERST_N keeps fuses, flash, the store's bytes and METER's registers; partitions, contexts,
entries and ports are as after reset. -/
def Obligations.BootChain : Prop :=
  (∀ (sel : BitVec 2) (i : FwImage) (s : State), s.boot.on = true → s.boot.perst = true → sel.toNat < 2 → s.boot.flash = some i →
    s.checkImage i = none →
    ∃ t, exec (.perstNDeassert sel) s = .next t ∧ t.boot.code = 3 ∧ t.boot.perst = false ∧ t.boot.count = s.boot.count + 1 ∧
      t.gfe.level = (if sel = 1 then 1 else 2) ∧ t.sec.aliasReady = true ∧ t.sec.imageSvn = i.svn ∧ t.sec.measured 2 = some i.digest ∧
      t = { s with boot := t.boot, gfe := t.gfe, sec := t.sec, sage := t.sage }) ∧
  (∀ (sel : BitVec 2) (i : FwImage) (c : Nat) (s : State), s.boot.on = true → s.boot.perst = true → sel.toNat < 2 → s.boot.flash = some i →
    s.checkImage i = some c →
    ∃ t, exec (.perstNDeassert sel) s = .next t ∧ t.boot.code = 0x10 ∧ t.boot.lastFail = c ∧ t.sec = s.sec ∧
      t = { s with boot := t.boot, gfe := t.gfe }) ∧
  (∀ (sel : BitVec 2) (s : State), s.boot.on = true → s.boot.perst = true → sel.toNat < 2 → s.boot.flash = none →
    ∃ t, exec (.perstNDeassert sel) s = .next t ∧ t.boot.code = 0x10 ∧ t.boot.lastFail = 0x81 ∧ t = { s with boot := t.boot, gfe := t.gfe }) ∧
  (∀ (sel : BitVec 2) (s : State), s.boot.on = true → s.boot.perst = true → 2 ≤ sel.toNat →
    ∃ t, exec (.perstNDeassert sel) s = .next t ∧ t.boot.code = 0x86 ∧ t = { s with boot := t.boot }) ∧
  (∀ (i : FwImage) (s : State),
    (i.magic = 0x57464C48 ∧ i.target = 0x0840 ∧ i.hdrVer = 1 ∧ i.imageLen = 512 + i.body.length ∧ i.imageLen ≤ 60 * 2 ^ 20 ∧ i.keySlot < 4 ∧
      bitOf s.sec.revoked i.keySlot = false ∧ shake256 i.pubkey 64 = Config.fusedKeyHash i.keySlot ∧ s.sec.fusedSvn ≤ i.svn ∧
      shake256 (fwDigested i) 64 = i.digest ∧ Config.edVerify i.pubkey i.digest i.sig = true) ↔ s.checkImage i = none) ∧
  (∀ s : State, s.up = true → s.boot.code = 3 → s.boot.tiersDone = true → s.sage.fatal = none →
    ∃ t, exec .bootReady s = .next t ∧ t.boot.code = 4 ∧ t = { s with boot := t.boot }) ∧
  (∀ s : State, s.boot.tiersDone = false → exec .bootReady s = .next s) ∧
  (∀ (i : FwImage) (s : State), s.mbxFree = true → s.boot.code = 0x10 →
    (s.checkImage i = none →
      (∃ t, exec (.push (some i)) s = .next t ∧ t.boot.code = 3 ∧ t.boot.pushed = true ∧ t.pcie.mbxBusy = true ∧ t.pcie.mbxRes = 0 ∧
        t.boot.flash = s.boot.flash ∧ t.mem = Memory.write s.mem 0 (fwBytes i)) ∧
      (∃ t, exec (.pushWrite (some i) true) s = .next t ∧ t.boot.code = 3 ∧ t.boot.flash = some i ∧ t.pcie.mbxRes = 0) ∧
      (∃ t, exec (.pushWrite (some i) false) s = .next t ∧ t.boot.code = 0x10 ∧ t.boot.flash = none ∧ t.pcie.mbxRes = 4 ∧ t.sec = s.sec)) ∧
    (∀ c, s.checkImage i = some c →
      (∃ t, exec (.push (some i)) s = .next t ∧ t.boot.code = 0x10 ∧ t.boot.lastFail = c ∧ t.pcie.mbxRes = 2 ∧ t.pcie.mbxFail = c ∧ t.sec = s.sec) ∧
      (∀ f, ∃ t, exec (.pushWrite (some i) f) s = .next t ∧ t.boot.code = 0x10 ∧ t.boot.flash = s.boot.flash ∧ t.pcie.mbxRes = 2))) ∧
  (∀ (f : Bool) (s : State), s.mbxFree = true → s.boot.code = 0x10 →
    (∃ t, exec (.push none) s = .next t ∧ t.pcie.mbxRes = 3 ∧ t.pcie.mbxBusy = true ∧ t.boot = s.boot ∧ t.sec = s.sec ∧ t.mem = s.mem) ∧
    (∃ t, exec (.pushWrite none f) s = .next t ∧ t.pcie.mbxRes = 3 ∧ t.pcie.mbxBusy = true ∧ t.boot = s.boot ∧ t.sec = s.sec ∧ t.mem = s.mem)) ∧
  (∀ (i : Option FwImage) (f : Bool) (s : State), s.mbxFree = true → s.boot.code ≠ 0x10 →
    (∃ t, exec (.push i) s = .next t ∧ t.pcie.mbxRes = 1 ∧ t.pcie.mbxBusy = true ∧ t = { s with pcie := t.pcie }) ∧
    (∃ t, exec (.pushWrite i f) s = .next t ∧ t.pcie.mbxRes = 1 ∧ t.pcie.mbxBusy = true ∧ t = { s with pcie := t.pcie })) ∧
  (∀ (i : Option FwImage) (f : Bool) (s : State), s.mbxFree = false →
    exec (.push i) s = .next s ∧ exec (.pushWrite i f) s = .next s ∧ exec (.stageFlash i f) s = .next s) ∧
  (∀ (i : FwImage) (s : State), s.mbxFree = true → s.boot.code = 4 → s.checkImage i = none →
    ∃ t, exec (.stageFlash (some i) true) s = .next t ∧ t.boot = { s.boot with flash := some i } ∧ t.pcie.mbxRes = 0 ∧ t.pcie.mbxBusy = true ∧
      t.sec = s.sec ∧ t.dbg.traceOn = false ∧ t = { s with boot := t.boot, pcie := t.pcie, dbg := t.dbg, live := t.live }) ∧
  (∀ (i : FwImage) (s : State), s.mbxFree = true → s.boot.code = 4 →
    (s.checkImage i = none → ∃ t, exec (.stageFlash (some i) false) s = .next t ∧ t.boot = { s.boot with flash := none } ∧ t.pcie.mbxRes = 4 ∧
      t.sec = s.sec) ∧
    (∀ c f, s.checkImage i = some c → ∃ t, exec (.stageFlash (some i) f) s = .next t ∧ t.boot = s.boot ∧ t.pcie.mbxRes = 2 ∧ t.pcie.mbxFail = c ∧
      t.sec = s.sec)) ∧
  (∀ (f : Bool) (s : State), s.mbxFree = true → s.boot.code = 4 →
    ∃ t, exec (.stageFlash none f) s = .next t ∧ t.boot = s.boot ∧ t.pcie.mbxRes = 3) ∧
  (∀ (i : Option FwImage) (f : Bool) (s : State), s.mbxFree = true → s.boot.code ≠ 4 →
    ∃ t, exec (.stageFlash i f) s = .next t ∧ t.pcie.mbxRes = 1 ∧ t.boot = s.boot ∧ t = { s with pcie := t.pcie }) ∧
  (∀ s : State, s.up = true → s.pcie.mbxBusy = true →
    ∃ t, exec .mbxDone s = .next t ∧ t.pcie.mbxBusy = false ∧ bits t.pcie.mbxStat 15 8 = s.pcie.mbxRes % 256 ∧
      bits t.pcie.mbxStat 23 16 = s.pcie.mbxFail % 256 ∧ bitOf (t.hdr pgPCIE).intStat 2 = true ∧
      t = { s with pcie := t.pcie, dbg := t.dbg, hdrs := t.hdrs, out := t.out }) ∧
  (∀ (v : W64) (s : State), s.up = true → bitOf v 0 = true → s.sec.aliasReady = true →
    ∃ t, exec (.rollbackCommit v) s = .next t ∧ t.sec.fusedSvn = min 64 (max s.sec.fusedSvn s.sec.imageSvn) ∧
      (∀ k, k < 4 → t.sec.revoked.getLsbD k = (s.sec.revoked.getLsbD k || decide (k < s.sec.imageSlot))) ∧
      t = { s with sec := t.sec }) ∧
  (∀ s : State, s.boot.on = true → s.boot.perst = false →
    ∃ t, exec .perstNAssert s = .next t ∧ t.boot.perst = true ∧ t.up = false ∧ t.sec.fusedSvn = s.sec.fusedSvn ∧ t.sec.revoked = s.sec.revoked ∧
      t.boot.flash = (if s.dbg.staging then none else s.boot.flash) ∧ t.fmu = { s.fmu with stopped := true } ∧ t.parts = State.reset.parts ∧
      t.ctxs = State.reset.ctxs ∧ t.ents = [] ∧ t.ports = State.reset.ports ∧ t.pending = s.pending ∧ t.mem = s.mem ∧
      (∀ o, o < 4096 → t.rg (pk tMETER 0) o = s.rg (pk tMETER 0) o))

/-- SPDM, keys and TDISP (R306, R360, R368 to R372, R454). While the firmware serves and holds the alias key: GET_VERSION starts over; capabilities follow the
version, algorithms the capabilities; digests, certificates, challenges and measurements are answered once algorithms are agreed, and with an
error before. At most four sessions, begun by KEY_EXCHANGE and established by a FINISH that verifies. Over an established one keys are updated and
set, and it ends; a link key replaces the last; a flow key is taken while the partition's context is unbound, starts the partition's flow
counters anew and takes a locked or running interface to ERROR; else it is refused; and over no such session KEY_SET is refused. An existing VF's
interface locks, starts and stops from the states that allow it. A report is requested, once, with the nonce as it stands, and ends in the buffer with DONE. That SPDM's order
is kept so, and that STOP_INTERFACE takes CONFIG_LOCKED too, is the model's choice (log entry 51). While the responder does not serve nothing changes. -/
def Obligations.SecurityRequests : Prop :=
  (∀ s : State, s.spdmOn = true → ∃ t, exec .getVersion s = .next t ∧ t.sec = { s.sec with versionDone := true, capsDone := false, algsDone := false } ∧
    t.out = s.out ++ [.spdm 0 [0x12]] ∧ t = { s with sec := t.sec, live := t.live, out := t.out }) ∧
  (∀ s : State, s.spdmOn = true →
    (s.sec.versionDone = true → ∃ t b, exec .getCapabilities s = .next t ∧ t.sec = { s.sec with capsDone := true } ∧ t.out = s.out ++ [.spdm 1 b]) ∧
    (s.sec.versionDone = true → s.sec.capsDone = true → ∃ t b, exec .negotiateAlgorithms s = .next t ∧
      t.sec = { s.sec with algsDone := true } ∧ t.out = s.out ++ [.spdm 2 b])) ∧
  (∀ (c : Instr) (off len : Nat) (nonce : Bytes) (s : State), s.spdmOn = true → off + len ≤ 65535 → nonce.length ≤ 64 →
    c = .getDigests ∨ c = .getCertificate 0 off len ∨ c = .challenge nonce ∨ c = .getMeasurements 0 ∨ c = .getMeasurements 0xFF →
    (s.sec.agreed = true → ∃ t k b, exec c s = .next t ∧ k < 7 ∧ t.out = s.out ++ [.spdm k b] ∧
      t = { s with live := t.live, out := t.out, freeCtr := t.freeCtr }) ∧
    (s.sec.agreed = false → exec c s = .next (s.send (.spdm 0x7F [])))) ∧
  (∀ (x : Nat) (m : Bytes) (s : State), s.spdmOn = true → s.sec.agreed = true → x ≠ 0 → x ≠ 0xFF → s.measured x = some m →
    ∃ t, exec (.getMeasurements x) s = .next t ∧ t.out = s.out ++ [.spdm 6 m] ∧ t = { s with live := t.live, out := t.out }) ∧
  (∀ (d : Bytes) (s : State), s.spdmOn = true → s.sec.agreed = true → d.length ≤ 4096 →
    (s.sec.sessions.length < 4 → ∃ t, exec (.keyExchange d) s = .next t ∧ t.sec.sessions = s.sec.sessions ++ [(s.sec.nextSid, false)] ∧
      t.sec.nextSid = s.sec.nextSid + 1 ∧ t = { s with sec := t.sec, live := t.live, out := t.out }) ∧
    (4 ≤ s.sec.sessions.length → exec (.keyExchange d) s = .next (s.send (.spdm 0x7F [])))) ∧
  (∀ (x : Nat) (s : State), s.spdmOn = true → (x, false) ∈ s.sec.sessions →
    (∃ t, exec (.finish x true) s = .next t ∧ t.sec.open x = true ∧ t = { s with sec := t.sec, live := t.live, out := t.out }) ∧
    (∃ t, exec (.finish x false) s = .next t ∧ (∀ b, (x, b) ∉ t.sec.sessions) ∧ t.out = s.out ++ [.spdm 0x7F []])) ∧
  (∀ (x : Nat) (s : State), s.spdmOn = true → s.sec.open x = true →
    (∃ t, exec (.keyUpdate x) s = .next t ∧ t.out = s.out ++ [.spdm 9 []] ∧ t = { s with live := t.live, out := t.out }) ∧
    (∃ t, exec (.endSession x) s = .next t ∧ t.sec.open x = false ∧ t = { s with sec := t.sec, live := t.live, out := t.out }) ∧
    (∀ key : BitVec 256, ∃ t, exec (.keySet x none key) s = .next t ∧ t.sec.linkKey = some key ∧ t.sec.linkKeyGen = s.sec.linkKeyGen + 1 ∧
      t = { s with sec := t.sec, live := t.live, out := t.out }) ∧
    (∀ (p : Nat) (key : BitVec 256), p < 32 → (s.part p).state = .active → (s.ctx p).bound = false →
      ∃ t, exec (.keySet x (some p) key) s = .next t ∧ Tbl.get 0 t.sec.flowKeys p = key ∧
        (∀ e l, l < 3 → Tbl.get 0 (t.port e).fctr (flowKey p l) = 0) ∧
        (∀ e q l, q < 32 → q ≠ p → l < 3 → Tbl.get 0 (t.port e).fctr (flowKey q l) = Tbl.get 0 (s.port e).fctr (flowKey q l)) ∧
        (t.part p).tdi = (if (s.part p).tdi = .locked ∨ (s.part p).tdi = .run then .error else (s.part p).tdi)) ∧
    (∀ (p : Nat) (key : BitVec 256), p < 32 → (s.ctx p).bound = true ∨ (s.part p).state = .tearingDown ∨ (s.part p).state = .scrubbing →
      ∃ t, exec (.keySet x (some p) key) s = .next t ∧ t.sec = s.sec ∧ t.ports = s.ports ∧ t.out = s.out ++ [.spdm 0x7F []]) ∧
    (∀ key : Bytes, key.length = 57 → ∃ t, exec (.dbgKeySet x key) s = .next t ∧ t.sec = { s.sec with dbgKey := some key }) ∧
    (∀ (n : Nat) (key : BitVec 256), n ≤ 32 → ∃ t, exec (.ideKm x n key) s = .next t ∧ Tbl.get 0 t.sec.ideKeys n = key ∧
      (n = 0 → t.sec.ideLink = true))) ∧
  (∀ (x : Nat) (o : Option Nat) (key : BitVec 256) (s : State), s.spdmOn = true → s.sec.open x = false →
    ∃ t, exec (.keySet x o key) s = .next t ∧ t.sec = s.sec ∧ t.out = s.out ++ [.spdm 0x7F []]) ∧
  (∀ (p : Nat) (s : State), s.spdmOn = true → p < 32 → bitOf s.pcie.vfEn p = true →
    ((s.part p).tdi = .unlocked → ∃ t, exec (.lockInterface p) s = .next t ∧ t.part p = { s.part p with tdi := .locked } ∧
      t = { s with parts := t.parts, live := t.live, out := t.out }) ∧
    ((s.part p).tdi = .locked → ∃ t, exec (.startInterface p) s = .next t ∧ t.part p = { s.part p with tdi := .run } ∧
      t = { s with parts := t.parts, live := t.live, out := t.out }) ∧
    ((s.part p).tdi ≠ .locked → exec (.startInterface p) s = .next (s.send (.spdm 0x7F []))) ∧
    ((s.part p).tdi ≠ .unlocked → exec (.lockInterface p) s = .next (s.send (.spdm 0x7F []))) ∧
    (∃ t, exec (.stopInterface p) s = .next t ∧ t.part p = { s.part p with tdi := .unlocked } ∧
      t = { s with parts := t.parts, live := t.live, out := t.out })) ∧
  (∀ (p : Nat) (s : State), s.running = true → p < 32 → bitOf (s.rg (pgVS p) 0x348) 0 = true →
    exec (.reportRequest p) s = .next s ∧ ∃ t, exec (.reportDone p) s = .next t ∧ t.rg (pgVS p) 0x348 = 2 ∧
      (∀ i, i < 64 → t.rgN (pgVS p) (0x400 + 8 * i) = ofLe (((s.report p).drop (8 * i)).take 8)) ∧
      t = { s with rf := t.rf, live := t.live }) ∧
  (∀ (p : Nat) (s : State), s.up = true → p < 32 → bitOf (s.rg (pgVS p) 0x348) 0 = false →
    ∃ t, exec (.reportRequest p) s = .next t ∧ t.rg (pgVS p) 0x348 = 1 ∧ Tbl.get [] t.sec.nonces p = s.nonceOf p ∧
      t = { s with rf := t.rf, sec := { s.sec with nonces := t.sec.nonces } }) ∧
  (∀ (c : Instr) (x off len p : Nat) (b : Bytes) (v : Bool) (key : BitVec 256) (o : Option Nat) (s : State), s.spdmOn = false →
    c ∈ [.getVersion, .getCapabilities, .negotiateAlgorithms, .getDigests, .getCertificate x off len, .challenge b, .getMeasurements x, .keyExchange b,
      .finish x v, .keyUpdate x, .endSession x, .keySet x o key, .dbgKeySet x b, .ideKm x off key, .lockInterface p, .startInterface p,
      .stopInterface p] → exec c s = .next s)

/-- FMU taps and windows (R378 to R384, R386, R475, R476). A tapped token of a metered stream is counted for it and no other, in the window
in progress, or in a supplementary record of the closed window it belongs to; one of no metered stream only in UNREGISTERED; an edge notice
counts the step, repeat or abandon of the metered streams it names; the oldest tapped doorbell and fetch are taken, and a fetch gives the
streams that await one their arrival; at a window's end the counts start again and the next window opens; house time that steps closes the
window and makes time suspect, until ten clean seconds. A message of a window not yet open waits (log entry 48); without power, or with
nothing in the tap, nothing happens. -/
def Obligations.MeterCountsTaps : Prop :=
  (∀ (m : Msg32) (rest : List TapMsg) (s : State), s.emit.tap = .token m :: rest → s.fmuOn = true →
    let p := byteFld m 10 1 % 32
    let st : W32 := BitVec.ofNat 32 (byteFld m 0 4)
    let e : W64 := BitVec.ofNat 64 (byteFld m 24 8)
    (s.fmu.placeOf e = .ahead → exec .tokenRecordTap s = .next s) ∧
    (s.fmu.placeOf e ≠ .ahead → s.fmu.meteredAt p st e = none → ∃ t, exec .tokenRecordTap s = .next t ∧
      t.fmu = { s.fmu with unreg := s.fmu.unreg + 1 } ∧ t.emit = { s.emit with tap := rest } ∧
      t = { s with fmu := t.fmu, emit := t.emit, live := t.live }) ∧
    (s.fmu.placeOf e = .current → (s.fmu.meteredAt p st e).isSome = true → ∃ t, exec .tokenRecordTap s = .next t ∧
      t.fmu.streams.map (fun y => (y.part, y.stream, y.c.tokens)) =
        s.fmu.streams.map (fun y => (y.part, y.stream, y.c.tokens + if y.part = p ∧ y.stream = st then 1 else 0)) ∧
      t.fmu.unreg = s.fmu.unreg ∧ t.emit = { s.emit with tap := rest } ∧ t = { s with fmu := t.fmu, emit := t.emit, live := t.live }) ∧
    (∀ w, s.fmu.placeOf e = .late w → (s.fmu.meteredAt p st e).isSome = true → ∃ t x, exec .tokenRecordTap s = .next t ∧
      x ∈ t.fmu.late ∧ x.win = w ∧ x.part = p ∧ x.stream = st ∧ 0 < x.c.tokens ∧
      t.fmu.streams.map (fun y => y.c.tokens) = s.fmu.streams.map (fun y => y.c.tokens) ∧
      t = { s with fmu := t.fmu, emit := t.emit, live := t.live })) ∧
  (∀ s : State, s.fmuOn = false ∨ (s.emit.tap = [] ∧ s.fmu.doorTap = [] ∧ s.fmu.fetchTap = []) →
    exec .tokenRecordTap s = .next s ∧ exec .edgeNotice s = .next s ∧ exec .doorbellTap s = .next s ∧ exec .launchTap s = .next s) ∧
  (∀ s : State, s.fmuOn = false → exec .meterWindowEdge s = .next s ∧ exec .timeTap s = .next s ∧ exec .fmuSecond s = .next s) ∧
  (∀ (m : Msg32) (rest : List TapMsg) (s : State), s.emit.tap = .edge m :: rest → s.fmuOn = true →
    s.fmu.placeOf (BitVec.ofNat 64 (byteFld m 24 8)) = .current →
    s.fmu.streams.Pairwise (fun a b => a.part ≠ b.part ∨ a.stream ≠ b.stream) →
    let hit := fun (y : FStream) => y.part == byteFld m 0 1 && decide (byteFld m 4 4 ≤ y.stream.toNat ∧ y.stream.toNat < byteFld m 4 4 + byteFld m 8 2) &&
      y.at (BitVec.ofNat 64 (byteFld m 24 8))
    ∃ t, exec .edgeNotice s = .next t ∧
      t.fmu.streams.map (fun y => (y.part, y.stream, y.c.steps, y.c.repeats, y.c.abandons)) =
        s.fmu.streams.map (fun y => (y.part, y.stream, y.c.steps + (if hit y ∧ byteFld m 1 1 = 1 then 1 else 0),
          y.c.repeats + (if hit y ∧ byteFld m 1 1 = 2 then 1 else 0),
          y.c.abandons + if hit y ∧ byteFld m 1 1 ≠ 1 ∧ byteFld m 1 1 ≠ 2 then 1 else 0)) ∧
      t.emit = { s.emit with tap := rest } ∧ t = { s with fmu := t.fmu, emit := t.emit, live := t.live }) ∧
  (∀ (d : Door) (r : List Door) (s : State), s.fmuOn = true → s.fmu.doorTap = d :: r →
    exec .doorbellTap s = .next { s with fmu := { s.fmu with doorTap := r, doors := s.fmu.doors ++ [d] } }) ∧
  (∀ (x : FetchTap) (r : List FetchTap) (s : State), s.fmuOn = true → s.fmu.fetchTap = x :: r →
    ∃ t, exec .launchTap s = .next t ∧ t.fmu.fetchTap = r ∧
      (∀ y, y ∈ s.fmu.streams → y.part = x.part → x.stream0.toNat ≤ y.stream.toNat → y.stream.toNat < x.stream0.toNat + x.nstreams →
        y.awaiting = true → y.arr = none → y.goneAt = none → y.reqAt ≤ x.t → { y with arr := some (s.fmu.arrival x) } ∈ t.fmu.streams) ∧
      t = { s with fmu := t.fmu, live := t.live }) ∧
  (∀ s : State, s.fmuOn = true → s.fmu.winEnd ≤ s.fmu.tapNow.toNat →
    ∃ t, exec .meterWindowEdge s = .next t ∧ (∀ x, x ∈ t.fmu.streams → x.c = FCounts.zero) ∧ t.fmu.late = [] ∧ t.fmu.unreg = 0 ∧
      t.fmu.acks = 0 ∧ t.fmu.edgeRun = [] ∧ s.fmu.winEnd ≤ t.fmu.closed ∧ t.fmu.winStart = BitVec.ofNat 64 (winOf t.fmu.winMs s.fmu.winEnd) ∧
      (t.fmu.winMs = s.fmu.winMs ∨ t.fmu.winMs = s.fmu.winPend)) ∧
  (∀ s : State, s.fmu.tapNow.toNat < s.fmu.winEnd → exec .meterWindowEdge s = .next s) ∧
  (∀ s : State, s.fmuOn = true → s.fmu.tapSeen = false → ∃ t, exec .timeTap s = .next t ∧ t.fmu.tapNow = s.time.now ∧
    t.fmu.tapSeen = true ∧ t.fmu.winStart = BitVec.ofNat 64 (winOf s.fmu.winMs s.time.now.toNat) ∧ t = { s with fmu := t.fmu }) ∧
  (∀ s : State, s.fmuOn = true → s.fmu.tapSeen = true →
    (s.fmu.tapNow ≤ s.time.now → s.time.now.toNat ≤ s.fmu.tapNow.toNat + 1000000 → ∃ t, exec .timeTap s = .next t ∧
      t.fmu.tapNow = s.time.now ∧ t.fmu.tapLock = s.time.lock ∧ t.fmu.streams = s.fmu.streams ∧ t.fmu.winStart = s.fmu.winStart ∧
      t = { s with fmu := t.fmu }) ∧
    (s.time.now < s.fmu.tapNow ∨ s.fmu.tapNow.toNat + 1000000 < s.time.now.toNat → ∃ t, exec .timeTap s = .next t ∧
      t.fmu.tapNow = s.time.now ∧ t.fmu.suspect = true ∧ t.fmu.clean = 0 ∧ (∀ x, x ∈ t.fmu.streams → x.c = FCounts.zero) ∧
      t.fmu.winStart = BitVec.ofNat 64 (winOf s.fmu.winMs s.time.now.toNat))) ∧
  (∀ s : State, s.fmuOn = true →
    let d : Int := (s.fmu.tapNow.toNat : Int) - s.fmu.secNow.toNat - 1000000000
    (50000 < d.natAbs ∨ s.fmu.stepped = true → ∃ t, exec .fmuSecond s = .next t ∧ t.fmu.suspect = true ∧ t.fmu.clean = 0 ∧
      t.fmu.secNow = s.fmu.tapNow) ∧
    (d.natAbs ≤ 50000 → s.fmu.stepped = false → ∃ t, exec .fmuSecond s = .next t ∧ t.fmu.clean = s.fmu.clean + 1 ∧
      t.fmu.suspect = (s.fmu.suspect && decide (s.fmu.clean + 1 < 10)) ∧ t = { s with fmu := t.fmu }))

/-- FMU rings, commands and the seal (R386 to R397, Table 17.6). The oldest buffered record goes to the ring, with the new tail, where there
is room, and a fault stops the ring; a VF's oldest copy goes to its ring likewise. Each command runs its check: reserved bytes that are not
zero answer BAD_ARG and change nothing it names, others do what the command says; every command but an accepted RING_ACK (log entry 49)
takes a record number, two where START comes before it, or counts a lost record. On an S1 part the seal's fuse blows once. -/
def Obligations.MeterRingsAndCommands : Prop :=
  (∀ (x : Flit) (rest : List Flit) (s : State), s.fmuOn = true → s.up = true → s.fmu.buf = x :: rest → s.fmu.ringSet = true →
    s.fmu.ringFault = false → s.fmu.stopped = false → s.bme .pf = true →
    let next := (s.fmu.ringTail + 1) % max 1 s.fmu.ringSize
    (next ≠ s.fmu.ringHead → s.writeFaults .pf false = false → ∃ t more, exec (.recordWrite false) s = .next t ∧ t.fmu.buf = rest ∧ t.fmu.ringTail = next ∧
      t.out = s.out ++ [.hostWrite .pf (s.fmu.ringBase.toNat + 256 * s.fmu.ringTail) (leBytes 256 x.toNat) false false,
        .hostWrite .pf s.fmu.ringTailAddr.toNat (leBytes 8 next) false false] ++ more) ∧
    (next ≠ s.fmu.ringHead → s.atsOn .pf = true → ∃ t, exec (.recordWrite true) s = .next t ∧ t.fmu = { s.fmu with ringFault := true } ∧
      bitOf (t.hdr pgMETER).intStat 0 = true) ∧
    (next = s.fmu.ringHead → exec (.recordWrite false) s = .next s)) ∧
  (∀ (p : Nat) (x : Flit) (rest : List Flit) (v : VfRing) (s : State), s.fmuOn = true → s.up = true → p < 32 →
    Tbl.get VfRing.zero s.fmu.vf p = v → v.copies = x :: rest → v.configured = true → s.fmu.stopped = false → bitOf s.fmu.vfFault p = false →
    s.bme (.vf p) = true →
    let next := (v.tail + 1) % max 1 v.entries
    (next ≠ v.head → s.writeFaults (.vf p) false = false → ∃ t, exec (.vfCopyWrite p none false) s = .next t ∧
      Tbl.get VfRing.zero t.fmu.vf p = { v with copies := rest, tail := next }) ∧
    (next = v.head → exec (.vfCopyWrite p none false) s = .next s) ∧
    (next = v.head → ∃ t, exec (.vfCopyWrite p (some .refused) false) s = .next t ∧ bitOf t.fmu.vfFault p = true ∧ t.fmu.vf = s.fmu.vf)) ∧
  (∀ (k : Nat) (c : Instr) (s : State), s.fmuOn = true → s.up = true → byteFld s.meterCmd 0 1 = k →
    (k, c) ∈ [(1, Instr.setWindow), (2, .register), (3, .unregister), (4, .ringSet), (5, .ringAck), (6, .vfRingSet), (7, .setHold), (8, .note)] →
    (cmdZero s.meterCmd = false → ∃ t, exec c s = .next t ∧ t.fmu.cmdRes = 1 ∧ t.fmu.streams = s.fmu.streams ∧ t.fmu.winPend = s.fmu.winPend) ∧
    (cmdZero s.meterCmd = true → ∃ t, exec c s = .next t ∧ t.fmu.cmdRes = BitVec.ofNat 8 (s.fmu.command s.meterCmd).1) ∧
    (k ≠ 5 ∨ cmdZero s.meterCmd = false → ∃ t, exec c s = .next t ∧ BitVec.ofNat 64 t.fmu.seq + t.fmu.lostAll =
      BitVec.ofNat 64 s.fmu.seq + s.fmu.lostAll + if s.fmu.seq = 0 then 2 else 1)) ∧
  (∀ s : State, s.fmuOn = true → s.up = true → cmdZero s.meterCmd = true →
    (byteFld s.meterCmd 0 1 = 1 → 100 ≤ byteFld s.meterCmd 8 4 → 3600000 % byteFld s.meterCmd 8 4 = 0 →
      ∃ t, exec .setWindow s = .next t ∧ t.fmu.winPend = byteFld s.meterCmd 8 4 ∧ t.fmu.winMs = s.fmu.winMs) ∧
    (byteFld s.meterCmd 0 1 = 2 → byteFld s.meterCmd 4 1 < 32 → (s.fmu.streams.filter fun x => x.goneAt.isNone).length < 8192 →
      ∃ t x, exec .register s = .next t ∧ t.fmu.cmdRes = 0 ∧ x ∈ t.fmu.streams ∧ x.part = byteFld s.meterCmd 4 1 ∧
        x.stream = BitVec.ofNat 32 (byteFld s.meterCmd 8 4) ∧ x.goneAt = none ∧ x.awaiting = true ∧ x.arr = none) ∧
    (byteFld s.meterCmd 0 1 = 2 → byteFld s.meterCmd 4 1 < 32 → 8192 ≤ (s.fmu.streams.filter fun x => x.goneAt.isNone).length →
      (∀ x, x ∈ s.fmu.streams → x.part = byteFld s.meterCmd 4 1 → x.stream = BitVec.ofNat 32 (byteFld s.meterCmd 8 4) → x.goneAt.isSome = true) →
      ∃ t, exec .register s = .next t ∧ t.fmu.cmdRes = 2 ∧ t.fmu.streams = s.fmu.streams) ∧
    (byteFld s.meterCmd 0 1 = 3 → byteFld s.meterCmd 4 1 < 32 →
      ∃ t, exec .unregister s = .next t ∧ (∀ x, x ∈ t.fmu.streams → x.part = byteFld s.meterCmd 4 1 →
          x.stream = BitVec.ofNat 32 (byteFld s.meterCmd 8 4) → x.goneAt.isSome = true) ∧
        t.fmu.cmdRes = if (s.fmu.streams.any fun x => x.part == byteFld s.meterCmd 4 1 && x.stream == BitVec.ofNat 32 (byteFld s.meterCmd 8 4) &&
          x.goneAt.isNone) then 0 else 3) ∧
    (byteFld s.meterCmd 0 1 = 4 → ringOk s.meterCmd = true →
      ∃ t, exec .ringSet s = .next t ∧ t.fmu.ringSet = true ∧ t.fmu.ringFault = false ∧ t.fmu.stopped = false ∧ t.fmu.ringTail = 0 ∧
        t.fmu.ringHead = 0 ∧ t.fmu.ringBase = BitVec.ofNat 64 (byteFld s.meterCmd 8 8) ∧ t.fmu.ringSize = byteFld s.meterCmd 16 4) ∧
    (byteFld s.meterCmd 0 1 = 5 → s.fmu.ringSet = true → byteFld s.meterCmd 8 4 < s.fmu.ringSize →
      (byteFld s.meterCmd 8 4 + s.fmu.ringSize - s.fmu.ringHead) % s.fmu.ringSize ≤
        (s.fmu.ringTail + s.fmu.ringSize - s.fmu.ringHead) % s.fmu.ringSize →
      ∃ t, exec .ringAck s = .next t ∧ t.fmu.ringHead = byteFld s.meterCmd 8 4 ∧ t.fmu.acks = s.fmu.acks + 1 ∧ t.fmu.seq = s.fmu.seq) ∧
    (byteFld s.meterCmd 0 1 = 6 → byteFld s.meterCmd 4 1 < 32 → byteFld s.meterCmd 16 4 ≠ 0 → ringOk s.meterCmd = true →
      byteFld s.meterCmd 32 8 % 8 = 0 →
      ∃ t, exec .vfRingSet s = .next t ∧ (Tbl.get VfRing.zero t.fmu.vf (byteFld s.meterCmd 4 1)).configured = true ∧
        (Tbl.get VfRing.zero t.fmu.vf (byteFld s.meterCmd 4 1)).entries = byteFld s.meterCmd 16 4 ∧ bitOf t.fmu.vfFault (byteFld s.meterCmd 4 1) = false) ∧
    (byteFld s.meterCmd 0 1 = 6 → byteFld s.meterCmd 4 1 < 32 → byteFld s.meterCmd 16 4 = 0 →
      ∃ t, exec .vfRingSet s = .next t ∧ (Tbl.get VfRing.zero t.fmu.vf (byteFld s.meterCmd 4 1)).configured = false ∧ t.fmu.cmdRes = 0) ∧
    (byteFld s.meterCmd 0 1 = 7 → ∃ t, exec .setHold s = .next t ∧ t.fmu.emitHold = bitOf s.meterCmd 64) ∧
    (byteFld s.meterCmd 0 1 = 8 → ∃ t, exec .note s = .next t ∧ t.fmu.cmdRes = 0 ∧ t.fmu.streams = s.fmu.streams)) ∧
  (∀ (c : Instr) (s : State), s.fmuOn = false ∨ s.up = false →
    c ∈ [Instr.setWindow, .register, .unregister, .ringSet, .ringAck, .vfRingSet, .setHold, .note, .recordWrite false] → exec c s = .next s) ∧
  (∀ s : State, s.fmuOn = true → s.fmu.sealBlown = false →
    ∃ t, exec .seal s = .next t ∧ t.fmu.sealBlown = Config.sealS1 ∧
      (Config.sealS1 = true → bitOf (t.hdr pgMETER).intStat 1 = true) ∧ (Config.sealS1 = false → t = s)) ∧
  (∀ s : State, s.fmuOn = false ∨ s.fmu.sealBlown = true → exec .seal s = .next s)

/-- Compute resets (R406, R408 to R412, R415, R416, R418, R433, R434). A trigger is taken by an ACTIVE partition and merges into a reset that
runs; the reset starts once no commit is pending and the next generation is free, advances the generation, clears cores and buffers, freezes
the context and keeps the step number; at its end the context serves again, or the partition is quarantined. The device's reset does so for
every ACTIVE partition and empties page operations and translation caches; at its end every partition's reset ends, and the fourth counted
one in an hour puts the module out of service. The oldest reset record goes to the ring while it has room. Function resets end the
function's queues and entries and trigger a reset that writes no CQ entry. -/
def Obligations.ComputeResets : Prop :=
  (∀ (v : W64) (s : State), s.up = true → (s.part (bits v 4 0)).rst = 0 → (s.part (bits v 4 0)).state = .active → s.sage.devRst = 0 →
    s.sage.oos = false → s.sage.fatal = none →
    ∃ t, exec (.preset v) s = .next t ∧ (t.part (bits v 4 0)).rst = 1 ∧ (t.part (bits v 4 0)).rstCause = 0x12 ∧
      (t.part (bits v 4 0)).rstDrop = bitOf v 8 ∧ (t.part (bits v 4 0)).rstTrigger = s.time.now ∧ t = { s with parts := t.parts }) ∧
  (∀ (v : W64) (s : State), s.up = false ∨ (s.part (bits v 4 0)).rst ≠ 0 ∨ (s.part (bits v 4 0)).state ≠ .active ∨ s.sage.devRst ≠ 0 →
    exec (.preset v) s = .next s) ∧
  (∀ (v : W64) (s : State), s.up = true → bitOf v 0 = true → s.sage.fatal = none →
    (s.sage.devRst = 0 → ∃ t, exec (.dreset v) s = .next t ∧ t.sage.devRst = 1 ∧ t.sage.devCause = 0x12 ∧ t = { s with sage := t.sage }) ∧
    (s.sage.devRst ≠ 0 → exec (.dreset v) s = .next s)) ∧
  (∀ (p : Nat) (s : State), s.up = true → s.sage.fatal = none → (s.part p).rst = 1 → s.sage.devRst ≠ 2 →
    (s.commitPending p = false → s.genUnused p ((s.part p).gen + 1) = true → ∃ t, exec (.partitionComputeReset p) s = .next t ∧
      (t.part p).rst = 2 ∧ (t.part p).gen = (s.part p).gen + 1 ∧ (t.ctx p).frozen = true ∧ (t.ctx p).running = false ∧
      (t.ctx p).cur = (s.ctx p).cur ∧ (t.ctx p).bound = (s.ctx p).bound ∧
      (∀ k, k ∈ s.coresOf p → (t.core k).dc = [] ∧ (t.core k).queues = [] ∧ ∀ a, k * 2 ^ 23 ≤ a → a < (k + 1) * 2 ^ 23 → Memory.read1 t.cb a = 0) ∧
      (∀ q, q ≠ p → (t.part q).gen = (s.part q).gen) ∧
      ((s.part p).rstCause ≠ 0x11 → (t.part p).hangs = (s.part p).hangs ∧ (t.part p).quarantining = false)) ∧
    (s.commitPending p = true ∨ s.genUnused p ((s.part p).gen + 1) = false → exec (.partitionComputeReset p) s = .next s)) ∧
  (∀ (p : Nat) (s : State), s.up = true → s.sage.fatal = none → (s.part p).rst = 2 → s.sage.devRst ≠ 2 → (s.part p).tdStep = 0 →
    ∃ t, exec (.partitionResetComplete p) s = .next t ∧ (t.part p).rst = 0 ∧ bitOf (t.hdr pgSAGE).intStat 1 = true ∧
      ((s.part p).quarantining = true → (t.part p).state = .quarantined ∧ bitOf (t.hdr pgSAGE).intStat 2 = true) ∧
      ((s.part p).quarantining = false → (t.part p).state = (s.part p).state ∧ (t.ctx p).frozen = false)) ∧
  (∀ s : State, s.up = true → s.sage.fatal = none → s.sage.devRst = 1 → (List.range 32).any s.commitPending = false →
    (∀ p, p ∈ s.activeParts → s.genUnused p ((s.part p).gen + 1) = true) →
    ∃ t, exec .deviceComputeReset s = .next t ∧ t.sage.devRst = 2 ∧ t.sage.devStart = s.time.now ∧
      (∀ p, p ∈ s.activeParts → (t.part p).rst = 2 ∧ (t.part p).gen = (s.part p).gen + 1 ∧ (t.ctx p).frozen = true ∧ (t.ctx p).cur = (s.ctx p).cur) ∧
      (∀ k, (t.kpm k).ops = [] ∧ (t.xlat k).cache = [])) ∧
  (∀ s : State, s.sage.devRst ≠ 1 ∨ (List.range 32).any s.commitPending = true → exec .deviceComputeReset s = .next s) ∧
  (∀ s : State, s.up = true → s.sage.fatal = none → s.sage.devRst = 2 →
    ∃ t, exec .deviceResetComplete s = .next t ∧ t.sage.devRst = 0 ∧ (∀ p, p < 32 → (s.part p).rst = 2 → (t.part p).rst = 0) ∧
      t.sage.oos = (s.sage.oos || ((s.sage.devCause == 0x14 || s.sage.devCause == 0x15) && decide (4 ≤ s.sage.counted.length))) ∧
      bitOf (t.hdr pgSAGE).intStat 1 = true) ∧
  (∀ (r : ResetRec) (rest : List ResetRec) (s : State), s.up = true → s.sage.recs = r :: rest → s.bme .pf = true →
    let slots := bits (s.rg pgSAGE 0x258) 7 0
    let next := (s.sage.recTail + 1) % max 1 slots
    (slots ≠ 0 → next ≠ bits (s.rg pgSAGE 0x268) 7 0 → s.writeFaults .pf false = false → ∃ t, exec (.resetRecordCopy false) s = .next t ∧
      t.sage.recs = rest ∧ t.sage.recTail = next ∧
      t.out = s.out ++ [.hostWrite .pf (s.rgN pgSAGE 0x250 / 2 ^ 18 * 2 ^ 18 + 2 ^ 18 * s.sage.recTail) r.bytes false false]) ∧
    (slots ≠ 0 → next ≠ bits (s.rg pgSAGE 0x268) 7 0 → s.atsOn .pf = true → ∃ t, exec (.resetRecordCopy true) s = .next t ∧
      t.sage = s.sage ∧ bitOf (t.hdr pgPCIE).intStat 1 = true) ∧
    (slots = 0 ∨ next = bits (s.rg pgSAGE 0x268) 7 0 → exec (.resetRecordCopy false) s = .next s)) ∧
  (∀ (p : Nat) (s : State), s.up = true → p < 32 → bitOf s.pcie.vfEn p = true → (s.part p).state = .active → (s.part p).rst = 0 →
    s.sage.devRst = 0 → s.sage.oos = false → s.sage.fatal = none →
    ∃ t, exec (.vfFlr p) s = .next t ∧ (t.part p).rst = 1 ∧ (t.part p).rstCause = 0x13 ∧ (t.part p).rstNoCqe = true ∧
      (∀ q, q < 64 → (t.sq (qKey (.vf p) q)).state = .disabled ∧ (t.cq (qKey (.vf p) q)).enabled = false) ∧ bitOf t.pcie.rrs (1 + p) = true ∧
      (∀ e, e ∈ t.ents → e.fn = .vf p → e.st ≠ .done) ∧ t.bme (.vf p) = false) ∧
  (∀ (l : Bool) (s : State), s.up = true → s.sage.devRst = 0 → s.sage.fatal = none →
    ∃ t, exec (.pfFlr l) s = .next t ∧ t.sage.devRst = 1 ∧ t.sage.devCause = 0x13 ∧ t.sage.devNoCqe = true ∧ t.pcie.vfEn = 0 ∧
      t.sec.sessions = [] ∧ t.sec.ideKeys = [] ∧ t.fmu.stopped = true ∧ t.bme .pf = false ∧ (∀ e, e ∈ t.ents → e.st ≠ .done) ∧ bitOf t.pcie.rrs 0 = true)

/-- Sage (R402, R403, R405, R419 to R421, Table 18.8): an engine that holds work, neither waits nor is halted, and shows the same progress
adds to its run, which any other finding ends; at 17 it hangs, which is shown, and starts the reset of its partition or of the device as Table
18.2 has it, but not with REPORT_ONLY, and none at all for memories, links and TIME; a kick starts the watchdog's interval again, and its end restarts the steward
with a device reset, or is fatal while that restart runs; a fatal error is noted once, and a dump is written, asked for and copied, each once: a command that finds nothing to do changes nothing. -/
def Obligations.SageWatches : Prop :=
  (∀ (d : SageDom) (s : State), s.up = true → s.sage.fatal = none →
    (match d with | .part p => p < 32 ∧ s.partHalted p = false | .shared => True) →
    (∀ x, (s.sage.lastSample.find? fun x => x.1 == domKey d) = some x → x.2.toNat + 1000 * s.windowOf d / 16 ≤ s.now) →
    ((s.domEngines d).map (·.key)).Nodup →
    let s0 := s.modSage fun g => { g with lastSample := Tbl.set g.lastSample (domKey d) s.time.now }
    let u := s0.each (s.domEngines d) State.sampleOne
    (bitOf (s.rg pgSAGE 0x200) 0 = false → exec (.sageSample d) s = .next u) ∧
    (∀ v, v ∈ s.domEngines d → (Tbl.get ⟨0, 0⟩ u.sage.runs v.key).n =
      (if v.holds = true ∧ v.waits = false ∧ v.halted = false then
        (if (Tbl.get ⟨0, 0⟩ s.sage.runs v.key).prog = v.prog then (Tbl.get ⟨0, 0⟩ s.sage.runs v.key).n + 1 else 1) else 0)) ∧
    (bitOf (s.rg pgSAGE 0x200) 0 = true → exec (.sageSample d) s =
      .next (u.each ((s.domEngines d).filter fun v => (Tbl.get ⟨0, 0⟩ u.sage.runs v.key).n == 17) State.hang))) ∧
  (∀ (v : EngView) (s : State), bits (s.hang v).sage.hung 31 0 = blkId (v.key / 8) ∧ bits (s.hang v).sage.hung 34 32 = v.key % 8 ∧
    bitOf ((s.hang v).hdr pgSAGE).intStat 0 = true ∧ ((s.hang v).hdr (v.key / 8)).hung = true) ∧
  (∀ (v : EngView) (s : State),
    let k := v.key / 8
    let t := s.hang v
    let only := bitOf (s.rg pgSAGE 0x200) 1
    let owner := if keyTyp k = tCSQ ∨ keyTyp k = tTXU then s.ownerOf (keyUnit k) else s.coreOwner (keyUnit k)
    (keyTyp k ∈ [tSTORE, tNEAR, tBRIDGE, tELREN, tTIME] → bitOf (t.hdr pgSAGE).intStat 6 = true ∧
      bits (t.stat pgSAGE 0x078) 31 0 = (bits (s.stat pgSAGE 0x078) 31 0 + 1) % 2 ^ 32 ∧ t.parts = s.parts ∧ t.sage.devRst = s.sage.devRst) ∧
    (only = true → t.parts = s.parts ∧ t.sage.devRst = s.sage.devRst) ∧
    (keyTyp k ∈ [tMOVER, tKPM, tXLAT, tFOLD, tGFE, tEMIT] → only = false → s.sage.devRst = 0 → s.sage.fatal = none →
      t.sage.devRst = 1 ∧ t.sage.devCause = 0x14 ∧ t.parts = s.parts) ∧
    (∀ p, keyTyp k ∈ [tCORE, tFEED, tVEC, tCSQ, tTXU] → owner = some p → only = false → p < 32 → (s.part p).rst = 0 → (s.part p).state = .active →
      s.sage.devRst = 0 → s.sage.oos = false → s.sage.fatal = none →
      (t.part p).rst = 1 ∧ (t.part p).rstCause = 0x11 ∧ t.sage.devRst = 0)) ∧
  (∀ (p : Nat) (s : State), s.up = true → s.sage.fatal = none → p < 32 → s.partHalted p = true →
    (∀ x, (s.sage.lastSample.find? fun x => x.1 == p) = some x → x.2.toNat + 1000 * s.windowOf (.part p) / 16 ≤ s.now) →
    ∃ t, exec (.sageSample (.part p)) s = .next t ∧ (∀ x, x ∈ t.sage.runs → (s.partPages p).contains (x.1 / 8) = false ∧ x ∈ s.sage.runs) ∧
      (∀ x, x ∈ s.sage.runs → (s.partPages p).contains (x.1 / 8) = false → x ∈ t.sage.runs) ∧ t = { s with sage := t.sage }) ∧
  (∀ (d : SageDom) (x : Nat × W64) (s : State), (s.sage.lastSample.find? fun x => x.1 == domKey d) = some x →
    s.now < x.2.toNat + 1000 * s.windowOf d / 16 → exec (.sageSample d) s = .next s) ∧
  (∀ (v : W64) (s : State), s.up = true → bitOf v 0 = true → s.boot.code = 3 ∨ s.boot.code = 4 →
    ∃ t, exec (.wdogKick v) s = .next t ∧ t.sage.kickAt = s.time.mono ∧ t = { s with sage := t.sage }) ∧
  (∀ s : State, s.time.mono < s.sage.kickAt + 1000 * bits (s.rg pgSAGE 0x210) 19 0 → exec .watchdog s = .next s) ∧
  (∀ s : State, s.up = true → s.sage.fatal = none → s.boot.code = 3 ∨ s.boot.code = 4 → s.sage.wdogHeld = none →
    s.sage.kickAt + 1000 * bits (s.rg pgSAGE 0x210) 19 0 ≤ s.time.mono →
    (s.sage.stewardRst = false → s.sage.devRst = 0 → ∃ t, exec .watchdog s = .next t ∧ t.sage.stewardRst = true ∧ t.sage.devRst = 1 ∧
      t.sage.devCause = 0x15 ∧ bitOf (t.hdr pgSAGE).intStat 4 = true) ∧
    (s.sage.stewardRst = true → ∃ t, exec .watchdog s = .next t ∧ t.sage.fatal = some 4 ∧ bitOf (t.hdr pgSAGE).intStat 4 = true)) ∧
  (∀ s : State, s.up = true → s.sage.fatal = none → s.sage.stewardRst = true →
    (∃ t, exec (.stewardRestartDone true) s = .next t ∧ t.sage = { s.sage with stewardRst := false, kickAt := s.time.mono } ∧
      t = { s with sage := t.sage }) ∧
    (∃ t, exec (.stewardRestartDone false) s = .next t ∧ t.sage.fatal = some 4)) ∧
  (∀ (c : Nat) (s : State), s.up = true → 1 ≤ c → c ≤ 5 →
    (s.sage.fatal = none → ∃ t, exec (.fatal c) s = .next t ∧ t.sage.fatal = some c ∧ t.sage.dumpNone = (c == 5) ∧ t.boot.alert = true ∧
      t.dbg.traceOn = false ∧ t.running = false ∧ (∀ e, t.portFenced e = true) ∧ bitOf (t.hdr pgSAGE).intStat 5 = true ∧ t.mem = s.mem) ∧
    (s.sage.fatal.isSome = true → exec (.fatal c) s = .next s)) ∧
  (∀ (ok : Bool) (n : Nat) (s : State), s.up = true → s.sage.fatal.isSome = true → s.sage.dumpDone = false → s.sage.dumpNone = false →
    ∃ t, exec (.dumpDone ok n) s = .next t ∧ t.sage.dumpDone = ok ∧ t.sage.dumpNone = !ok ∧
      t.sage.dumpLen = (if ok then min n (2 ^ 19) else 0) ∧ t = { s with sage := t.sage }) ∧
  (∀ (v : W64) (s : State), s.up = true → bitOf v 0 = true → s.sage.dumpDone = true → s.sage.dumpBusy = false →
    ∃ t, exec (.dumpGo v) s = .next t ∧ t.sage.dumpBusy = true ∧ t.out = s.out ++ [.dump (BitVec.ofNat 64 (s.rgN pgSAGE 0x278 / 4096 * 4096))
        (s.rgN pgSAGE 0x280 / 4096 * 4096) (s.rgN pgSAGE 0x288 / 4096 * 4096)] ∧ t = { s with sage := t.sage, out := t.out }) ∧
  (∀ (v : W64) (f : Bool) (s : State), (s.sage.dumpDone = false ∨ s.sage.dumpBusy = true → exec (.dumpGo v) s = .next s) ∧
    (s.sage.dumpBusy = false → exec (.dumpCopyDone f) s = .next s) ∧ (s.sage.stewardRst = false → exec (.stewardRestartDone f) s = .next s)) ∧
  (∀ (f : Bool) (s : State), s.up = true → s.sage.dumpBusy = true → s.bme .pf = true →
    ∃ t, exec (.dumpCopyDone f) s = .next t ∧ t.sage.dumpBusy = false ∧ t.sage.dumpFault = s.writeFaults .pf f ∧
      t.sage.dumpCopies = s.sage.dumpCopies + 1)

/-- Interrupts and page control (R53, R427 to R430, R432, R437 to R439). INT_STAT clears what is written with 1, INT_SET sets the bits that
the page has, CLR_ERR and FREEZE act on their page and nothing else; a class that becomes pending sends one message; CRESET triggers the reset
of the page's block; an unmasked vector's pending message goes; with Bus Master Enable the waiting writes go in order before the messages;
ATS invalidations are answered, link changes noted, and a read that times out fails: the SQ's fetch, the copy in progress, or the mailbox's
image read. -/
def Obligations.HostInterface : Prop :=
  (∀ (pg : Page) (v : W32) (s : State), s.up = true → pageOk pg = true →
    (∃ t, exec (.intStat pg v) s = .next t ∧ t.hdr (pageKey pg) = { s.hdr (pageKey pg) with intStat := (s.hdr (pageKey pg)).intStat &&& ~~~v } ∧
      (∀ k, k ≠ pageKey pg → t.hdr k = s.hdr k) ∧ t = { s with hdrs := t.hdrs, pcie := t.pcie, out := t.out }) ∧
    (∃ t, exec (.intSet pg v) s = .next t ∧ t.hdr (pageKey pg) = { s.hdr (pageKey pg) with intStat := (s.hdr (pageKey pg)).intStat ||| (v &&& irqMask (pageKey pg)) } ∧
      (∀ k, k ≠ pageKey pg → t.hdr k = s.hdr k) ∧ t = { s with hdrs := t.hdrs, pcie := t.pcie, out := t.out }) ∧
    (∃ t, exec (.clrErr pg) s = .next t ∧ t.hdr (pageKey pg) = { s.hdr (pageKey pg) with errFirst := 0, errCount := 0 } ∧ t = { s with hdrs := t.hdrs }) ∧
    (∀ on, ∃ t, exec (.freeze pg on) s = .next t ∧ t.hdr (pageKey pg) = { s.hdr (pageKey pg) with frozen := on } ∧ t = { s with hdrs := t.hdrs })) ∧
  (∀ (pg : Page) (v : W32) (on : Bool) (s : State), s.up = false ∨ pageOk pg = false → exec (.intStat pg v) s = .next s ∧
    exec (.intSet pg v) s = .next s ∧ exec (.clrErr pg) s = .next s ∧ exec (.freeze pg on) s = .next s ∧ exec (.creset pg) s = .next s) ∧
  (∀ (pg : Page) (v : W32) (c : Nat) (s : State), s.up = true → pageOk pg = true → irqClass (keyTyp (pageKey pg)) = some c → c < 16 →
    bitOf s.pcie.classPend c = false → (v &&& irqMask (pageKey pg) &&& (s.hdr (pageKey pg)).intEn) ≠ 0 → Tbl.get false s.pcie.unmasked (s.ivec c) = true → s.bme .pf = true →
    ∃ t, exec (.intSet pg v) s = .next t ∧ t.out = s.out ++ [.msix .pf (s.ivec c)] ∧ bitOf t.pcie.classPend c = true) ∧
  (∀ (pg : Page) (s : State), s.up = true → pageOk pg = true →
    (s.resetScope pg = .none → exec (.creset pg) s = .next s) ∧
    (∀ p, s.resetScope pg = .part p → p < 32 → (s.part p).rst = 0 → (s.part p).state = .active → s.sage.devRst = 0 → s.sage.oos = false → s.sage.fatal = none →
      ∃ t, exec (.creset pg) s = .next t ∧ (t.part p).rst = 1 ∧ (t.part p).rstCause = 0x12 ∧ (t.hdr (pageKey pg)).creset = true ∧
        t = { s with parts := t.parts, hdrs := t.hdrs }) ∧
    (s.resetScope pg = .device → s.sage.devRst = 0 → s.sage.fatal = none →
      ∃ t, exec (.creset pg) s = .next t ∧ t.sage.devRst = 1 ∧ t.sage.devCause = 0x12 ∧ (t.hdr (pageKey pg)).creset = true ∧
        t = { s with sage := t.sage, hdrs := t.hdrs })) ∧
  (∀ (fn : Fn) (n : Nat) (s : State), s.up = true → vecOk fn n = true →
    (Tbl.get false s.pcie.pending (fnKey fn * 4096 + n) = true → s.bme fn = true → ∃ t, exec (.msixUnmask fn n) s = .next t ∧
      t.out = s.out ++ [.msix fn n] ∧ Tbl.get false t.pcie.pending (fnKey fn * 4096 + n) = false ∧
      Tbl.get false t.pcie.unmasked (fnKey fn * 4096 + n) = true ∧ t = { s with pcie := t.pcie, out := t.out }) ∧
    (Tbl.get false s.pcie.pending (fnKey fn * 4096 + n) = false → ∃ t, exec (.msixUnmask fn n) s = .next t ∧
      Tbl.get false t.pcie.unmasked (fnKey fn * 4096 + n) = true ∧ t = { s with pcie := t.pcie })) ∧
  (∀ (v : W64) (s : State), s.up = true → ∃ t, exec (.irqAck v) s = .next t ∧
    ((∀ c, c < 16 → bitOf v c = true → s.classPending c = false) → t = s) ∧ t = { s with pcie := t.pcie, out := t.out }) ∧
  (∀ (v : W64) (s : State), s.up = true → bitOf v 0 = true → ∃ t, exec (.faultClr v) s = .next t ∧ t.pcie.faultAddr = 0 ∧ t.pcie.faultInfo = 0 ∧
    t = { s with pcie := t.pcie }) ∧
  (∀ (fn : Fn) (s : State), s.up = true → fnOk fn = true →
    (∃ t l, exec (.busMasterEnable fn true true) s = .next t ∧ t.bme fn = true ∧ (∀ w, w ∈ t.pcie.owed → w.1 ≠ fnKey fn) ∧
      t.out = s.out ++ (s.pcie.owed.filter fun w => w.1 == fnKey fn).map (fun w => .hostWrite fn w.2.1 w.2.2.1 w.2.2.2 false) ++ l ∧
      (∀ m, m ∈ l → ∃ n, m = .msix fn n) ∧ t = { s with pcie := t.pcie, out := t.out, live := t.live }) ∧
    (∃ t, exec (.busMasterEnable fn false true) s = .next t ∧ t.bme fn = false ∧ t = { s with pcie := t.pcie }) ∧
    (∀ r, ∃ t, exec (.atsInvalidate fn r) s = .next t ∧ Tbl.get false t.pcie.refused (fnKey fn) = r ∧ t.out = s.out ++ [.atsDone fn] ∧
      t = { s with pcie := t.pcie, live := t.live, out := t.out })) ∧
  (∀ (r w : Nat) (u : Bool) (s : State), s.up = true → 1 ≤ r → r ≤ 6 → 1 ≤ w → w ≤ 8 →
    ∃ t, exec (.linkChange r w u) s = .next t ∧ t.pcie.rate = r ∧ t.pcie.width = w ∧ t.pcie.linkUp = u ∧ bitOf (t.hdr pgPCIE).intStat 0 = true) ∧
  (∀ (fn : Fn) (q : Nat) (s : State), s.copying fn q = none → s.placeHead fn q = none → s.mayFetch fn q = true →
    ∃ t, exec (.completionTimeout fn q) s = .next t ∧ (t.sq (qKey fn q)).state = .broken ∧ t.ents = s.ents) ∧
  (∀ (fn : Fn) (q : Nat) (e : Entry) (s : State), s.running = true → s.copying fn q = some e → entOpc e.raw = 3 → entFlag e.raw 0 = false →
    exec (.completionTimeout fn q) s = .next (s.copyReadFault e 3)) ∧
  (∀ (fn : Fn) (q : Nat) (e : Entry) (s : State), s.copying fn q = none → s.placeHead fn q = some e → entOpc e.raw = 3 → entFlag e.raw 0 = false →
    exec (.completionTimeout fn q) s = exec (.hostCopy fn q .timeout) s) ∧
  (∀ (q : Nat) (s : State), s.copying .pf q = none → s.placeHead .pf q = none → s.mayFetch .pf q = false → s.mbxFree = true →
    bits (s.rg pgPCIE 0x278) 7 0 = 3 → s.boot.code = 4 →
    ∃ t, exec (.completionTimeout .pf q) s = .next t ∧ t.pcie.mbxBusy = true ∧ t.pcie.mbxRes = 3 ∧ t.boot = s.boot)

/-- REGISTER_WRITE (R18, R425, R427, R429, R440, R441, R444, R445, R452, R453). Each page lies in PF BAR0 where its index puts it; a write
that is misaligned is reported and does nothing else; one by a function that is not there, at an offset of no page, or to METER's mirror in BAR0 changes nothing. A 64-bit
write takes effect whole, as the command of its register has it, or as the register's defined bits; the low half of a register whose high half is
defined is held until the high half comes from the same function, and a write elsewhere on the page drops it and counts. The vector control
of an MSI-X table unmasks. The places of ATS Enable and VF Enable in configuration space are the model's (log entry 54). -/
def Obligations.RegisterWrites : Prop :=
  (∀ (pg : Page) (off : Nat), pageOk pg = true → pg.typ < 0x60 → off < 4096 → bar0Page (pageOffset pg + off) = some pg) ∧
  (∀ (a : RegAcc) (s : State), s.up = false ∨ s.fnLive a.fn = false → exec (.registerWrite a) s = .next s) ∧
  (∀ (a : RegAcc) (s : State), s.up = true → s.fnLive a.fn = true → a.off % 4 ≠ 0 ∨ (a.wide = true ∧ a.off % 8 ≠ 0) →
    exec (.registerWrite a) s = .next (s.bumpHi pgPCIE 0x058 1)) ∧
  (∀ (fn : Fn) (off : Nat) (w : Bool) (v : W64) (s : State), off % 8 = 0 → barPage fn .bar0 off = none ∨ barPage fn .bar0 off = some ⟨tMETER, 0⟩ →
    exec (.registerWrite ⟨fn, .bar0, off, w, v⟩) s = .next s) ∧
  (∀ (typ u off : Nat) (v : W64) (c : Instr) (s : State), s.up = true → pageOk ⟨typ, u⟩ = true → s.holds = [] →
    (typ, off, c) ∈ [(tTIME, 0x200, Instr.timeRoleWrite (BitVec.ofNat 2 (bits v 1 0))), (tTIME, 0x210, .timeSet v), (tGFE, 0x200, .contractWrite v),
      (tGFE, 0x208, .noticeCq v), (tSAGE, 0x220, .preset v), (tSAGE, 0x228, .dreset v), (tSAGE, 0x290, .dumpGo v), (tSEC, 0x210, .rollbackCommit v),
      (tPCIE, 0x258, .irqAck v), (tPCIE, 0x270, .faultClr v), (tPOWER, 0x208, .idleReq v), (tPOWER, 0x210, .powerCap false v), (tPOWER, 0x220, .clkClr v),
      (tDEBUG, 0x208, .revoke v), (tDEBUG, 0x228, .traceCtrl v), (tDEBUG, 0x240, .traceGo v), (tCBUF, 0x208, .rcFlush u v), (tKPM, 0x220, .poolAdd u v),
      (tMOVER, 0x2A0, .pqTail u v), (tSTORE, 0x230, .storeAddrClr u v), (tXLAT, 0x200, .xlatInval u v)] →
    exec (.registerWrite ⟨.pf, .bar0, pageOffset ⟨typ, u⟩ + off, true, v⟩) s = exec c s) ∧
  (∀ (typ u off hi lo : Nat) (v : W64) (s : State), s.up = true → pageOk ⟨typ, u⟩ = true → s.holds = [] →
    (typ, off, hi, lo) ∈ [(tTIME, 0x230, 0, 0), (tTIME, 0x238, 5, 0), (tSAGE, 0x200, 1, 0), (tSAGE, 0x210, 19, 0), (tSAGE, 0x278, 63, 12),
      (tSAGE, 0x280, 30, 12), (tPCIE, 0x278, 7, 0), (tPCIE, 0x288, 25, 0), (tDEBUG, 0x220, 12, 0), (tDEBUG, 0x238, 63, 12), (tPART, 0x200, 31, 0),
      (tPART, 0x218, 0, 0), (tKPM, 0x200, 4, 0), (tFOLD, 0x290, 4, 0)] →
    exec (.registerWrite ⟨.pf, .bar0, pageOffset ⟨typ, u⟩ + off, true, v⟩) s =
      .next (s.setRg (pk typ u) off (pack 64 [⟨hi, lo, bits v hi lo⟩]))) ∧
  (∀ (p q : Nat) (v : W64) (s : State), s.up = true → p < 32 → bitOf s.pcie.vfEn p = true → q < 64 → s.holds = [] →
    exec (.registerWrite ⟨.vf p, .bar0, 0x200 + 8 * q, true, v⟩) s = exec (.sqTail (.vf p) q v) s ∧
    exec (.registerWrite ⟨.vf p, .bar0, 0x400 + 8 * q, true, v⟩) s = exec (.cqHead (.vf p) q v) s ∧
    exec (.registerWrite ⟨.vf p, .bar0, 0x600 + 8 * q, true, v⟩) s = exec (.trHead (.vf p) q v) s ∧
    exec (.registerWrite ⟨.vf p, .bar2, 16 * q + 12, false, 0⟩) s = exec (.msixUnmask (.vf p) q) s) ∧
  (∀ (typ u off : Nat) (v : W64) (s : State), s.up = true → pageOk ⟨typ, u⟩ = true → typ < 0x60 → typ ≠ tMETER → off % 8 = 0 → off < 4096 →
    hiDefined typ off = true →
    (s.holds = [] → ∃ t, exec (.registerWrite ⟨.pf, .bar0, pageOffset ⟨typ, u⟩ + off, false, v⟩) s = .next t ∧
      t.holds = [⟨.pf, pageKey ⟨typ, u⟩, off, BitVec.ofNat 32 (bits v 31 0)⟩] ∧ t = { s with holds := t.holds }) ∧
    (∀ (o : Nat) (lo : W32), o ≠ off → s.holds = [⟨.pf, pageKey ⟨typ, u⟩, o, lo⟩] →
      ∃ t, exec (.registerWrite ⟨.pf, .bar0, pageOffset ⟨typ, u⟩ + off, false, v⟩) s = .next t ∧
        t.holds = [⟨.pf, pageKey ⟨typ, u⟩, off, BitVec.ofNat 32 (bits v 31 0)⟩] ∧ t.hdr (pageKey ⟨typ, u⟩) = (s.hdr (pageKey ⟨typ, u⟩)).count ∧
        t = { s with holds := t.holds, hdrs := t.hdrs }) ∧
    (∀ lo : W32, s.holds = [⟨.pf, pageKey ⟨typ, u⟩, off, lo⟩] →
      exec (.registerWrite ⟨.pf, .bar0, pageOffset ⟨typ, u⟩ + off + 4, false, v⟩) s =
        exec (.registerWrite ⟨.pf, .bar0, pageOffset ⟨typ, u⟩ + off, true, BitVec.ofNat 32 (bits v 31 0) ++ lo⟩) { s with holds := [] })) ∧
  (∀ (pg : Page) (v : W64) (s : State), s.up = true → pageOk pg = true → pg.typ < 0x60 → pg.typ ≠ tMETER → s.holds = [] →
    exec (.registerWrite ⟨.pf, .bar0, pageOffset pg + 0x10, false, v⟩) s = exec (.intStat pg (BitVec.ofNat 32 (bits v 31 0))) s ∧
    exec (.registerWrite ⟨.pf, .bar0, pageOffset pg + 0x18, false, v⟩) s = exec (.intSet pg (BitVec.ofNat 32 (bits v 31 0))) s) ∧
  (∀ (fn : Fn) (v : W64) (s : State), s.up = true → s.fnLive fn = true →
    ∃ t, exec (.registerWrite ⟨fn, .config, 0, true, v⟩) s = .next t ∧ t.atsOn fn = bitOf v 0 ∧ t = { s with pcie := t.pcie }) ∧
  (∀ (v : W64) (s : State), s.up = true → bitOf v 0 = true → bits v 21 16 ≤ 32 →
    ∃ t, exec (.registerWrite ⟨.pf, .config, 8, true, v⟩) s = .next t ∧ (∀ p, p < 32 → t.vfExists p = decide (p < bits v 21 16)) ∧
      t = { s with pcie := t.pcie })

/-- Power (R455 to R464, R467). Each demand is stepped by its own measure, the clock runs at the lowest of them, and a change of step by
the power control raises THROTTLE; IDLE is entered with nothing in hand and left at a wake; the cap is 1,000 to 4,400 W, and another value
is counted; power off and power up keep what fuses and flash hold; the sideband answers each of its sensors. -/
def Obligations.PowerStates : Prop :=
  (∀ (a b : Nat) (s : State), s.boot.on = true →
    let cap := bits (s.rg pgPOWER 0x210) 12 0
    ∃ t, exec (.powerControl a b) s = .next t ∧ (5200 < b → t.power.mCap = 8) ∧
      (b ≤ 5200 → cap < a → t.power.mCap = max 8 (s.power.m - 1)) ∧
      (b ≤ 5200 → a ≤ cap → s.power.lowSince = 0 → t.power.mCap = s.power.mCap) ∧
      (b ≤ 5200 → a ≤ cap → 97 * cap ≤ a * 100 ∨ s.time.mono + 1 < s.power.lowSince + 1000000 → t.power.mCap = s.power.mCap) ∧
      (b ≤ 5200 → a * 100 < 97 * cap → s.power.lowSince ≠ 0 → s.power.lowSince + 1000000 ≤ s.time.mono + 1 → t.power.mCap = min 16 (s.power.mCap + 1)) ∧
      t.power.m = min t.power.mTherm (min t.power.mVin t.power.mCap) ∧ t.power.mTherm = s.power.mTherm ∧ t.power.mVin = s.power.mVin ∧
      t.power.watts = a ∧ (t.power.m ≠ s.power.m → s.up = true → bitOf (t.hdr pgPOWER).intStat 0 = true) ∧
      t = { s with power := t.power, live := t.live, hdrs := t.hdrs, pcie := t.pcie, out := t.out }) ∧
  (∀ (a b mv : Nat) (tj : List Nat) (v : W64) (s : State), s.boot.on = false → exec (.powerControl a b) s = .next s ∧ exec (.vinRange mv) s = .next s ∧
    exec (.thermalStage tj) s = .next s ∧ exec (.vinShutdown mv) s = .next s ∧ exec (.thermtrip mv) s = .next s ∧
    exec (.pldmSensorRead mv) s = .next s ∧ exec (.powerCap true v) s = .next s) ∧
  (∀ (mv : Nat) (s : State), s.boot.on = true → ∃ t, exec (.vinRange mv) s = .next t ∧ t.power.mv = mv ∧
    t.power.mVin = (if mv < 36000 then 8 else 16) ∧ t.power.m = min t.power.mTherm (min t.power.mVin t.power.mCap) ∧
    (mv < 36000 ∨ 44000 < mv → t.power.vinRange = true ∧ t.boot.alert = true) ∧ t.power.mCap = s.power.mCap) ∧
  (∀ (tj : List Nat) (s : State), s.boot.on = true → ∃ t, exec (.thermalStage tj) s = .next t ∧ t.power.tjMax = tj.foldl max 0 ∧
    t.power.m = min t.power.mTherm (min t.power.mVin t.power.mCap) ∧ t.power.hot90 = decide (900 ≤ tj.foldl max 0) ∧
    (1010 ≤ tj.foldl max 0 → t.power.mTherm = 8) ∧ (950 ≤ tj.foldl max 0 → tj.foldl max 0 < 1010 → t.power.mTherm = max 8 (s.power.m - 1)) ∧
    (tj.foldl max 0 < 920 → s.power.coolSince ≠ 0 → s.power.coolSince + 1000000 ≤ s.time.mono + 1 → t.power.mTherm = min 16 (s.power.mTherm + 1)) ∧
    (920 ≤ tj.foldl max 0 → tj.foldl max 0 < 950 → t.power.mTherm = s.power.mTherm) ∧ (900 ≤ tj.foldl max 0 → t.boot.alert = true)) ∧
  (∀ (v : W64) (s : State), s.up = true → bitOf v 0 = true → ∃ t, exec (.clkClr v) s = .next t ∧ t.power = { s.power with lowM := s.power.m } ∧
    t = { s with power := t.power }) ∧
  (∀ (b : Bool) (v : W64) (s : State), (if b then s.boot.on else s.up) = true →
    (1000 ≤ bits v 12 0 → bits v 12 0 ≤ 4400 → ∃ t, exec (.powerCap b v) s = .next t ∧ t.powerWord 0x210 = BitVec.ofNat 64 (bits v 12 0) ∧ t = { s with rf := t.rf }) ∧
    (bits v 12 0 < 1000 ∨ 4400 < bits v 12 0 → exec (.powerCap b v) s = .next (s.countErr pgPOWER))) ∧
  (∀ (v : W64) (s : State), s.up = true → ∃ t, exec (.idleReq v) s = .next t ∧ bitOf (t.rg pgPOWER 0x208) 0 = bitOf v 0 ∧ t = { s with rf := t.rf }) ∧
  (∀ s : State, s.up = true → s.idleReqOn = true → s.power.idle = false →
    (s.anyBound = false → s.ents = [] → (∀ m, m ∈ s.movers → m.2.descs = []) → (∀ k, k ∈ s.kpms → k.2.ops = []) →
      (∀ f, f ∈ s.folds → ∀ x, x ∈ f.2.parts → x.2.started = false ∧ x.2.held = []) → ∃ t, exec .idleEntry s = .next t ∧ t.power.idle = true ∧
      (∀ u, u < 32 → (t.tier u).selfRefresh = true) ∧ t = { s with power := t.power, tiers := t.tiers }) ∧
    (s.anyBound = true ∨ s.ents ≠ [] ∨ (∃ m, m ∈ s.movers ∧ m.2.descs ≠ []) ∨ (∃ k, k ∈ s.kpms ∧ k.2.ops ≠ []) → exec .idleEntry s = .next s)) ∧
  (∀ s : State, s.up = true → s.power.idle = true → s.idleReqOn = false ∨ s.power.wake = true ∨ s.anyBound = true → s.sage.oos = false →
    ∃ t, exec .idleExit s = .next t ∧ t.power.idle = false ∧ (∀ u, u < 16 → (t.tier u).selfRefresh = false) ∧ t = { s with power := t.power, tiers := t.tiers }) ∧
  (∀ (l : Bool) (s : State), s.boot.pwrEn = false → s.boot.on = false → ∃ t, exec (.pwrEnAssert l) s = .next t ∧ t.boot.on = true ∧ t.boot.perst = true ∧
    t.boot.pwrEn = true ∧ t.boot.cause = 1 ∧ t.fmu.alive = true ∧ t.fmu.boot = s.fmu.boot + 1 ∧ t.boot.flash = s.boot.flash) ∧
  (∀ (l : Bool) (s : State), s.boot.pwrEn = true ∨ s.boot.on = true → exec (.pwrEnAssert l) s = .next s) ∧
  (∀ s : State, ∃ t, exec .pwrEnDeassert s = .next t ∧ t.boot.pwrEn = false ∧ t.boot.thermtrip = false ∧ (s.boot.on = true → t.boot.on = false ∧
    t.sec.fusedSvn = s.sec.fusedSvn ∧ t.sec.revoked = s.sec.revoked ∧ t.fmu.sealBlown = s.fmu.sealBlown ∧ t.ents = [])) ∧
  (∀ (x : Nat) (s : State), s.boot.on = true →
    (x < 33000 ∨ 46000 < x → ∃ t, exec (.vinShutdown x) s = .next t ∧ t.boot.on = false ∧ t.pending = s.pending ∧ t.fmu.sealBlown = s.fmu.sealBlown) ∧
    (33000 ≤ x → x ≤ 46000 → exec (.vinShutdown x) s = .next s) ∧
    (1100 ≤ x → ∃ t, exec (.thermtrip x) s = .next t ∧ t.boot.on = false ∧ t.boot.thermtrip = true) ∧ (x < 1100 → exec (.thermtrip x) s = .next s)) ∧
  (∀ (n : Nat) (s : State), s.boot.on = true → 1 ≤ n → n ≤ 15 → ∃ t v, exec (.pldmSensorRead n) s = .next t ∧ t.out = s.out ++ [.pldm n v] ∧
    (n = 1 → v = BitVec.ofNat 64 s.power.mv) ∧ (n = 3 → v = BitVec.ofNat 64 s.power.watts) ∧ (n = 4 → v = BitVec.ofNat 64 s.power.tjMax) ∧
    (n = 5 → v = s.powerWord 0x218) ∧ (n = 14 → v = BitVec.ofNat 64 s.boot.code) ∧ (n = 15 → v = BitVec.ofNat 64 (s.sage.fatal.getD 0)) ∧
    t = { s with out := t.out, freeCtr := t.freeCtr })

/-- The debug port (R403, R451, R465, R470 to R473, Tables 21.9 to 21.11). The TAP answers its registers (what DBG_TRST_N selects: log entry
52); chunks make a pending grant, which its checks accept or refuse; a command without target, grant or right is answered so and does nothing
else; on a scalar pipe, with a grant of every right, it halts, resumes, steps, sets breakpoints, reads and writes; a grant ends at its time,
and its halts with it, or by REVOKE; the trace starts, stops and is read. -/
def Obligations.DebugPort : Prop :=
  (∀ s : State, s.boot.on = true →
    (∃ t, exec .idcode s = .next t ∧ t.dbg.ir = 1 ∧ t.out = s.out ++ [.tap 1 0x10840A35] ∧ t = { s with dbg := t.dbg, out := t.out }) ∧
    (∀ ir, ir ≠ 1 → ir ≠ 0x20 → ∃ t, exec (.bypass ir) s = .next t ∧ t.dbg.ir = ir ∧ t.out = s.out ++ [.tap ir 0] ∧
      t = { s with dbg := t.dbg, out := t.out }) ∧
    (∃ t, exec .dbgTrstN s = .next t ∧ t.dbg = { s.dbg with ir := 1 } ∧ t = { s with dbg := t.dbg })) ∧
  (∀ (c : BitVec 192) (s : State), s.up = true → dbgOp c = 1 → ∃ t, exec (.dbgStatus c) s = .next t ∧ t.dbg.attn = 0 ∧
    t.out.length = s.out.length + 1 ∧ t = { s with dbg := t.dbg, out := t.out }) ∧
  (∀ (c : BitVec 192) (s : State), s.running = true → s.sage.stewardRst = false → dbgOp c = 2 → dbgArg c < 20 →
    ∃ t, exec (.grantChunk c) s = .next t ∧ Tbl.get 0 t.dbg.pendGrant (dbgArg c) = dbgData c ∧ t = { s with dbg := t.dbg, out := t.out }) ∧
  (∀ (c : BitVec 192) (s : State), s.running = true → s.sage.stewardRst = false → dbgOp c = 3 →
    (s.grantCheck s.grantBytes = 0 → fld s.grantBytes 8 1 < 32 → ∃ t g, exec (.grantCommit c) s = .next t ∧
      (t.part (fld s.grantBytes 8 1)).grant = some g ∧ g.rights = BitVec.ofNat 8 (fld s.grantBytes 10 1) ∧ g.notAfter = BitVec.ofNat 64 (fld s.grantBytes 24 8)) ∧
    (s.grantCheck s.grantBytes = 0 → fld s.grantBytes 8 1 = 0x80 → ∃ t g, exec (.grantCommit c) s = .next t ∧ t.dbg.stewGrant = some g ∧
      g.rights = BitVec.ofNat 8 (fld s.grantBytes 10 1) ∧ g.notAfter = BitVec.ofNat 64 (fld s.grantBytes 24 8)) ∧
    (s.grantCheck s.grantBytes ≠ 0 → ∃ t, exec (.grantCommit c) s = .next t ∧ t.parts = s.parts ∧ t.dbg = { s.dbg with ir := 0x20 } ∧
      t = { s with dbg := t.dbg, out := t.out }) ∧
    (fld s.grantBytes 8 1 < 32 → (s.part (fld s.grantBytes 8 1)).tdi = .run → s.grantCheck s.grantBytes ≠ 0)) ∧
  (∀ (c : BitVec 192) (i : Instr) (op : Nat) (s : State), s.running = true → s.sage.stewardRst = false → dbgOp c = op →
    (op, i) ∈ [(4, Instr.dbgHalt c), (5, .dbgResume c), (6, .dbgStep c), (7, .bpSet c), (8, .bpClr c), (9, .memRd c), (10, .memWr c), (11, .regRd c), (12, .regWr c)] →
    (dbgTarget c = none → exec i s = .next (s.dbgAnswer c 2 0)) ∧
    (∀ t, dbgTarget c = some t → s.grantOver t = none → exec i s = .next (s.dbgAnswer c 1 0)) ∧
    (∀ t g, dbgTarget c = some t → s.grantOver t = some g →
      bitOf g.rights (if op ≤ 8 then 0 else if op = 9 ∨ op = 11 then 1 else 2) = false → exec i s = .next (s.dbgAnswer c 3 0))) ∧
  (∀ (c : BitVec 192) (k j : Nat) (g : Grant) (s : State), s.running = true → s.sage.stewardRst = false → dbgTarget c = some (.pipe k j) →
    s.grantOver (.pipe k j) = some g → g.rights = 7 →
    (dbgOp c = 4 → dbgArg c % 2 = 0 ∨ (∃ p, s.coreOwner k = some p ∧ k ∈ s.coresOf p) → ∃ t, exec (.dbgHalt c) s = .next t ∧ (t.pipe k j).halted = true ∧ (t.pipe k j).pc = (s.pipe k j).pc) ∧
    (dbgOp c = 5 → dbgArg c % 2 = 0 → (s.pipe k j).halted = true → (s.coreOwner k).isSome = true → ∃ t, exec (.dbgResume c) s = .next t ∧
      (t.pipe k j).halted = false ∧ t = { s with cores := t.cores, dbg := t.dbg, out := t.out }) ∧
    (dbgOp c = 6 → (s.pipe k j).halted = false → exec (.dbgStep c) s = .next (s.dbgAnswer c 2 0)) ∧
    (dbgOp c = 6 → (s.pipe k j).halted = true → (s.coreOwner k).isSome = true → ∃ t, exec (.dbgStep c) s = .next t ∧ (t.pipe k j).halted = true) ∧
    (dbgOp c = 7 → dbgArg c < 4 → ∃ t, exec (.bpSet c) s = .next t ∧ Tbl.get none (t.pipe k j).bps (dbgArg c) = some (dbgAddr c) ∧
      t = { s with cores := t.cores, dbg := t.dbg, out := t.out }) ∧
    (dbgOp c = 8 → dbgArg c < 4 → ∃ t, exec (.bpClr c) s = .next t ∧ Tbl.get (some 0) (t.pipe k j).bps (dbgArg c) = none ∧
      t = { s with cores := t.cores, dbg := t.dbg, out := t.out }) ∧
    (dbgOp c = 9 → dbgSpace c = 1 → dbgAddr c % 8 = 0 → dbgAddr c + 8 ≤ 2 ^ 23 →
      exec (.memRd c) s = .next (s.dbgAnswer c 0 (BitVec.ofNat 64 (ofLe (s.cbRead k (dbgAddr c) 8))))) ∧
    (dbgOp c = 10 → dbgSpace c = 1 → dbgAddr c % 8 = 0 → dbgAddr c + 8 ≤ 2 ^ 23 → ∃ t, exec (.memWr c) s = .next t ∧
      (s.memWf = true → ∀ i, i < 8 → Memory.read1 t.cb (k * 2 ^ 23 + dbgAddr c + i) = BitVec.ofNat 8 (bits (dbgData c) (8 * i + 7) (8 * i))) ∧
      (∀ a, a < k * 2 ^ 23 + dbgAddr c ∨ k * 2 ^ 23 + dbgAddr c + 8 ≤ a → Memory.read1 t.cb a = Memory.read1 s.cb a) ∧
      t = { s with cb := t.cb, dbg := t.dbg, out := t.out }) ∧
    (dbgOp c = 11 → dbgArg c < 32 → exec (.regRd c) s = .next (s.dbgAnswer c 0 (s.gpr k j (BitVec.ofNat 5 (dbgArg c))))) ∧
    (dbgOp c = 12 → dbgArg c < 32 → ∃ t, exec (.regWr c) s = .next t ∧
      (∀ r, t.gpr k j r = if r = BitVec.ofNat 5 (dbgArg c) ∧ r ≠ 0 then dbgData c else s.gpr k j r) ∧
      t = { s with cores := t.cores, dbg := t.dbg, out := t.out })) ∧
  (∀ (p : Nat) (g : Grant) (s : State), s.up = true → p < 32 → (s.part p).grant = some g →
    (g.notAfter.toNat ≤ s.now → ∃ t, exec (.grantExpiry p) s = .next t ∧ (t.part p).grant = none ∧ (∀ k j, k ∈ s.coresOf p → j < 2 → (t.pipe k j).halted = false) ∧
      t = { s with parts := t.parts, cores := t.cores, seqs := t.seqs }) ∧
    (s.now < g.notAfter.toNat → exec (.grantExpiry p) s = .next s)) ∧
  (∀ (g : Grant) (s : State), s.up = true → s.dbg.stewGrant = some g → g.notAfter.toNat ≤ s.now →
    ∃ t, exec (.grantExpiry 0x80) s = .next t ∧ t.dbg.stewGrant = none ∧ (∀ i, i < 4 → bitOf t.dbg.stewHalted i = false) ∧
      t = { s with dbg := t.dbg, sage := t.sage }) ∧
  (∀ (v : W64) (s : State), s.up = true → ∃ t, exec (.revoke v) s = .next t ∧
    (∀ p, p < 32 → (t.part p).grant = if bitOf v p then none else (s.part p).grant) ∧ t = { s with parts := t.parts, cores := t.cores, seqs := t.seqs }) ∧
  (∀ (v : W64) (s : State), s.up = true →
    (bitOf v 0 = true → s.regionHeld = true → ∃ t, exec (.traceCtrl v) s = .next t ∧ t.dbg.traceOn = false ∧ t.hdr (pk tDEBUG 0) = (s.hdr (pk tDEBUG 0)).count) ∧
    (s.regionHeld = false → ∃ t, exec (.traceCtrl v) s = .next t ∧ t.dbg.traceOn = bitOf v 0 ∧
      (bitOf v 0 = true → s.dbg.traceOn = false → t.dbg.trace = [] ∧ t.dbg.traceCount = 0) ∧ t = { s with rf := t.rf, dbg := t.dbg })) ∧
  (∀ (v : W64) (s : State), s.up = true → s.sage.dumpDone = false → s.writeFaults .pf false = false → s.bme .pf = true →
    0 < bits v 30 12 → s.dbg.trace ≠ [] →
    ∃ t, exec (.traceGo v) s = .next t ∧ t.dbg = s.dbg ∧
      t.out = s.out ++ [.hostWrite .pf (s.rgN (pk tDEBUG 0) 0x238 / 4096 * 4096)
        ((s.dbg.trace.take (bits v 30 12 * 4096 / 32)).flatMap fun e => leBytes 32 e.toNat) false false] ∧
        t = { s with live := t.live, out := t.out, pcie := t.pcie })

/-- A RING_ACK whose head lies outside the records written, from the ring's head to its tail, ends with BAD_ARG, 1 of Table 17.6, and moves
nothing (R393). -/
def Obligations.RingAckOutsideIsRefused : Prop :=
  ∀ s : State, s.fmuOn = true → s.up = true → cmdZero s.meterCmd = true → byteFld s.meterCmd 0 1 = 5 →
    s.fmu.ringSet = true → s.fmu.ringHead < s.fmu.ringSize → s.fmu.ringTail < s.fmu.ringSize →
    (∀ j, j ≤ (s.fmu.ringTail + s.fmu.ringSize - s.fmu.ringHead) % s.fmu.ringSize →
      byteFld s.meterCmd 8 4 ≠ (s.fmu.ringHead + j) % s.fmu.ringSize) →
    ∃ t, exec .ringAck s = .next t ∧ t.fmu.cmdRes = 1 ∧ t.fmu.ringHead = s.fmu.ringHead ∧ t.fmu.ringTail = s.fmu.ringTail ∧ t.fmu.acks = s.fmu.acks

/-- RING_SET makes the new ring current with head and tail 0; the records still buffered stay in their order, before any built later, and
the oldest is the next that goes to the ring, at its tail (R391). -/
def Obligations.RingSetStartsTheNewRing : Prop :=
  (∀ s : State, s.fmuOn = true → s.up = true → cmdZero s.meterCmd = true → byteFld s.meterCmd 0 1 = 4 → ringOk s.meterCmd = true →
    ∃ t l, exec .ringSet s = .next t ∧ t.fmu.ringHead = 0 ∧ t.fmu.ringTail = 0 ∧ t.fmu.ringSet = true ∧
      t.fmu.ringBase = BitVec.ofNat 64 (byteFld s.meterCmd 8 8) ∧ t.fmu.ringSize = byteFld s.meterCmd 16 4 ∧
      t.fmu.ringTailAddr = BitVec.ofNat 64 (byteFld s.meterCmd 24 8) ∧ t.fmu.buf = s.fmu.buf ++ l) ∧
  (∀ (x : Flit) (rest : List Flit) (s : State), s.fmuOn = true → s.up = true → s.fmu.buf = x :: rest → s.fmu.ringSet = true →
    s.fmu.ringFault = false → s.fmu.stopped = false → s.bme .pf = true → s.writeFaults .pf false = false →
    (s.fmu.ringTail + 1) % max 1 s.fmu.ringSize ≠ s.fmu.ringHead →
    ∃ t more, exec (.recordWrite false) s = .next t ∧ t.fmu.buf = rest ∧
      t.out = s.out ++ [.hostWrite .pf (s.fmu.ringBase.toNat + 256 * s.fmu.ringTail) (leBytes 256 x.toNat) false false] ++ more)

/-- The freeze-statistics bit of BLK_CTRL (R53): FREEZE sets it; while a page has it, what its statistics latched stays, its live counts go
on, and an edge, which latches by `State.latch`, drops the live counts of the pages that it latches without copying them. -/
def Obligations.FreezeHoldsStatistics : Prop :=
  (∀ (pg : Page) (s : State), s.up = true → pageOk pg = true → ∃ t, exec (.freeze pg true) s = .next t ∧ (t.hdr (pageKey pg)).frozen = true ∧
    t.latched = s.latched ∧ t.live = s.live) ∧
  (∀ (k off : Nat) (p : Nat → Bool) (s : State), (s.hdr k).frozen = true → off < 4096 →
    Tbl.get 0 (s.latch p).latched (k * 4096 + off) = Tbl.get 0 s.latched (k * 4096 + off) ∧
    (s.latch p).stat k off = (if p k then 0 else s.stat k off)) ∧
  (∀ (k off n : Nat) (s : State), (s.hdr k).frozen = true →
    (s.bump64 k off n).stat k off = s.stat k off + BitVec.ofNat 64 n ∧
    bits ((s.bump k off n).stat k off) 31 0 = (bits (s.stat k off) 31 0 + n) % 2 ^ 32 ∧
    bits ((s.bumpHi k off n).stat k off) 63 32 = (bits (s.stat k off) 63 32 + n) % 2 ^ 32) ∧
  (∀ (p : Nat) (s : State), ∃ u v : State, s.latchEdge p = (if s.statRef = some p then (v.clearPart p).latchShared else v.clearPart p) ∧
    v = u.latch (s.pageOf p) ∧ u.hdrs = s.hdrs ∧ u.latched = s.latched)
end

