-- ==== Sys2Proof/Laws/Mem.lean ====
section
/-! SUPPORT. Laws/Mem.lean: byte memory reads what was last written and keeps its canonical form; the same of tables by number. -/

namespace Sys2Proof.Machine

open Sys2Proof

/-! ### Memory -/

theorem Memory.read1_write1_same (m : Memory) (a : Nat) (b : Byte) (lo : Nat) (h : m.wfFrom lo = true) :
    (m.write1 a b).read1 a = b := by
  induction m generalizing lo with
  | nil => by_cases hb : b = Memory.unlisted <;> simp [Memory.write1, Memory.read1, hb]
  | cons e r ih =>
    obtain ⟨k, v⟩ := e
    simp only [Memory.wfFrom, Bool.and_eq_true, decide_eq_true_eq] at h
    have away : ∀ (r : Memory) (n : Nat), r.wfFrom n = true → a < n → r.read1 a = Memory.unlisted := by
      intro r
      induction r with
      | nil => intros; rfl
      | cons e r ih2 =>
        intro n hn ha
        obtain ⟨k', v'⟩ := e
        simp only [Memory.wfFrom, Bool.and_eq_true, decide_eq_true_eq] at hn
        have : k' ≠ a := by omega
        simp only [Memory.read1, this, if_false]
        exact ih2 _ hn.2 (by omega)
    simp only [Memory.write1]
    split
    · have hk : k ≠ a := by omega
      by_cases hb : b = Memory.unlisted
      · simp [Memory.read1, hb, hk, away r (k + 1) h.2 (by omega)]
      · simp [Memory.read1, hb]
    · split
      · subst_vars
        by_cases hb : b = Memory.unlisted
        · simp [hb, away r _ h.2 (Nat.lt_succ_self _)]
        · simp [Memory.read1, hb]
      · have hk : k ≠ a := by omega
        simp only [Memory.read1, hk, if_false]
        exact ih _ h.2

theorem Memory.read1_write1_other (m : Memory) (a c : Nat) (b : Byte) (hac : c ≠ a) :
    (m.write1 a b).read1 c = m.read1 c := by
  induction m with
  | nil => by_cases hb : b = Memory.unlisted <;> simp [Memory.write1, Memory.read1, hb, Ne.symm hac]
  | cons e r ih =>
    obtain ⟨k, v⟩ := e
    simp only [Memory.write1]
    split
    · by_cases hb : b = Memory.unlisted <;> simp [Memory.read1, hb, Ne.symm hac]
    · split
      · subst_vars
        by_cases hb : b = Memory.unlisted <;> simp [Memory.read1, hb, Ne.symm hac]
      · simp only [Memory.read1, ih]

theorem Memory.write1_wfFrom (m : Memory) (lo a : Nat) (b : Byte) (h : m.wfFrom lo = true) (ha : lo ≤ a) :
    (m.write1 a b).wfFrom lo = true := by
  induction m generalizing lo with
  | nil => by_cases hb : b = Memory.unlisted <;> simp [Memory.write1, Memory.wfFrom, hb, ha]
  | cons e r ih =>
    obtain ⟨k, v⟩ := e
    have h' := h
    simp only [Memory.wfFrom, Bool.and_eq_true, decide_eq_true_eq] at h'
    obtain ⟨⟨h1, h2⟩, h3⟩ := h'
    have weaken : ∀ (r : Memory) (n n' : Nat), n' ≤ n → r.wfFrom n = true → r.wfFrom n' = true := by
      intro r n n' hn hr
      cases r with
      | nil => rfl
      | cons e r =>
        simp only [Memory.wfFrom, Bool.and_eq_true, decide_eq_true_eq] at hr ⊢
        exact ⟨⟨by omega, hr.1.2⟩, hr.2⟩
    simp only [Memory.write1]
    split
    · by_cases hb : b = Memory.unlisted
      · simpa [hb] using h
      · simp only [hb, if_false, Memory.wfFrom, Bool.and_eq_true, decide_eq_true_eq]
        exact ⟨⟨ha, by simpa using hb⟩, ⟨by omega, h2⟩, h3⟩
    · split
      · by_cases hb : b = Memory.unlisted
        · simpa [hb] using weaken r (k + 1) lo (by omega) h3
        · simp only [hb, if_false, Memory.wfFrom, Bool.and_eq_true, decide_eq_true_eq]
          exact ⟨⟨h1, by simpa using hb⟩, h3⟩
      · simp only [Memory.wfFrom, Bool.and_eq_true, decide_eq_true_eq]
        exact ⟨⟨h1, h2⟩, ih _ h3 (by omega)⟩

/-- Writing one byte keeps the canonical form. -/
theorem Memory.write1_wf (m : Memory) (a : Nat) (b : Byte) (h : m.wf = true) : (m.write1 a b).wf = true :=
  Memory.write1_wfFrom m 0 a b h (Nat.zero_le _)

/-- Writing bytes keeps the canonical form. -/
theorem Memory.write_wf (b : Bytes) : ∀ (m : Memory) (a : Nat), m.wf = true → (m.write a b).wf = true := by
  induction b with
  | nil => intro m a h; exact h
  | cons x r ih => intro m a h; exact ih _ _ (Memory.write1_wf m a x h)

/-- Dropping listed bytes keeps the canonical form. -/
theorem Memory.filter_wfFrom (p : Host.Cell → Bool) (m : Memory) (lo : Nat) (h : m.wfFrom lo = true) : Memory.wfFrom lo (m.filter p) = true := by
  induction m generalizing lo with
  | nil => rfl
  | cons e r ih =>
    obtain ⟨k, v⟩ := e
    simp only [Memory.wfFrom, Bool.and_eq_true, decide_eq_true_eq] at h
    have weaken : ∀ (r : Memory) (n n' : Nat), n' ≤ n → r.wfFrom n = true → r.wfFrom n' = true := by
      intro r n n' hn hr
      cases r with
      | nil => rfl
      | cons e r =>
        simp only [Memory.wfFrom, Bool.and_eq_true, decide_eq_true_eq] at hr ⊢
        exact ⟨⟨by omega, hr.1.2⟩, hr.2⟩
    simp only [List.filter_cons]
    split
    · simp only [Memory.wfFrom, Bool.and_eq_true, decide_eq_true_eq]
      exact ⟨h.1, ih _ h.2⟩
    · exact weaken _ _ _ (by omega) (ih _ h.2)

theorem Memory.filter_wf (p : Host.Cell → Bool) (m : Memory) (h : m.wf = true) : Memory.wf (m.filter p) = true :=
  Memory.filter_wfFrom p m 0 h

/-- A write leaves every byte outside it as it was. -/
theorem Memory.read1_write_other (b : Bytes) : ∀ (m : Memory) (a c : Nat), c < a ∨ a + b.length ≤ c → (m.write a b).read1 c = m.read1 c := by
  induction b with
  | nil => intros; rfl
  | cons x r ih =>
    intro m a c h
    simp only [List.length_cons] at h
    simp only [Memory.write]
    rw [ih _ _ _ (by omega), Memory.read1_write1_other _ _ _ _ (by omega)]

/-- A byte of a write reads as written. -/
theorem Memory.read1_write_in (b : Bytes) :
    ∀ (m : Memory) (a i : Nat) (h : i < b.length), m.wf = true → (m.write a b).read1 (a + i) = b[i] := by
  induction b with
  | nil => intro m a i h; simp at h
  | cons x r ih =>
    intro m a i h hw
    simp only [Memory.write]
    cases i with
    | zero =>
      rw [Memory.read1_write_other _ _ _ _ (by omega)]
      exact Memory.read1_write1_same m a x 0 hw
    | succ i =>
      have := ih (m.write1 a x) (a + 1) i (by simpa using h) (Memory.write1_wf m a x hw)
      simpa [Nat.add_assoc, Nat.add_comm 1 i] using this

/-! ### Tables -/

@[simp] theorem Tbl.get_set_same {α : Type} (d : α) (t : List (Nat × α)) (k : Nat) (v : α) : Tbl.get d (Tbl.set t k v) k = v := by
  induction t with
  | nil => simp [Tbl.set, Tbl.get]
  | cons e r ih =>
    obtain ⟨k', v'⟩ := e
    simp only [Tbl.set]
    split
    · simp [Tbl.get]
    · split
      · simp [Tbl.get]
      · have : k' ≠ k := by omega
        simp [Tbl.get, this, ih]

theorem Tbl.get_set_other {α : Type} (d : α) (t : List (Nat × α)) (k j : Nat) (v : α) (h : j ≠ k) :
    Tbl.get d (Tbl.set t k v) j = Tbl.get d t j := by
  induction t with
  | nil => simp [Tbl.set, Tbl.get, Ne.symm h]
  | cons e r ih =>
    obtain ⟨k', v'⟩ := e
    simp only [Tbl.set]
    split
    · simp [Tbl.get, Ne.symm h]
    · split
      · subst_vars; simp [Tbl.get, Ne.symm h]
      · simp only [Tbl.get, ih]

@[simp] theorem Tbl.get_nil {α : Type} (d : α) (k : Nat) : Tbl.get d [] k = d := rfl

theorem Tbl.set_wfFrom {α : Type} (t : List (Nat × α)) (lo k : Nat) (v : α) (h : Tbl.wfFrom lo t = true) (hk : lo ≤ k) :
    Tbl.wfFrom lo (Tbl.set t k v) = true := by
  induction t generalizing lo with
  | nil => simp [Tbl.set, Tbl.wfFrom, hk]
  | cons e r ih =>
    obtain ⟨k', v'⟩ := e
    simp only [Tbl.wfFrom, Bool.and_eq_true, decide_eq_true_eq] at h
    simp only [Tbl.set]
    split
    · simp only [Tbl.wfFrom, Bool.and_eq_true, decide_eq_true_eq]; exact ⟨hk, by omega, h.2⟩
    · split
      · subst_vars; simp only [Tbl.wfFrom, Bool.and_eq_true, decide_eq_true_eq]; exact ⟨h.1, h.2⟩
      · simp only [Tbl.wfFrom, Bool.and_eq_true, decide_eq_true_eq]; exact ⟨h.1, ih _ h.2 (by omega)⟩

/-- Setting a key keeps the keys strictly rising. -/
theorem Tbl.set_wf {α : Type} (t : List (Nat × α)) (k : Nat) (v : α) (h : Tbl.wfFrom 0 t = true) : Tbl.wfFrom 0 (Tbl.set t k v) = true :=
  Tbl.set_wfFrom t 0 k v h (Nat.zero_le _)

end Sys2Proof.Machine
end

