-- ==== Sys2Proof/Laws/State.lean ====
section
/-! SUPPORT. Laws/State.lean: what each named update of the state leaves as it is, field by field, and what it puts where. -/

namespace Sys2Proof.Machine

open Sys2Proof

@[simp] theorem State.modCtx_frame (s : State) (k : Nat) (f : CtxSt → CtxSt) :
    (s.modCtx k f).pending = s.pending ∧ (s.modCtx k f).out = s.out ∧ (s.modCtx k f).mem = s.mem ∧ (s.modCtx k f).cb = s.cb ∧
    (s.modCtx k f).poison = s.poison ∧ (s.modCtx k f).upsets = s.upsets ∧ (s.modCtx k f).cwUpsets = s.cwUpsets ∧
    (s.modCtx k f).rf = s.rf ∧ (s.modCtx k f).holds = s.holds ∧ (s.modCtx k f).latches = s.latches ∧ (s.modCtx k f).hdrs = s.hdrs ∧
    (s.modCtx k f).engProg = s.engProg ∧ (s.modCtx k f).live = s.live ∧ (s.modCtx k f).latched = s.latched ∧
    (s.modCtx k f).time = s.time ∧ (s.modCtx k f).coords = s.coords ∧ (s.modCtx k f).saved = s.saved ∧ (s.modCtx k f).sqs = s.sqs ∧
    (s.modCtx k f).cqs = s.cqs ∧ (s.modCtx k f).ents = s.ents ∧ (s.modCtx k f).fences = s.fences ∧ (s.modCtx k f).sems = s.sems ∧
    (s.modCtx k f).plans = s.plans ∧ (s.modCtx k f).gfe = s.gfe ∧ (s.modCtx k f).emit = s.emit ∧ (s.modCtx k f).ners = s.ners ∧
    (s.modCtx k f).cores = s.cores ∧ (s.modCtx k f).seqs = s.seqs ∧ (s.modCtx k f).slices = s.slices ∧
    (s.modCtx k f).movers = s.movers ∧ (s.modCtx k f).tiers = s.tiers ∧ (s.modCtx k f).bridges = s.bridges ∧
    (s.modCtx k f).kpms = s.kpms ∧ (s.modCtx k f).txus = s.txus ∧ (s.modCtx k f).ports = s.ports ∧ (s.modCtx k f).lsu = s.lsu ∧
    (s.modCtx k f).folds = s.folds ∧ (s.modCtx k f).parts = s.parts ∧ (s.modCtx k f).backing = s.backing ∧
    (s.modCtx k f).xlats = s.xlats ∧ (s.modCtx k f).sec = s.sec ∧ (s.modCtx k f).boot = s.boot ∧ (s.modCtx k f).stewLog = s.stewLog ∧
    (s.modCtx k f).fmu = s.fmu ∧ (s.modCtx k f).sage = s.sage ∧ (s.modCtx k f).pcie = s.pcie ∧ (s.modCtx k f).power = s.power ∧
    (s.modCtx k f).dbg = s.dbg ∧ (s.modCtx k f).freeCtr = s.freeCtr := by
  repeat' constructor

@[simp] theorem State.modCoord_frame (s : State) (k : Nat) (f : CoordSt → CoordSt) :
    (s.modCoord k f).pending = s.pending ∧ (s.modCoord k f).out = s.out ∧ (s.modCoord k f).mem = s.mem ∧ (s.modCoord k f).cb = s.cb ∧
    (s.modCoord k f).poison = s.poison ∧ (s.modCoord k f).upsets = s.upsets ∧ (s.modCoord k f).cwUpsets = s.cwUpsets ∧
    (s.modCoord k f).rf = s.rf ∧ (s.modCoord k f).holds = s.holds ∧ (s.modCoord k f).latches = s.latches ∧
    (s.modCoord k f).hdrs = s.hdrs ∧ (s.modCoord k f).engProg = s.engProg ∧ (s.modCoord k f).live = s.live ∧
    (s.modCoord k f).latched = s.latched ∧ (s.modCoord k f).time = s.time ∧ (s.modCoord k f).ctxs = s.ctxs ∧
    (s.modCoord k f).saved = s.saved ∧ (s.modCoord k f).sqs = s.sqs ∧ (s.modCoord k f).cqs = s.cqs ∧ (s.modCoord k f).ents = s.ents ∧
    (s.modCoord k f).fences = s.fences ∧ (s.modCoord k f).sems = s.sems ∧ (s.modCoord k f).plans = s.plans ∧
    (s.modCoord k f).gfe = s.gfe ∧ (s.modCoord k f).emit = s.emit ∧ (s.modCoord k f).ners = s.ners ∧ (s.modCoord k f).cores = s.cores ∧
    (s.modCoord k f).seqs = s.seqs ∧ (s.modCoord k f).slices = s.slices ∧ (s.modCoord k f).movers = s.movers ∧
    (s.modCoord k f).tiers = s.tiers ∧ (s.modCoord k f).bridges = s.bridges ∧ (s.modCoord k f).kpms = s.kpms ∧
    (s.modCoord k f).txus = s.txus ∧ (s.modCoord k f).ports = s.ports ∧ (s.modCoord k f).lsu = s.lsu ∧
    (s.modCoord k f).folds = s.folds ∧ (s.modCoord k f).parts = s.parts ∧ (s.modCoord k f).backing = s.backing ∧
    (s.modCoord k f).xlats = s.xlats ∧ (s.modCoord k f).sec = s.sec ∧ (s.modCoord k f).boot = s.boot ∧
    (s.modCoord k f).stewLog = s.stewLog ∧ (s.modCoord k f).fmu = s.fmu ∧ (s.modCoord k f).sage = s.sage ∧
    (s.modCoord k f).pcie = s.pcie ∧ (s.modCoord k f).power = s.power ∧ (s.modCoord k f).dbg = s.dbg ∧
    (s.modCoord k f).freeCtr = s.freeCtr := by
  repeat' constructor

@[simp] theorem State.modSq_frame (s : State) (k : Nat) (f : SqSt → SqSt) :
    (s.modSq k f).pending = s.pending ∧ (s.modSq k f).out = s.out ∧ (s.modSq k f).mem = s.mem ∧ (s.modSq k f).cb = s.cb ∧
    (s.modSq k f).poison = s.poison ∧ (s.modSq k f).upsets = s.upsets ∧ (s.modSq k f).cwUpsets = s.cwUpsets ∧ (s.modSq k f).rf = s.rf ∧
    (s.modSq k f).holds = s.holds ∧ (s.modSq k f).latches = s.latches ∧ (s.modSq k f).hdrs = s.hdrs ∧
    (s.modSq k f).engProg = s.engProg ∧ (s.modSq k f).live = s.live ∧ (s.modSq k f).latched = s.latched ∧ (s.modSq k f).time = s.time ∧
    (s.modSq k f).ctxs = s.ctxs ∧ (s.modSq k f).coords = s.coords ∧ (s.modSq k f).saved = s.saved ∧ (s.modSq k f).cqs = s.cqs ∧
    (s.modSq k f).ents = s.ents ∧ (s.modSq k f).fences = s.fences ∧ (s.modSq k f).sems = s.sems ∧ (s.modSq k f).plans = s.plans ∧
    (s.modSq k f).gfe = s.gfe ∧ (s.modSq k f).emit = s.emit ∧ (s.modSq k f).ners = s.ners ∧ (s.modSq k f).cores = s.cores ∧
    (s.modSq k f).seqs = s.seqs ∧ (s.modSq k f).slices = s.slices ∧ (s.modSq k f).movers = s.movers ∧ (s.modSq k f).tiers = s.tiers ∧
    (s.modSq k f).bridges = s.bridges ∧ (s.modSq k f).kpms = s.kpms ∧ (s.modSq k f).txus = s.txus ∧ (s.modSq k f).ports = s.ports ∧
    (s.modSq k f).lsu = s.lsu ∧ (s.modSq k f).folds = s.folds ∧ (s.modSq k f).parts = s.parts ∧ (s.modSq k f).backing = s.backing ∧
    (s.modSq k f).xlats = s.xlats ∧ (s.modSq k f).sec = s.sec ∧ (s.modSq k f).boot = s.boot ∧ (s.modSq k f).stewLog = s.stewLog ∧
    (s.modSq k f).fmu = s.fmu ∧ (s.modSq k f).sage = s.sage ∧ (s.modSq k f).pcie = s.pcie ∧ (s.modSq k f).power = s.power ∧
    (s.modSq k f).dbg = s.dbg ∧ (s.modSq k f).freeCtr = s.freeCtr := by
  repeat' constructor

@[simp] theorem State.modCq_frame (s : State) (k : Nat) (f : CqSt → CqSt) :
    (s.modCq k f).pending = s.pending ∧ (s.modCq k f).out = s.out ∧ (s.modCq k f).mem = s.mem ∧ (s.modCq k f).cb = s.cb ∧
    (s.modCq k f).poison = s.poison ∧ (s.modCq k f).upsets = s.upsets ∧ (s.modCq k f).cwUpsets = s.cwUpsets ∧ (s.modCq k f).rf = s.rf ∧
    (s.modCq k f).holds = s.holds ∧ (s.modCq k f).latches = s.latches ∧ (s.modCq k f).hdrs = s.hdrs ∧
    (s.modCq k f).engProg = s.engProg ∧ (s.modCq k f).live = s.live ∧ (s.modCq k f).latched = s.latched ∧ (s.modCq k f).time = s.time ∧
    (s.modCq k f).ctxs = s.ctxs ∧ (s.modCq k f).coords = s.coords ∧ (s.modCq k f).saved = s.saved ∧ (s.modCq k f).sqs = s.sqs ∧
    (s.modCq k f).ents = s.ents ∧ (s.modCq k f).fences = s.fences ∧ (s.modCq k f).sems = s.sems ∧ (s.modCq k f).plans = s.plans ∧
    (s.modCq k f).gfe = s.gfe ∧ (s.modCq k f).emit = s.emit ∧ (s.modCq k f).ners = s.ners ∧ (s.modCq k f).cores = s.cores ∧
    (s.modCq k f).seqs = s.seqs ∧ (s.modCq k f).slices = s.slices ∧ (s.modCq k f).movers = s.movers ∧ (s.modCq k f).tiers = s.tiers ∧
    (s.modCq k f).bridges = s.bridges ∧ (s.modCq k f).kpms = s.kpms ∧ (s.modCq k f).txus = s.txus ∧ (s.modCq k f).ports = s.ports ∧
    (s.modCq k f).lsu = s.lsu ∧ (s.modCq k f).folds = s.folds ∧ (s.modCq k f).parts = s.parts ∧ (s.modCq k f).backing = s.backing ∧
    (s.modCq k f).xlats = s.xlats ∧ (s.modCq k f).sec = s.sec ∧ (s.modCq k f).boot = s.boot ∧ (s.modCq k f).stewLog = s.stewLog ∧
    (s.modCq k f).fmu = s.fmu ∧ (s.modCq k f).sage = s.sage ∧ (s.modCq k f).pcie = s.pcie ∧ (s.modCq k f).power = s.power ∧
    (s.modCq k f).dbg = s.dbg ∧ (s.modCq k f).freeCtr = s.freeCtr := by
  repeat' constructor

@[simp] theorem State.modNer_frame (s : State) (k : Nat) (f : NerSt → NerSt) :
    (s.modNer k f).pending = s.pending ∧ (s.modNer k f).out = s.out ∧ (s.modNer k f).mem = s.mem ∧ (s.modNer k f).cb = s.cb ∧
    (s.modNer k f).poison = s.poison ∧ (s.modNer k f).upsets = s.upsets ∧ (s.modNer k f).cwUpsets = s.cwUpsets ∧
    (s.modNer k f).rf = s.rf ∧ (s.modNer k f).holds = s.holds ∧ (s.modNer k f).latches = s.latches ∧ (s.modNer k f).hdrs = s.hdrs ∧
    (s.modNer k f).engProg = s.engProg ∧ (s.modNer k f).live = s.live ∧ (s.modNer k f).latched = s.latched ∧
    (s.modNer k f).time = s.time ∧ (s.modNer k f).ctxs = s.ctxs ∧ (s.modNer k f).coords = s.coords ∧ (s.modNer k f).saved = s.saved ∧
    (s.modNer k f).sqs = s.sqs ∧ (s.modNer k f).cqs = s.cqs ∧ (s.modNer k f).ents = s.ents ∧ (s.modNer k f).fences = s.fences ∧
    (s.modNer k f).sems = s.sems ∧ (s.modNer k f).plans = s.plans ∧ (s.modNer k f).gfe = s.gfe ∧ (s.modNer k f).emit = s.emit ∧
    (s.modNer k f).cores = s.cores ∧ (s.modNer k f).seqs = s.seqs ∧ (s.modNer k f).slices = s.slices ∧
    (s.modNer k f).movers = s.movers ∧ (s.modNer k f).tiers = s.tiers ∧ (s.modNer k f).bridges = s.bridges ∧
    (s.modNer k f).kpms = s.kpms ∧ (s.modNer k f).txus = s.txus ∧ (s.modNer k f).ports = s.ports ∧ (s.modNer k f).lsu = s.lsu ∧
    (s.modNer k f).folds = s.folds ∧ (s.modNer k f).parts = s.parts ∧ (s.modNer k f).backing = s.backing ∧
    (s.modNer k f).xlats = s.xlats ∧ (s.modNer k f).sec = s.sec ∧ (s.modNer k f).boot = s.boot ∧ (s.modNer k f).stewLog = s.stewLog ∧
    (s.modNer k f).fmu = s.fmu ∧ (s.modNer k f).sage = s.sage ∧ (s.modNer k f).pcie = s.pcie ∧ (s.modNer k f).power = s.power ∧
    (s.modNer k f).dbg = s.dbg ∧ (s.modNer k f).freeCtr = s.freeCtr := by
  repeat' constructor

@[simp] theorem State.modCore_frame (s : State) (k : Nat) (f : CoreSt → CoreSt) :
    (s.modCore k f).pending = s.pending ∧ (s.modCore k f).out = s.out ∧ (s.modCore k f).mem = s.mem ∧ (s.modCore k f).cb = s.cb ∧
    (s.modCore k f).poison = s.poison ∧ (s.modCore k f).upsets = s.upsets ∧ (s.modCore k f).cwUpsets = s.cwUpsets ∧
    (s.modCore k f).rf = s.rf ∧ (s.modCore k f).holds = s.holds ∧ (s.modCore k f).latches = s.latches ∧ (s.modCore k f).hdrs = s.hdrs ∧
    (s.modCore k f).engProg = s.engProg ∧ (s.modCore k f).live = s.live ∧ (s.modCore k f).latched = s.latched ∧
    (s.modCore k f).time = s.time ∧ (s.modCore k f).ctxs = s.ctxs ∧ (s.modCore k f).coords = s.coords ∧
    (s.modCore k f).saved = s.saved ∧ (s.modCore k f).sqs = s.sqs ∧ (s.modCore k f).cqs = s.cqs ∧ (s.modCore k f).ents = s.ents ∧
    (s.modCore k f).fences = s.fences ∧ (s.modCore k f).sems = s.sems ∧ (s.modCore k f).plans = s.plans ∧ (s.modCore k f).gfe = s.gfe ∧
    (s.modCore k f).emit = s.emit ∧ (s.modCore k f).ners = s.ners ∧ (s.modCore k f).seqs = s.seqs ∧ (s.modCore k f).slices = s.slices ∧
    (s.modCore k f).movers = s.movers ∧ (s.modCore k f).tiers = s.tiers ∧ (s.modCore k f).bridges = s.bridges ∧
    (s.modCore k f).kpms = s.kpms ∧ (s.modCore k f).txus = s.txus ∧ (s.modCore k f).ports = s.ports ∧ (s.modCore k f).lsu = s.lsu ∧
    (s.modCore k f).folds = s.folds ∧ (s.modCore k f).parts = s.parts ∧ (s.modCore k f).backing = s.backing ∧
    (s.modCore k f).xlats = s.xlats ∧ (s.modCore k f).sec = s.sec ∧ (s.modCore k f).boot = s.boot ∧
    (s.modCore k f).stewLog = s.stewLog ∧ (s.modCore k f).fmu = s.fmu ∧ (s.modCore k f).sage = s.sage ∧ (s.modCore k f).pcie = s.pcie ∧
    (s.modCore k f).power = s.power ∧ (s.modCore k f).dbg = s.dbg ∧ (s.modCore k f).freeCtr = s.freeCtr := by
  repeat' constructor

@[simp] theorem State.modSeq_frame (s : State) (k : Nat) (f : SeqSt → SeqSt) :
    (s.modSeq k f).pending = s.pending ∧ (s.modSeq k f).out = s.out ∧ (s.modSeq k f).mem = s.mem ∧ (s.modSeq k f).cb = s.cb ∧
    (s.modSeq k f).poison = s.poison ∧ (s.modSeq k f).upsets = s.upsets ∧ (s.modSeq k f).cwUpsets = s.cwUpsets ∧
    (s.modSeq k f).rf = s.rf ∧ (s.modSeq k f).holds = s.holds ∧ (s.modSeq k f).latches = s.latches ∧ (s.modSeq k f).hdrs = s.hdrs ∧
    (s.modSeq k f).engProg = s.engProg ∧ (s.modSeq k f).live = s.live ∧ (s.modSeq k f).latched = s.latched ∧
    (s.modSeq k f).time = s.time ∧ (s.modSeq k f).ctxs = s.ctxs ∧ (s.modSeq k f).coords = s.coords ∧ (s.modSeq k f).saved = s.saved ∧
    (s.modSeq k f).sqs = s.sqs ∧ (s.modSeq k f).cqs = s.cqs ∧ (s.modSeq k f).ents = s.ents ∧ (s.modSeq k f).fences = s.fences ∧
    (s.modSeq k f).sems = s.sems ∧ (s.modSeq k f).plans = s.plans ∧ (s.modSeq k f).gfe = s.gfe ∧ (s.modSeq k f).emit = s.emit ∧
    (s.modSeq k f).ners = s.ners ∧ (s.modSeq k f).cores = s.cores ∧ (s.modSeq k f).slices = s.slices ∧
    (s.modSeq k f).movers = s.movers ∧ (s.modSeq k f).tiers = s.tiers ∧ (s.modSeq k f).bridges = s.bridges ∧
    (s.modSeq k f).kpms = s.kpms ∧ (s.modSeq k f).txus = s.txus ∧ (s.modSeq k f).ports = s.ports ∧ (s.modSeq k f).lsu = s.lsu ∧
    (s.modSeq k f).folds = s.folds ∧ (s.modSeq k f).parts = s.parts ∧ (s.modSeq k f).backing = s.backing ∧
    (s.modSeq k f).xlats = s.xlats ∧ (s.modSeq k f).sec = s.sec ∧ (s.modSeq k f).boot = s.boot ∧ (s.modSeq k f).stewLog = s.stewLog ∧
    (s.modSeq k f).fmu = s.fmu ∧ (s.modSeq k f).sage = s.sage ∧ (s.modSeq k f).pcie = s.pcie ∧ (s.modSeq k f).power = s.power ∧
    (s.modSeq k f).dbg = s.dbg ∧ (s.modSeq k f).freeCtr = s.freeCtr := by
  repeat' constructor

@[simp] theorem State.modSlice_frame (s : State) (k : Nat) (f : SliceSt → SliceSt) :
    (s.modSlice k f).pending = s.pending ∧ (s.modSlice k f).out = s.out ∧ (s.modSlice k f).mem = s.mem ∧ (s.modSlice k f).cb = s.cb ∧
    (s.modSlice k f).poison = s.poison ∧ (s.modSlice k f).upsets = s.upsets ∧ (s.modSlice k f).cwUpsets = s.cwUpsets ∧
    (s.modSlice k f).rf = s.rf ∧ (s.modSlice k f).holds = s.holds ∧ (s.modSlice k f).latches = s.latches ∧
    (s.modSlice k f).hdrs = s.hdrs ∧ (s.modSlice k f).engProg = s.engProg ∧ (s.modSlice k f).live = s.live ∧
    (s.modSlice k f).latched = s.latched ∧ (s.modSlice k f).time = s.time ∧ (s.modSlice k f).ctxs = s.ctxs ∧
    (s.modSlice k f).coords = s.coords ∧ (s.modSlice k f).saved = s.saved ∧ (s.modSlice k f).sqs = s.sqs ∧
    (s.modSlice k f).cqs = s.cqs ∧ (s.modSlice k f).ents = s.ents ∧ (s.modSlice k f).fences = s.fences ∧
    (s.modSlice k f).sems = s.sems ∧ (s.modSlice k f).plans = s.plans ∧ (s.modSlice k f).gfe = s.gfe ∧ (s.modSlice k f).emit = s.emit ∧
    (s.modSlice k f).ners = s.ners ∧ (s.modSlice k f).cores = s.cores ∧ (s.modSlice k f).seqs = s.seqs ∧
    (s.modSlice k f).movers = s.movers ∧ (s.modSlice k f).tiers = s.tiers ∧ (s.modSlice k f).bridges = s.bridges ∧
    (s.modSlice k f).kpms = s.kpms ∧ (s.modSlice k f).txus = s.txus ∧ (s.modSlice k f).ports = s.ports ∧ (s.modSlice k f).lsu = s.lsu ∧
    (s.modSlice k f).folds = s.folds ∧ (s.modSlice k f).parts = s.parts ∧ (s.modSlice k f).backing = s.backing ∧
    (s.modSlice k f).xlats = s.xlats ∧ (s.modSlice k f).sec = s.sec ∧ (s.modSlice k f).boot = s.boot ∧
    (s.modSlice k f).stewLog = s.stewLog ∧ (s.modSlice k f).fmu = s.fmu ∧ (s.modSlice k f).sage = s.sage ∧
    (s.modSlice k f).pcie = s.pcie ∧ (s.modSlice k f).power = s.power ∧ (s.modSlice k f).dbg = s.dbg ∧
    (s.modSlice k f).freeCtr = s.freeCtr := by
  repeat' constructor

@[simp] theorem State.modMover_frame (s : State) (k : Nat) (f : MoverSt → MoverSt) :
    (s.modMover k f).pending = s.pending ∧ (s.modMover k f).out = s.out ∧ (s.modMover k f).mem = s.mem ∧ (s.modMover k f).cb = s.cb ∧
    (s.modMover k f).poison = s.poison ∧ (s.modMover k f).upsets = s.upsets ∧ (s.modMover k f).cwUpsets = s.cwUpsets ∧
    (s.modMover k f).rf = s.rf ∧ (s.modMover k f).holds = s.holds ∧ (s.modMover k f).latches = s.latches ∧
    (s.modMover k f).hdrs = s.hdrs ∧ (s.modMover k f).engProg = s.engProg ∧ (s.modMover k f).live = s.live ∧
    (s.modMover k f).latched = s.latched ∧ (s.modMover k f).time = s.time ∧ (s.modMover k f).ctxs = s.ctxs ∧
    (s.modMover k f).coords = s.coords ∧ (s.modMover k f).saved = s.saved ∧ (s.modMover k f).sqs = s.sqs ∧
    (s.modMover k f).cqs = s.cqs ∧ (s.modMover k f).ents = s.ents ∧ (s.modMover k f).fences = s.fences ∧
    (s.modMover k f).sems = s.sems ∧ (s.modMover k f).plans = s.plans ∧ (s.modMover k f).gfe = s.gfe ∧ (s.modMover k f).emit = s.emit ∧
    (s.modMover k f).ners = s.ners ∧ (s.modMover k f).cores = s.cores ∧ (s.modMover k f).seqs = s.seqs ∧
    (s.modMover k f).slices = s.slices ∧ (s.modMover k f).tiers = s.tiers ∧ (s.modMover k f).bridges = s.bridges ∧
    (s.modMover k f).kpms = s.kpms ∧ (s.modMover k f).txus = s.txus ∧ (s.modMover k f).ports = s.ports ∧ (s.modMover k f).lsu = s.lsu ∧
    (s.modMover k f).folds = s.folds ∧ (s.modMover k f).parts = s.parts ∧ (s.modMover k f).backing = s.backing ∧
    (s.modMover k f).xlats = s.xlats ∧ (s.modMover k f).sec = s.sec ∧ (s.modMover k f).boot = s.boot ∧
    (s.modMover k f).stewLog = s.stewLog ∧ (s.modMover k f).fmu = s.fmu ∧ (s.modMover k f).sage = s.sage ∧
    (s.modMover k f).pcie = s.pcie ∧ (s.modMover k f).power = s.power ∧ (s.modMover k f).dbg = s.dbg ∧
    (s.modMover k f).freeCtr = s.freeCtr := by
  repeat' constructor

@[simp] theorem State.modTier_frame (s : State) (k : Nat) (f : TierSt → TierSt) :
    (s.modTier k f).pending = s.pending ∧ (s.modTier k f).out = s.out ∧ (s.modTier k f).mem = s.mem ∧ (s.modTier k f).cb = s.cb ∧
    (s.modTier k f).poison = s.poison ∧ (s.modTier k f).upsets = s.upsets ∧ (s.modTier k f).cwUpsets = s.cwUpsets ∧
    (s.modTier k f).rf = s.rf ∧ (s.modTier k f).holds = s.holds ∧ (s.modTier k f).latches = s.latches ∧ (s.modTier k f).hdrs = s.hdrs ∧
    (s.modTier k f).engProg = s.engProg ∧ (s.modTier k f).live = s.live ∧ (s.modTier k f).latched = s.latched ∧
    (s.modTier k f).time = s.time ∧ (s.modTier k f).ctxs = s.ctxs ∧ (s.modTier k f).coords = s.coords ∧
    (s.modTier k f).saved = s.saved ∧ (s.modTier k f).sqs = s.sqs ∧ (s.modTier k f).cqs = s.cqs ∧ (s.modTier k f).ents = s.ents ∧
    (s.modTier k f).fences = s.fences ∧ (s.modTier k f).sems = s.sems ∧ (s.modTier k f).plans = s.plans ∧ (s.modTier k f).gfe = s.gfe ∧
    (s.modTier k f).emit = s.emit ∧ (s.modTier k f).ners = s.ners ∧ (s.modTier k f).cores = s.cores ∧ (s.modTier k f).seqs = s.seqs ∧
    (s.modTier k f).slices = s.slices ∧ (s.modTier k f).movers = s.movers ∧ (s.modTier k f).bridges = s.bridges ∧
    (s.modTier k f).kpms = s.kpms ∧ (s.modTier k f).txus = s.txus ∧ (s.modTier k f).ports = s.ports ∧ (s.modTier k f).lsu = s.lsu ∧
    (s.modTier k f).folds = s.folds ∧ (s.modTier k f).parts = s.parts ∧ (s.modTier k f).backing = s.backing ∧
    (s.modTier k f).xlats = s.xlats ∧ (s.modTier k f).sec = s.sec ∧ (s.modTier k f).boot = s.boot ∧
    (s.modTier k f).stewLog = s.stewLog ∧ (s.modTier k f).fmu = s.fmu ∧ (s.modTier k f).sage = s.sage ∧ (s.modTier k f).pcie = s.pcie ∧
    (s.modTier k f).power = s.power ∧ (s.modTier k f).dbg = s.dbg ∧ (s.modTier k f).freeCtr = s.freeCtr := by
  repeat' constructor

@[simp] theorem State.modBridge_frame (s : State) (k : Nat) (f : BridgeSt → BridgeSt) :
    (s.modBridge k f).pending = s.pending ∧ (s.modBridge k f).out = s.out ∧ (s.modBridge k f).mem = s.mem ∧
    (s.modBridge k f).cb = s.cb ∧ (s.modBridge k f).poison = s.poison ∧ (s.modBridge k f).upsets = s.upsets ∧
    (s.modBridge k f).cwUpsets = s.cwUpsets ∧ (s.modBridge k f).rf = s.rf ∧ (s.modBridge k f).holds = s.holds ∧
    (s.modBridge k f).latches = s.latches ∧ (s.modBridge k f).hdrs = s.hdrs ∧ (s.modBridge k f).engProg = s.engProg ∧
    (s.modBridge k f).live = s.live ∧ (s.modBridge k f).latched = s.latched ∧ (s.modBridge k f).time = s.time ∧
    (s.modBridge k f).ctxs = s.ctxs ∧ (s.modBridge k f).coords = s.coords ∧ (s.modBridge k f).saved = s.saved ∧
    (s.modBridge k f).sqs = s.sqs ∧ (s.modBridge k f).cqs = s.cqs ∧ (s.modBridge k f).ents = s.ents ∧
    (s.modBridge k f).fences = s.fences ∧ (s.modBridge k f).sems = s.sems ∧ (s.modBridge k f).plans = s.plans ∧
    (s.modBridge k f).gfe = s.gfe ∧ (s.modBridge k f).emit = s.emit ∧ (s.modBridge k f).ners = s.ners ∧
    (s.modBridge k f).cores = s.cores ∧ (s.modBridge k f).seqs = s.seqs ∧ (s.modBridge k f).slices = s.slices ∧
    (s.modBridge k f).movers = s.movers ∧ (s.modBridge k f).tiers = s.tiers ∧ (s.modBridge k f).kpms = s.kpms ∧
    (s.modBridge k f).txus = s.txus ∧ (s.modBridge k f).ports = s.ports ∧ (s.modBridge k f).lsu = s.lsu ∧
    (s.modBridge k f).folds = s.folds ∧ (s.modBridge k f).parts = s.parts ∧ (s.modBridge k f).backing = s.backing ∧
    (s.modBridge k f).xlats = s.xlats ∧ (s.modBridge k f).sec = s.sec ∧ (s.modBridge k f).boot = s.boot ∧
    (s.modBridge k f).stewLog = s.stewLog ∧ (s.modBridge k f).fmu = s.fmu ∧ (s.modBridge k f).sage = s.sage ∧
    (s.modBridge k f).pcie = s.pcie ∧ (s.modBridge k f).power = s.power ∧ (s.modBridge k f).dbg = s.dbg ∧
    (s.modBridge k f).freeCtr = s.freeCtr := by
  repeat' constructor

@[simp] theorem State.modKpm_frame (s : State) (k : Nat) (f : KpmSt → KpmSt) :
    (s.modKpm k f).pending = s.pending ∧ (s.modKpm k f).out = s.out ∧ (s.modKpm k f).mem = s.mem ∧ (s.modKpm k f).cb = s.cb ∧
    (s.modKpm k f).poison = s.poison ∧ (s.modKpm k f).upsets = s.upsets ∧ (s.modKpm k f).cwUpsets = s.cwUpsets ∧
    (s.modKpm k f).rf = s.rf ∧ (s.modKpm k f).holds = s.holds ∧ (s.modKpm k f).latches = s.latches ∧ (s.modKpm k f).hdrs = s.hdrs ∧
    (s.modKpm k f).engProg = s.engProg ∧ (s.modKpm k f).live = s.live ∧ (s.modKpm k f).latched = s.latched ∧
    (s.modKpm k f).time = s.time ∧ (s.modKpm k f).ctxs = s.ctxs ∧ (s.modKpm k f).coords = s.coords ∧ (s.modKpm k f).saved = s.saved ∧
    (s.modKpm k f).sqs = s.sqs ∧ (s.modKpm k f).cqs = s.cqs ∧ (s.modKpm k f).ents = s.ents ∧ (s.modKpm k f).fences = s.fences ∧
    (s.modKpm k f).sems = s.sems ∧ (s.modKpm k f).plans = s.plans ∧ (s.modKpm k f).gfe = s.gfe ∧ (s.modKpm k f).emit = s.emit ∧
    (s.modKpm k f).ners = s.ners ∧ (s.modKpm k f).cores = s.cores ∧ (s.modKpm k f).seqs = s.seqs ∧ (s.modKpm k f).slices = s.slices ∧
    (s.modKpm k f).movers = s.movers ∧ (s.modKpm k f).tiers = s.tiers ∧ (s.modKpm k f).bridges = s.bridges ∧
    (s.modKpm k f).txus = s.txus ∧ (s.modKpm k f).ports = s.ports ∧ (s.modKpm k f).lsu = s.lsu ∧ (s.modKpm k f).folds = s.folds ∧
    (s.modKpm k f).parts = s.parts ∧ (s.modKpm k f).backing = s.backing ∧ (s.modKpm k f).xlats = s.xlats ∧ (s.modKpm k f).sec = s.sec ∧
    (s.modKpm k f).boot = s.boot ∧ (s.modKpm k f).stewLog = s.stewLog ∧ (s.modKpm k f).fmu = s.fmu ∧ (s.modKpm k f).sage = s.sage ∧
    (s.modKpm k f).pcie = s.pcie ∧ (s.modKpm k f).power = s.power ∧ (s.modKpm k f).dbg = s.dbg ∧ (s.modKpm k f).freeCtr = s.freeCtr := by
  repeat' constructor

@[simp] theorem State.modTxu_frame (s : State) (k : Nat) (f : TxuSt → TxuSt) :
    (s.modTxu k f).pending = s.pending ∧ (s.modTxu k f).out = s.out ∧ (s.modTxu k f).mem = s.mem ∧ (s.modTxu k f).cb = s.cb ∧
    (s.modTxu k f).poison = s.poison ∧ (s.modTxu k f).upsets = s.upsets ∧ (s.modTxu k f).cwUpsets = s.cwUpsets ∧
    (s.modTxu k f).rf = s.rf ∧ (s.modTxu k f).holds = s.holds ∧ (s.modTxu k f).latches = s.latches ∧ (s.modTxu k f).hdrs = s.hdrs ∧
    (s.modTxu k f).engProg = s.engProg ∧ (s.modTxu k f).live = s.live ∧ (s.modTxu k f).latched = s.latched ∧
    (s.modTxu k f).time = s.time ∧ (s.modTxu k f).ctxs = s.ctxs ∧ (s.modTxu k f).coords = s.coords ∧ (s.modTxu k f).saved = s.saved ∧
    (s.modTxu k f).sqs = s.sqs ∧ (s.modTxu k f).cqs = s.cqs ∧ (s.modTxu k f).ents = s.ents ∧ (s.modTxu k f).fences = s.fences ∧
    (s.modTxu k f).sems = s.sems ∧ (s.modTxu k f).plans = s.plans ∧ (s.modTxu k f).gfe = s.gfe ∧ (s.modTxu k f).emit = s.emit ∧
    (s.modTxu k f).ners = s.ners ∧ (s.modTxu k f).cores = s.cores ∧ (s.modTxu k f).seqs = s.seqs ∧ (s.modTxu k f).slices = s.slices ∧
    (s.modTxu k f).movers = s.movers ∧ (s.modTxu k f).tiers = s.tiers ∧ (s.modTxu k f).bridges = s.bridges ∧
    (s.modTxu k f).kpms = s.kpms ∧ (s.modTxu k f).ports = s.ports ∧ (s.modTxu k f).lsu = s.lsu ∧ (s.modTxu k f).folds = s.folds ∧
    (s.modTxu k f).parts = s.parts ∧ (s.modTxu k f).backing = s.backing ∧ (s.modTxu k f).xlats = s.xlats ∧ (s.modTxu k f).sec = s.sec ∧
    (s.modTxu k f).boot = s.boot ∧ (s.modTxu k f).stewLog = s.stewLog ∧ (s.modTxu k f).fmu = s.fmu ∧ (s.modTxu k f).sage = s.sage ∧
    (s.modTxu k f).pcie = s.pcie ∧ (s.modTxu k f).power = s.power ∧ (s.modTxu k f).dbg = s.dbg ∧ (s.modTxu k f).freeCtr = s.freeCtr := by
  repeat' constructor

@[simp] theorem State.modPort_frame (s : State) (k : Nat) (f : PortSt → PortSt) :
    (s.modPort k f).pending = s.pending ∧ (s.modPort k f).out = s.out ∧ (s.modPort k f).mem = s.mem ∧ (s.modPort k f).cb = s.cb ∧
    (s.modPort k f).poison = s.poison ∧ (s.modPort k f).upsets = s.upsets ∧ (s.modPort k f).cwUpsets = s.cwUpsets ∧
    (s.modPort k f).rf = s.rf ∧ (s.modPort k f).holds = s.holds ∧ (s.modPort k f).latches = s.latches ∧ (s.modPort k f).hdrs = s.hdrs ∧
    (s.modPort k f).engProg = s.engProg ∧ (s.modPort k f).live = s.live ∧ (s.modPort k f).latched = s.latched ∧
    (s.modPort k f).time = s.time ∧ (s.modPort k f).ctxs = s.ctxs ∧ (s.modPort k f).coords = s.coords ∧
    (s.modPort k f).saved = s.saved ∧ (s.modPort k f).sqs = s.sqs ∧ (s.modPort k f).cqs = s.cqs ∧ (s.modPort k f).ents = s.ents ∧
    (s.modPort k f).fences = s.fences ∧ (s.modPort k f).sems = s.sems ∧ (s.modPort k f).plans = s.plans ∧ (s.modPort k f).gfe = s.gfe ∧
    (s.modPort k f).emit = s.emit ∧ (s.modPort k f).ners = s.ners ∧ (s.modPort k f).cores = s.cores ∧ (s.modPort k f).seqs = s.seqs ∧
    (s.modPort k f).slices = s.slices ∧ (s.modPort k f).movers = s.movers ∧ (s.modPort k f).tiers = s.tiers ∧
    (s.modPort k f).bridges = s.bridges ∧ (s.modPort k f).kpms = s.kpms ∧ (s.modPort k f).txus = s.txus ∧ (s.modPort k f).lsu = s.lsu ∧
    (s.modPort k f).folds = s.folds ∧ (s.modPort k f).parts = s.parts ∧ (s.modPort k f).backing = s.backing ∧
    (s.modPort k f).xlats = s.xlats ∧ (s.modPort k f).sec = s.sec ∧ (s.modPort k f).boot = s.boot ∧
    (s.modPort k f).stewLog = s.stewLog ∧ (s.modPort k f).fmu = s.fmu ∧ (s.modPort k f).sage = s.sage ∧ (s.modPort k f).pcie = s.pcie ∧
    (s.modPort k f).power = s.power ∧ (s.modPort k f).dbg = s.dbg ∧ (s.modPort k f).freeCtr = s.freeCtr := by
  repeat' constructor

@[simp] theorem State.modFoldE_frame (s : State) (k : Nat) (f : FoldSt → FoldSt) :
    (s.modFoldE k f).pending = s.pending ∧ (s.modFoldE k f).out = s.out ∧ (s.modFoldE k f).mem = s.mem ∧ (s.modFoldE k f).cb = s.cb ∧
    (s.modFoldE k f).poison = s.poison ∧ (s.modFoldE k f).upsets = s.upsets ∧ (s.modFoldE k f).cwUpsets = s.cwUpsets ∧
    (s.modFoldE k f).rf = s.rf ∧ (s.modFoldE k f).holds = s.holds ∧ (s.modFoldE k f).latches = s.latches ∧
    (s.modFoldE k f).hdrs = s.hdrs ∧ (s.modFoldE k f).engProg = s.engProg ∧ (s.modFoldE k f).live = s.live ∧
    (s.modFoldE k f).latched = s.latched ∧ (s.modFoldE k f).time = s.time ∧ (s.modFoldE k f).ctxs = s.ctxs ∧
    (s.modFoldE k f).coords = s.coords ∧ (s.modFoldE k f).saved = s.saved ∧ (s.modFoldE k f).sqs = s.sqs ∧
    (s.modFoldE k f).cqs = s.cqs ∧ (s.modFoldE k f).ents = s.ents ∧ (s.modFoldE k f).fences = s.fences ∧
    (s.modFoldE k f).sems = s.sems ∧ (s.modFoldE k f).plans = s.plans ∧ (s.modFoldE k f).gfe = s.gfe ∧ (s.modFoldE k f).emit = s.emit ∧
    (s.modFoldE k f).ners = s.ners ∧ (s.modFoldE k f).cores = s.cores ∧ (s.modFoldE k f).seqs = s.seqs ∧
    (s.modFoldE k f).slices = s.slices ∧ (s.modFoldE k f).movers = s.movers ∧ (s.modFoldE k f).tiers = s.tiers ∧
    (s.modFoldE k f).bridges = s.bridges ∧ (s.modFoldE k f).kpms = s.kpms ∧ (s.modFoldE k f).txus = s.txus ∧
    (s.modFoldE k f).ports = s.ports ∧ (s.modFoldE k f).lsu = s.lsu ∧ (s.modFoldE k f).parts = s.parts ∧
    (s.modFoldE k f).backing = s.backing ∧ (s.modFoldE k f).xlats = s.xlats ∧ (s.modFoldE k f).sec = s.sec ∧
    (s.modFoldE k f).boot = s.boot ∧ (s.modFoldE k f).stewLog = s.stewLog ∧ (s.modFoldE k f).fmu = s.fmu ∧
    (s.modFoldE k f).sage = s.sage ∧ (s.modFoldE k f).pcie = s.pcie ∧ (s.modFoldE k f).power = s.power ∧ (s.modFoldE k f).dbg = s.dbg ∧
    (s.modFoldE k f).freeCtr = s.freeCtr := by
  repeat' constructor

@[simp] theorem State.modXlat_frame (s : State) (k : Nat) (f : XlatSt → XlatSt) :
    (s.modXlat k f).pending = s.pending ∧ (s.modXlat k f).out = s.out ∧ (s.modXlat k f).mem = s.mem ∧ (s.modXlat k f).cb = s.cb ∧
    (s.modXlat k f).poison = s.poison ∧ (s.modXlat k f).upsets = s.upsets ∧ (s.modXlat k f).cwUpsets = s.cwUpsets ∧
    (s.modXlat k f).rf = s.rf ∧ (s.modXlat k f).holds = s.holds ∧ (s.modXlat k f).latches = s.latches ∧ (s.modXlat k f).hdrs = s.hdrs ∧
    (s.modXlat k f).engProg = s.engProg ∧ (s.modXlat k f).live = s.live ∧ (s.modXlat k f).latched = s.latched ∧
    (s.modXlat k f).time = s.time ∧ (s.modXlat k f).ctxs = s.ctxs ∧ (s.modXlat k f).coords = s.coords ∧
    (s.modXlat k f).saved = s.saved ∧ (s.modXlat k f).sqs = s.sqs ∧ (s.modXlat k f).cqs = s.cqs ∧ (s.modXlat k f).ents = s.ents ∧
    (s.modXlat k f).fences = s.fences ∧ (s.modXlat k f).sems = s.sems ∧ (s.modXlat k f).plans = s.plans ∧ (s.modXlat k f).gfe = s.gfe ∧
    (s.modXlat k f).emit = s.emit ∧ (s.modXlat k f).ners = s.ners ∧ (s.modXlat k f).cores = s.cores ∧ (s.modXlat k f).seqs = s.seqs ∧
    (s.modXlat k f).slices = s.slices ∧ (s.modXlat k f).movers = s.movers ∧ (s.modXlat k f).tiers = s.tiers ∧
    (s.modXlat k f).bridges = s.bridges ∧ (s.modXlat k f).kpms = s.kpms ∧ (s.modXlat k f).txus = s.txus ∧
    (s.modXlat k f).ports = s.ports ∧ (s.modXlat k f).lsu = s.lsu ∧ (s.modXlat k f).folds = s.folds ∧ (s.modXlat k f).parts = s.parts ∧
    (s.modXlat k f).backing = s.backing ∧ (s.modXlat k f).sec = s.sec ∧ (s.modXlat k f).boot = s.boot ∧
    (s.modXlat k f).stewLog = s.stewLog ∧ (s.modXlat k f).fmu = s.fmu ∧ (s.modXlat k f).sage = s.sage ∧ (s.modXlat k f).pcie = s.pcie ∧
    (s.modXlat k f).power = s.power ∧ (s.modXlat k f).dbg = s.dbg ∧ (s.modXlat k f).freeCtr = s.freeCtr := by
  repeat' constructor

@[simp] theorem State.modBack_frame (s : State) (k : Nat) (f : Backing → Backing) :
    (s.modBack k f).pending = s.pending ∧ (s.modBack k f).out = s.out ∧ (s.modBack k f).mem = s.mem ∧ (s.modBack k f).cb = s.cb ∧
    (s.modBack k f).poison = s.poison ∧ (s.modBack k f).upsets = s.upsets ∧ (s.modBack k f).cwUpsets = s.cwUpsets ∧
    (s.modBack k f).rf = s.rf ∧ (s.modBack k f).holds = s.holds ∧ (s.modBack k f).latches = s.latches ∧ (s.modBack k f).hdrs = s.hdrs ∧
    (s.modBack k f).engProg = s.engProg ∧ (s.modBack k f).live = s.live ∧ (s.modBack k f).latched = s.latched ∧
    (s.modBack k f).time = s.time ∧ (s.modBack k f).ctxs = s.ctxs ∧ (s.modBack k f).coords = s.coords ∧
    (s.modBack k f).saved = s.saved ∧ (s.modBack k f).sqs = s.sqs ∧ (s.modBack k f).cqs = s.cqs ∧ (s.modBack k f).ents = s.ents ∧
    (s.modBack k f).fences = s.fences ∧ (s.modBack k f).sems = s.sems ∧ (s.modBack k f).plans = s.plans ∧ (s.modBack k f).gfe = s.gfe ∧
    (s.modBack k f).emit = s.emit ∧ (s.modBack k f).ners = s.ners ∧ (s.modBack k f).cores = s.cores ∧ (s.modBack k f).seqs = s.seqs ∧
    (s.modBack k f).slices = s.slices ∧ (s.modBack k f).movers = s.movers ∧ (s.modBack k f).tiers = s.tiers ∧
    (s.modBack k f).bridges = s.bridges ∧ (s.modBack k f).kpms = s.kpms ∧ (s.modBack k f).txus = s.txus ∧
    (s.modBack k f).ports = s.ports ∧ (s.modBack k f).lsu = s.lsu ∧ (s.modBack k f).folds = s.folds ∧ (s.modBack k f).parts = s.parts ∧
    (s.modBack k f).xlats = s.xlats ∧ (s.modBack k f).sec = s.sec ∧ (s.modBack k f).boot = s.boot ∧
    (s.modBack k f).stewLog = s.stewLog ∧ (s.modBack k f).fmu = s.fmu ∧ (s.modBack k f).sage = s.sage ∧ (s.modBack k f).pcie = s.pcie ∧
    (s.modBack k f).power = s.power ∧ (s.modBack k f).dbg = s.dbg ∧ (s.modBack k f).freeCtr = s.freeCtr := by
  repeat' constructor

@[simp] theorem State.modTime_frame (s : State) (f : TimeSt → TimeSt) :
    (s.modTime f).pending = s.pending ∧ (s.modTime f).out = s.out ∧ (s.modTime f).mem = s.mem ∧ (s.modTime f).cb = s.cb ∧
    (s.modTime f).poison = s.poison ∧ (s.modTime f).upsets = s.upsets ∧ (s.modTime f).cwUpsets = s.cwUpsets ∧ (s.modTime f).rf = s.rf ∧
    (s.modTime f).holds = s.holds ∧ (s.modTime f).latches = s.latches ∧ (s.modTime f).hdrs = s.hdrs ∧
    (s.modTime f).engProg = s.engProg ∧ (s.modTime f).live = s.live ∧ (s.modTime f).latched = s.latched ∧ (s.modTime f).ctxs = s.ctxs ∧
    (s.modTime f).coords = s.coords ∧ (s.modTime f).saved = s.saved ∧ (s.modTime f).sqs = s.sqs ∧ (s.modTime f).cqs = s.cqs ∧
    (s.modTime f).ents = s.ents ∧ (s.modTime f).fences = s.fences ∧ (s.modTime f).sems = s.sems ∧ (s.modTime f).plans = s.plans ∧
    (s.modTime f).gfe = s.gfe ∧ (s.modTime f).emit = s.emit ∧ (s.modTime f).ners = s.ners ∧ (s.modTime f).cores = s.cores ∧
    (s.modTime f).seqs = s.seqs ∧ (s.modTime f).slices = s.slices ∧ (s.modTime f).movers = s.movers ∧ (s.modTime f).tiers = s.tiers ∧
    (s.modTime f).bridges = s.bridges ∧ (s.modTime f).kpms = s.kpms ∧ (s.modTime f).txus = s.txus ∧ (s.modTime f).ports = s.ports ∧
    (s.modTime f).lsu = s.lsu ∧ (s.modTime f).folds = s.folds ∧ (s.modTime f).parts = s.parts ∧ (s.modTime f).backing = s.backing ∧
    (s.modTime f).xlats = s.xlats ∧ (s.modTime f).sec = s.sec ∧ (s.modTime f).boot = s.boot ∧ (s.modTime f).stewLog = s.stewLog ∧
    (s.modTime f).fmu = s.fmu ∧ (s.modTime f).sage = s.sage ∧ (s.modTime f).pcie = s.pcie ∧ (s.modTime f).power = s.power ∧
    (s.modTime f).dbg = s.dbg ∧ (s.modTime f).freeCtr = s.freeCtr := by
  repeat' constructor

@[simp] theorem State.modGfe_frame (s : State) (f : GfeSt → GfeSt) :
    (s.modGfe f).pending = s.pending ∧ (s.modGfe f).out = s.out ∧ (s.modGfe f).mem = s.mem ∧ (s.modGfe f).cb = s.cb ∧
    (s.modGfe f).poison = s.poison ∧ (s.modGfe f).upsets = s.upsets ∧ (s.modGfe f).cwUpsets = s.cwUpsets ∧ (s.modGfe f).rf = s.rf ∧
    (s.modGfe f).holds = s.holds ∧ (s.modGfe f).latches = s.latches ∧ (s.modGfe f).hdrs = s.hdrs ∧ (s.modGfe f).engProg = s.engProg ∧
    (s.modGfe f).live = s.live ∧ (s.modGfe f).latched = s.latched ∧ (s.modGfe f).time = s.time ∧ (s.modGfe f).ctxs = s.ctxs ∧
    (s.modGfe f).coords = s.coords ∧ (s.modGfe f).saved = s.saved ∧ (s.modGfe f).sqs = s.sqs ∧ (s.modGfe f).cqs = s.cqs ∧
    (s.modGfe f).ents = s.ents ∧ (s.modGfe f).fences = s.fences ∧ (s.modGfe f).sems = s.sems ∧ (s.modGfe f).plans = s.plans ∧
    (s.modGfe f).emit = s.emit ∧ (s.modGfe f).ners = s.ners ∧ (s.modGfe f).cores = s.cores ∧ (s.modGfe f).seqs = s.seqs ∧
    (s.modGfe f).slices = s.slices ∧ (s.modGfe f).movers = s.movers ∧ (s.modGfe f).tiers = s.tiers ∧ (s.modGfe f).bridges = s.bridges ∧
    (s.modGfe f).kpms = s.kpms ∧ (s.modGfe f).txus = s.txus ∧ (s.modGfe f).ports = s.ports ∧ (s.modGfe f).lsu = s.lsu ∧
    (s.modGfe f).folds = s.folds ∧ (s.modGfe f).parts = s.parts ∧ (s.modGfe f).backing = s.backing ∧ (s.modGfe f).xlats = s.xlats ∧
    (s.modGfe f).sec = s.sec ∧ (s.modGfe f).boot = s.boot ∧ (s.modGfe f).stewLog = s.stewLog ∧ (s.modGfe f).fmu = s.fmu ∧
    (s.modGfe f).sage = s.sage ∧ (s.modGfe f).pcie = s.pcie ∧ (s.modGfe f).power = s.power ∧ (s.modGfe f).dbg = s.dbg ∧
    (s.modGfe f).freeCtr = s.freeCtr := by
  repeat' constructor

@[simp] theorem State.modEmit_frame (s : State) (f : EmitSt → EmitSt) :
    (s.modEmit f).pending = s.pending ∧ (s.modEmit f).out = s.out ∧ (s.modEmit f).mem = s.mem ∧ (s.modEmit f).cb = s.cb ∧
    (s.modEmit f).poison = s.poison ∧ (s.modEmit f).upsets = s.upsets ∧ (s.modEmit f).cwUpsets = s.cwUpsets ∧ (s.modEmit f).rf = s.rf ∧
    (s.modEmit f).holds = s.holds ∧ (s.modEmit f).latches = s.latches ∧ (s.modEmit f).hdrs = s.hdrs ∧
    (s.modEmit f).engProg = s.engProg ∧ (s.modEmit f).live = s.live ∧ (s.modEmit f).latched = s.latched ∧ (s.modEmit f).time = s.time ∧
    (s.modEmit f).ctxs = s.ctxs ∧ (s.modEmit f).coords = s.coords ∧ (s.modEmit f).saved = s.saved ∧ (s.modEmit f).sqs = s.sqs ∧
    (s.modEmit f).cqs = s.cqs ∧ (s.modEmit f).ents = s.ents ∧ (s.modEmit f).fences = s.fences ∧ (s.modEmit f).sems = s.sems ∧
    (s.modEmit f).plans = s.plans ∧ (s.modEmit f).gfe = s.gfe ∧ (s.modEmit f).ners = s.ners ∧ (s.modEmit f).cores = s.cores ∧
    (s.modEmit f).seqs = s.seqs ∧ (s.modEmit f).slices = s.slices ∧ (s.modEmit f).movers = s.movers ∧ (s.modEmit f).tiers = s.tiers ∧
    (s.modEmit f).bridges = s.bridges ∧ (s.modEmit f).kpms = s.kpms ∧ (s.modEmit f).txus = s.txus ∧ (s.modEmit f).ports = s.ports ∧
    (s.modEmit f).lsu = s.lsu ∧ (s.modEmit f).folds = s.folds ∧ (s.modEmit f).parts = s.parts ∧ (s.modEmit f).backing = s.backing ∧
    (s.modEmit f).xlats = s.xlats ∧ (s.modEmit f).sec = s.sec ∧ (s.modEmit f).boot = s.boot ∧ (s.modEmit f).stewLog = s.stewLog ∧
    (s.modEmit f).fmu = s.fmu ∧ (s.modEmit f).sage = s.sage ∧ (s.modEmit f).pcie = s.pcie ∧ (s.modEmit f).power = s.power ∧
    (s.modEmit f).dbg = s.dbg ∧ (s.modEmit f).freeCtr = s.freeCtr := by
  repeat' constructor

@[simp] theorem State.modSec_frame (s : State) (f : SecSt → SecSt) :
    (s.modSec f).pending = s.pending ∧ (s.modSec f).out = s.out ∧ (s.modSec f).mem = s.mem ∧ (s.modSec f).cb = s.cb ∧
    (s.modSec f).poison = s.poison ∧ (s.modSec f).upsets = s.upsets ∧ (s.modSec f).cwUpsets = s.cwUpsets ∧ (s.modSec f).rf = s.rf ∧
    (s.modSec f).holds = s.holds ∧ (s.modSec f).latches = s.latches ∧ (s.modSec f).hdrs = s.hdrs ∧ (s.modSec f).engProg = s.engProg ∧
    (s.modSec f).live = s.live ∧ (s.modSec f).latched = s.latched ∧ (s.modSec f).time = s.time ∧ (s.modSec f).ctxs = s.ctxs ∧
    (s.modSec f).coords = s.coords ∧ (s.modSec f).saved = s.saved ∧ (s.modSec f).sqs = s.sqs ∧ (s.modSec f).cqs = s.cqs ∧
    (s.modSec f).ents = s.ents ∧ (s.modSec f).fences = s.fences ∧ (s.modSec f).sems = s.sems ∧ (s.modSec f).plans = s.plans ∧
    (s.modSec f).gfe = s.gfe ∧ (s.modSec f).emit = s.emit ∧ (s.modSec f).ners = s.ners ∧ (s.modSec f).cores = s.cores ∧
    (s.modSec f).seqs = s.seqs ∧ (s.modSec f).slices = s.slices ∧ (s.modSec f).movers = s.movers ∧ (s.modSec f).tiers = s.tiers ∧
    (s.modSec f).bridges = s.bridges ∧ (s.modSec f).kpms = s.kpms ∧ (s.modSec f).txus = s.txus ∧ (s.modSec f).ports = s.ports ∧
    (s.modSec f).lsu = s.lsu ∧ (s.modSec f).folds = s.folds ∧ (s.modSec f).parts = s.parts ∧ (s.modSec f).backing = s.backing ∧
    (s.modSec f).xlats = s.xlats ∧ (s.modSec f).boot = s.boot ∧ (s.modSec f).stewLog = s.stewLog ∧ (s.modSec f).fmu = s.fmu ∧
    (s.modSec f).sage = s.sage ∧ (s.modSec f).pcie = s.pcie ∧ (s.modSec f).power = s.power ∧ (s.modSec f).dbg = s.dbg ∧
    (s.modSec f).freeCtr = s.freeCtr := by
  repeat' constructor

@[simp] theorem State.modBoot_frame (s : State) (f : BootSt → BootSt) :
    (s.modBoot f).pending = s.pending ∧ (s.modBoot f).out = s.out ∧ (s.modBoot f).mem = s.mem ∧ (s.modBoot f).cb = s.cb ∧
    (s.modBoot f).poison = s.poison ∧ (s.modBoot f).upsets = s.upsets ∧ (s.modBoot f).cwUpsets = s.cwUpsets ∧ (s.modBoot f).rf = s.rf ∧
    (s.modBoot f).holds = s.holds ∧ (s.modBoot f).latches = s.latches ∧ (s.modBoot f).hdrs = s.hdrs ∧
    (s.modBoot f).engProg = s.engProg ∧ (s.modBoot f).live = s.live ∧ (s.modBoot f).latched = s.latched ∧ (s.modBoot f).time = s.time ∧
    (s.modBoot f).ctxs = s.ctxs ∧ (s.modBoot f).coords = s.coords ∧ (s.modBoot f).saved = s.saved ∧ (s.modBoot f).sqs = s.sqs ∧
    (s.modBoot f).cqs = s.cqs ∧ (s.modBoot f).ents = s.ents ∧ (s.modBoot f).fences = s.fences ∧ (s.modBoot f).sems = s.sems ∧
    (s.modBoot f).plans = s.plans ∧ (s.modBoot f).gfe = s.gfe ∧ (s.modBoot f).emit = s.emit ∧ (s.modBoot f).ners = s.ners ∧
    (s.modBoot f).cores = s.cores ∧ (s.modBoot f).seqs = s.seqs ∧ (s.modBoot f).slices = s.slices ∧ (s.modBoot f).movers = s.movers ∧
    (s.modBoot f).tiers = s.tiers ∧ (s.modBoot f).bridges = s.bridges ∧ (s.modBoot f).kpms = s.kpms ∧ (s.modBoot f).txus = s.txus ∧
    (s.modBoot f).ports = s.ports ∧ (s.modBoot f).lsu = s.lsu ∧ (s.modBoot f).folds = s.folds ∧ (s.modBoot f).parts = s.parts ∧
    (s.modBoot f).backing = s.backing ∧ (s.modBoot f).xlats = s.xlats ∧ (s.modBoot f).sec = s.sec ∧ (s.modBoot f).stewLog = s.stewLog ∧
    (s.modBoot f).fmu = s.fmu ∧ (s.modBoot f).sage = s.sage ∧ (s.modBoot f).pcie = s.pcie ∧ (s.modBoot f).power = s.power ∧
    (s.modBoot f).dbg = s.dbg ∧ (s.modBoot f).freeCtr = s.freeCtr := by
  repeat' constructor

@[simp] theorem State.modFmu_frame (s : State) (f : FmuSt → FmuSt) :
    (s.modFmu f).pending = s.pending ∧ (s.modFmu f).out = s.out ∧ (s.modFmu f).mem = s.mem ∧ (s.modFmu f).cb = s.cb ∧
    (s.modFmu f).poison = s.poison ∧ (s.modFmu f).upsets = s.upsets ∧ (s.modFmu f).cwUpsets = s.cwUpsets ∧ (s.modFmu f).rf = s.rf ∧
    (s.modFmu f).holds = s.holds ∧ (s.modFmu f).latches = s.latches ∧ (s.modFmu f).hdrs = s.hdrs ∧ (s.modFmu f).engProg = s.engProg ∧
    (s.modFmu f).live = s.live ∧ (s.modFmu f).latched = s.latched ∧ (s.modFmu f).time = s.time ∧ (s.modFmu f).ctxs = s.ctxs ∧
    (s.modFmu f).coords = s.coords ∧ (s.modFmu f).saved = s.saved ∧ (s.modFmu f).sqs = s.sqs ∧ (s.modFmu f).cqs = s.cqs ∧
    (s.modFmu f).ents = s.ents ∧ (s.modFmu f).fences = s.fences ∧ (s.modFmu f).sems = s.sems ∧ (s.modFmu f).plans = s.plans ∧
    (s.modFmu f).gfe = s.gfe ∧ (s.modFmu f).emit = s.emit ∧ (s.modFmu f).ners = s.ners ∧ (s.modFmu f).cores = s.cores ∧
    (s.modFmu f).seqs = s.seqs ∧ (s.modFmu f).slices = s.slices ∧ (s.modFmu f).movers = s.movers ∧ (s.modFmu f).tiers = s.tiers ∧
    (s.modFmu f).bridges = s.bridges ∧ (s.modFmu f).kpms = s.kpms ∧ (s.modFmu f).txus = s.txus ∧ (s.modFmu f).ports = s.ports ∧
    (s.modFmu f).lsu = s.lsu ∧ (s.modFmu f).folds = s.folds ∧ (s.modFmu f).parts = s.parts ∧ (s.modFmu f).backing = s.backing ∧
    (s.modFmu f).xlats = s.xlats ∧ (s.modFmu f).sec = s.sec ∧ (s.modFmu f).boot = s.boot ∧ (s.modFmu f).stewLog = s.stewLog ∧
    (s.modFmu f).sage = s.sage ∧ (s.modFmu f).pcie = s.pcie ∧ (s.modFmu f).power = s.power ∧ (s.modFmu f).dbg = s.dbg ∧
    (s.modFmu f).freeCtr = s.freeCtr := by
  repeat' constructor

@[simp] theorem State.modSage_frame (s : State) (f : SageSt → SageSt) :
    (s.modSage f).pending = s.pending ∧ (s.modSage f).out = s.out ∧ (s.modSage f).mem = s.mem ∧ (s.modSage f).cb = s.cb ∧
    (s.modSage f).poison = s.poison ∧ (s.modSage f).upsets = s.upsets ∧ (s.modSage f).cwUpsets = s.cwUpsets ∧ (s.modSage f).rf = s.rf ∧
    (s.modSage f).holds = s.holds ∧ (s.modSage f).latches = s.latches ∧ (s.modSage f).hdrs = s.hdrs ∧
    (s.modSage f).engProg = s.engProg ∧ (s.modSage f).live = s.live ∧ (s.modSage f).latched = s.latched ∧ (s.modSage f).time = s.time ∧
    (s.modSage f).ctxs = s.ctxs ∧ (s.modSage f).coords = s.coords ∧ (s.modSage f).saved = s.saved ∧ (s.modSage f).sqs = s.sqs ∧
    (s.modSage f).cqs = s.cqs ∧ (s.modSage f).ents = s.ents ∧ (s.modSage f).fences = s.fences ∧ (s.modSage f).sems = s.sems ∧
    (s.modSage f).plans = s.plans ∧ (s.modSage f).gfe = s.gfe ∧ (s.modSage f).emit = s.emit ∧ (s.modSage f).ners = s.ners ∧
    (s.modSage f).cores = s.cores ∧ (s.modSage f).seqs = s.seqs ∧ (s.modSage f).slices = s.slices ∧ (s.modSage f).movers = s.movers ∧
    (s.modSage f).tiers = s.tiers ∧ (s.modSage f).bridges = s.bridges ∧ (s.modSage f).kpms = s.kpms ∧ (s.modSage f).txus = s.txus ∧
    (s.modSage f).ports = s.ports ∧ (s.modSage f).lsu = s.lsu ∧ (s.modSage f).folds = s.folds ∧ (s.modSage f).parts = s.parts ∧
    (s.modSage f).backing = s.backing ∧ (s.modSage f).xlats = s.xlats ∧ (s.modSage f).sec = s.sec ∧ (s.modSage f).boot = s.boot ∧
    (s.modSage f).stewLog = s.stewLog ∧ (s.modSage f).fmu = s.fmu ∧ (s.modSage f).pcie = s.pcie ∧ (s.modSage f).power = s.power ∧
    (s.modSage f).dbg = s.dbg ∧ (s.modSage f).freeCtr = s.freeCtr := by
  repeat' constructor

@[simp] theorem State.modPcie_frame (s : State) (f : PcieSt → PcieSt) :
    (s.modPcie f).pending = s.pending ∧ (s.modPcie f).out = s.out ∧ (s.modPcie f).mem = s.mem ∧ (s.modPcie f).cb = s.cb ∧
    (s.modPcie f).poison = s.poison ∧ (s.modPcie f).upsets = s.upsets ∧ (s.modPcie f).cwUpsets = s.cwUpsets ∧ (s.modPcie f).rf = s.rf ∧
    (s.modPcie f).holds = s.holds ∧ (s.modPcie f).latches = s.latches ∧ (s.modPcie f).hdrs = s.hdrs ∧
    (s.modPcie f).engProg = s.engProg ∧ (s.modPcie f).live = s.live ∧ (s.modPcie f).latched = s.latched ∧ (s.modPcie f).time = s.time ∧
    (s.modPcie f).ctxs = s.ctxs ∧ (s.modPcie f).coords = s.coords ∧ (s.modPcie f).saved = s.saved ∧ (s.modPcie f).sqs = s.sqs ∧
    (s.modPcie f).cqs = s.cqs ∧ (s.modPcie f).ents = s.ents ∧ (s.modPcie f).fences = s.fences ∧ (s.modPcie f).sems = s.sems ∧
    (s.modPcie f).plans = s.plans ∧ (s.modPcie f).gfe = s.gfe ∧ (s.modPcie f).emit = s.emit ∧ (s.modPcie f).ners = s.ners ∧
    (s.modPcie f).cores = s.cores ∧ (s.modPcie f).seqs = s.seqs ∧ (s.modPcie f).slices = s.slices ∧ (s.modPcie f).movers = s.movers ∧
    (s.modPcie f).tiers = s.tiers ∧ (s.modPcie f).bridges = s.bridges ∧ (s.modPcie f).kpms = s.kpms ∧ (s.modPcie f).txus = s.txus ∧
    (s.modPcie f).ports = s.ports ∧ (s.modPcie f).lsu = s.lsu ∧ (s.modPcie f).folds = s.folds ∧ (s.modPcie f).parts = s.parts ∧
    (s.modPcie f).backing = s.backing ∧ (s.modPcie f).xlats = s.xlats ∧ (s.modPcie f).sec = s.sec ∧ (s.modPcie f).boot = s.boot ∧
    (s.modPcie f).stewLog = s.stewLog ∧ (s.modPcie f).fmu = s.fmu ∧ (s.modPcie f).sage = s.sage ∧ (s.modPcie f).power = s.power ∧
    (s.modPcie f).dbg = s.dbg ∧ (s.modPcie f).freeCtr = s.freeCtr := by
  repeat' constructor

@[simp] theorem State.modPower_frame (s : State) (f : PowerSt → PowerSt) :
    (s.modPower f).pending = s.pending ∧ (s.modPower f).out = s.out ∧ (s.modPower f).mem = s.mem ∧ (s.modPower f).cb = s.cb ∧
    (s.modPower f).poison = s.poison ∧ (s.modPower f).upsets = s.upsets ∧ (s.modPower f).cwUpsets = s.cwUpsets ∧
    (s.modPower f).rf = s.rf ∧ (s.modPower f).holds = s.holds ∧ (s.modPower f).latches = s.latches ∧ (s.modPower f).hdrs = s.hdrs ∧
    (s.modPower f).engProg = s.engProg ∧ (s.modPower f).live = s.live ∧ (s.modPower f).latched = s.latched ∧
    (s.modPower f).time = s.time ∧ (s.modPower f).ctxs = s.ctxs ∧ (s.modPower f).coords = s.coords ∧ (s.modPower f).saved = s.saved ∧
    (s.modPower f).sqs = s.sqs ∧ (s.modPower f).cqs = s.cqs ∧ (s.modPower f).ents = s.ents ∧ (s.modPower f).fences = s.fences ∧
    (s.modPower f).sems = s.sems ∧ (s.modPower f).plans = s.plans ∧ (s.modPower f).gfe = s.gfe ∧ (s.modPower f).emit = s.emit ∧
    (s.modPower f).ners = s.ners ∧ (s.modPower f).cores = s.cores ∧ (s.modPower f).seqs = s.seqs ∧ (s.modPower f).slices = s.slices ∧
    (s.modPower f).movers = s.movers ∧ (s.modPower f).tiers = s.tiers ∧ (s.modPower f).bridges = s.bridges ∧
    (s.modPower f).kpms = s.kpms ∧ (s.modPower f).txus = s.txus ∧ (s.modPower f).ports = s.ports ∧ (s.modPower f).lsu = s.lsu ∧
    (s.modPower f).folds = s.folds ∧ (s.modPower f).parts = s.parts ∧ (s.modPower f).backing = s.backing ∧
    (s.modPower f).xlats = s.xlats ∧ (s.modPower f).sec = s.sec ∧ (s.modPower f).boot = s.boot ∧ (s.modPower f).stewLog = s.stewLog ∧
    (s.modPower f).fmu = s.fmu ∧ (s.modPower f).sage = s.sage ∧ (s.modPower f).pcie = s.pcie ∧ (s.modPower f).dbg = s.dbg ∧
    (s.modPower f).freeCtr = s.freeCtr := by
  repeat' constructor

@[simp] theorem State.modDebug_frame (s : State) (f : DebugSt → DebugSt) :
    (s.modDebug f).pending = s.pending ∧ (s.modDebug f).out = s.out ∧ (s.modDebug f).mem = s.mem ∧ (s.modDebug f).cb = s.cb ∧
    (s.modDebug f).poison = s.poison ∧ (s.modDebug f).upsets = s.upsets ∧ (s.modDebug f).cwUpsets = s.cwUpsets ∧
    (s.modDebug f).rf = s.rf ∧ (s.modDebug f).holds = s.holds ∧ (s.modDebug f).latches = s.latches ∧ (s.modDebug f).hdrs = s.hdrs ∧
    (s.modDebug f).engProg = s.engProg ∧ (s.modDebug f).live = s.live ∧ (s.modDebug f).latched = s.latched ∧
    (s.modDebug f).time = s.time ∧ (s.modDebug f).ctxs = s.ctxs ∧ (s.modDebug f).coords = s.coords ∧ (s.modDebug f).saved = s.saved ∧
    (s.modDebug f).sqs = s.sqs ∧ (s.modDebug f).cqs = s.cqs ∧ (s.modDebug f).ents = s.ents ∧ (s.modDebug f).fences = s.fences ∧
    (s.modDebug f).sems = s.sems ∧ (s.modDebug f).plans = s.plans ∧ (s.modDebug f).gfe = s.gfe ∧ (s.modDebug f).emit = s.emit ∧
    (s.modDebug f).ners = s.ners ∧ (s.modDebug f).cores = s.cores ∧ (s.modDebug f).seqs = s.seqs ∧ (s.modDebug f).slices = s.slices ∧
    (s.modDebug f).movers = s.movers ∧ (s.modDebug f).tiers = s.tiers ∧ (s.modDebug f).bridges = s.bridges ∧
    (s.modDebug f).kpms = s.kpms ∧ (s.modDebug f).txus = s.txus ∧ (s.modDebug f).ports = s.ports ∧ (s.modDebug f).lsu = s.lsu ∧
    (s.modDebug f).folds = s.folds ∧ (s.modDebug f).parts = s.parts ∧ (s.modDebug f).backing = s.backing ∧
    (s.modDebug f).xlats = s.xlats ∧ (s.modDebug f).sec = s.sec ∧ (s.modDebug f).boot = s.boot ∧ (s.modDebug f).stewLog = s.stewLog ∧
    (s.modDebug f).fmu = s.fmu ∧ (s.modDebug f).sage = s.sage ∧ (s.modDebug f).pcie = s.pcie ∧ (s.modDebug f).power = s.power ∧
    (s.modDebug f).freeCtr = s.freeCtr := by
  repeat' constructor

@[simp] theorem State.modHdr_frame (s : State) (k : Nat) (f : PageHdr → PageHdr) :
    (s.modHdr k f).pending = s.pending ∧ (s.modHdr k f).out = s.out ∧ (s.modHdr k f).mem = s.mem ∧ (s.modHdr k f).cb = s.cb ∧
    (s.modHdr k f).poison = s.poison ∧ (s.modHdr k f).upsets = s.upsets ∧ (s.modHdr k f).cwUpsets = s.cwUpsets ∧
    (s.modHdr k f).rf = s.rf ∧ (s.modHdr k f).holds = s.holds ∧ (s.modHdr k f).latches = s.latches ∧
    (s.modHdr k f).engProg = s.engProg ∧ (s.modHdr k f).live = s.live ∧ (s.modHdr k f).latched = s.latched ∧
    (s.modHdr k f).time = s.time ∧ (s.modHdr k f).ctxs = s.ctxs ∧ (s.modHdr k f).coords = s.coords ∧ (s.modHdr k f).saved = s.saved ∧
    (s.modHdr k f).sqs = s.sqs ∧ (s.modHdr k f).cqs = s.cqs ∧ (s.modHdr k f).ents = s.ents ∧ (s.modHdr k f).fences = s.fences ∧
    (s.modHdr k f).sems = s.sems ∧ (s.modHdr k f).plans = s.plans ∧ (s.modHdr k f).gfe = s.gfe ∧ (s.modHdr k f).emit = s.emit ∧
    (s.modHdr k f).ners = s.ners ∧ (s.modHdr k f).cores = s.cores ∧ (s.modHdr k f).seqs = s.seqs ∧ (s.modHdr k f).slices = s.slices ∧
    (s.modHdr k f).movers = s.movers ∧ (s.modHdr k f).tiers = s.tiers ∧ (s.modHdr k f).bridges = s.bridges ∧
    (s.modHdr k f).kpms = s.kpms ∧ (s.modHdr k f).txus = s.txus ∧ (s.modHdr k f).ports = s.ports ∧ (s.modHdr k f).lsu = s.lsu ∧
    (s.modHdr k f).folds = s.folds ∧ (s.modHdr k f).parts = s.parts ∧ (s.modHdr k f).backing = s.backing ∧
    (s.modHdr k f).xlats = s.xlats ∧ (s.modHdr k f).sec = s.sec ∧ (s.modHdr k f).boot = s.boot ∧ (s.modHdr k f).stewLog = s.stewLog ∧
    (s.modHdr k f).fmu = s.fmu ∧ (s.modHdr k f).sage = s.sage ∧ (s.modHdr k f).pcie = s.pcie ∧ (s.modHdr k f).power = s.power ∧
    (s.modHdr k f).dbg = s.dbg ∧ (s.modHdr k f).freeCtr = s.freeCtr := by
  repeat' constructor

@[simp] theorem State.modPart_frame (s : State) (p : Nat) (f : PartSt → PartSt) :
    (s.modPart p f).pending = s.pending ∧ (s.modPart p f).out = s.out ∧ (s.modPart p f).mem = s.mem ∧ (s.modPart p f).cb = s.cb ∧
    (s.modPart p f).poison = s.poison ∧ (s.modPart p f).upsets = s.upsets ∧ (s.modPart p f).cwUpsets = s.cwUpsets ∧
    (s.modPart p f).rf = s.rf ∧ (s.modPart p f).holds = s.holds ∧ (s.modPart p f).latches = s.latches ∧ (s.modPart p f).hdrs = s.hdrs ∧
    (s.modPart p f).engProg = s.engProg ∧ (s.modPart p f).live = s.live ∧ (s.modPart p f).latched = s.latched ∧
    (s.modPart p f).time = s.time ∧ (s.modPart p f).ctxs = s.ctxs ∧ (s.modPart p f).coords = s.coords ∧
    (s.modPart p f).saved = s.saved ∧ (s.modPart p f).sqs = s.sqs ∧ (s.modPart p f).cqs = s.cqs ∧ (s.modPart p f).ents = s.ents ∧
    (s.modPart p f).fences = s.fences ∧ (s.modPart p f).sems = s.sems ∧ (s.modPart p f).plans = s.plans ∧ (s.modPart p f).gfe = s.gfe ∧
    (s.modPart p f).emit = s.emit ∧ (s.modPart p f).ners = s.ners ∧ (s.modPart p f).cores = s.cores ∧ (s.modPart p f).seqs = s.seqs ∧
    (s.modPart p f).slices = s.slices ∧ (s.modPart p f).movers = s.movers ∧ (s.modPart p f).tiers = s.tiers ∧
    (s.modPart p f).bridges = s.bridges ∧ (s.modPart p f).kpms = s.kpms ∧ (s.modPart p f).txus = s.txus ∧
    (s.modPart p f).ports = s.ports ∧ (s.modPart p f).lsu = s.lsu ∧ (s.modPart p f).folds = s.folds ∧
    (s.modPart p f).backing = s.backing ∧ (s.modPart p f).xlats = s.xlats ∧ (s.modPart p f).sec = s.sec ∧
    (s.modPart p f).boot = s.boot ∧ (s.modPart p f).stewLog = s.stewLog ∧ (s.modPart p f).fmu = s.fmu ∧ (s.modPart p f).sage = s.sage ∧
    (s.modPart p f).pcie = s.pcie ∧ (s.modPart p f).power = s.power ∧ (s.modPart p f).dbg = s.dbg ∧ (s.modPart p f).freeCtr = s.freeCtr := by
  repeat' constructor

@[simp] theorem State.countErr_frame (s : State) (k : Nat) :
    (s.countErr k).pending = s.pending ∧ (s.countErr k).out = s.out ∧ (s.countErr k).mem = s.mem ∧ (s.countErr k).cb = s.cb ∧
    (s.countErr k).poison = s.poison ∧ (s.countErr k).upsets = s.upsets ∧ (s.countErr k).cwUpsets = s.cwUpsets ∧
    (s.countErr k).rf = s.rf ∧ (s.countErr k).holds = s.holds ∧ (s.countErr k).latches = s.latches ∧
    (s.countErr k).engProg = s.engProg ∧ (s.countErr k).live = s.live ∧ (s.countErr k).latched = s.latched ∧
    (s.countErr k).time = s.time ∧ (s.countErr k).ctxs = s.ctxs ∧ (s.countErr k).coords = s.coords ∧ (s.countErr k).saved = s.saved ∧
    (s.countErr k).sqs = s.sqs ∧ (s.countErr k).cqs = s.cqs ∧ (s.countErr k).ents = s.ents ∧ (s.countErr k).fences = s.fences ∧
    (s.countErr k).sems = s.sems ∧ (s.countErr k).plans = s.plans ∧ (s.countErr k).gfe = s.gfe ∧ (s.countErr k).emit = s.emit ∧
    (s.countErr k).ners = s.ners ∧ (s.countErr k).cores = s.cores ∧ (s.countErr k).seqs = s.seqs ∧ (s.countErr k).slices = s.slices ∧
    (s.countErr k).movers = s.movers ∧ (s.countErr k).tiers = s.tiers ∧ (s.countErr k).bridges = s.bridges ∧
    (s.countErr k).kpms = s.kpms ∧ (s.countErr k).txus = s.txus ∧ (s.countErr k).ports = s.ports ∧ (s.countErr k).lsu = s.lsu ∧
    (s.countErr k).folds = s.folds ∧ (s.countErr k).parts = s.parts ∧ (s.countErr k).backing = s.backing ∧
    (s.countErr k).xlats = s.xlats ∧ (s.countErr k).sec = s.sec ∧ (s.countErr k).boot = s.boot ∧ (s.countErr k).stewLog = s.stewLog ∧
    (s.countErr k).fmu = s.fmu ∧ (s.countErr k).sage = s.sage ∧ (s.countErr k).pcie = s.pcie ∧ (s.countErr k).power = s.power ∧
    (s.countErr k).dbg = s.dbg ∧ (s.countErr k).freeCtr = s.freeCtr := by
  repeat' constructor

@[simp] theorem State.noteErr_frame (s : State) (k a b : Nat) :
    (s.noteErr k a b).pending = s.pending ∧ (s.noteErr k a b).out = s.out ∧ (s.noteErr k a b).mem = s.mem ∧
    (s.noteErr k a b).cb = s.cb ∧ (s.noteErr k a b).poison = s.poison ∧ (s.noteErr k a b).upsets = s.upsets ∧
    (s.noteErr k a b).cwUpsets = s.cwUpsets ∧ (s.noteErr k a b).rf = s.rf ∧ (s.noteErr k a b).holds = s.holds ∧
    (s.noteErr k a b).latches = s.latches ∧ (s.noteErr k a b).engProg = s.engProg ∧ (s.noteErr k a b).live = s.live ∧
    (s.noteErr k a b).latched = s.latched ∧ (s.noteErr k a b).time = s.time ∧ (s.noteErr k a b).ctxs = s.ctxs ∧
    (s.noteErr k a b).coords = s.coords ∧ (s.noteErr k a b).saved = s.saved ∧ (s.noteErr k a b).sqs = s.sqs ∧
    (s.noteErr k a b).cqs = s.cqs ∧ (s.noteErr k a b).ents = s.ents ∧ (s.noteErr k a b).fences = s.fences ∧
    (s.noteErr k a b).sems = s.sems ∧ (s.noteErr k a b).plans = s.plans ∧ (s.noteErr k a b).gfe = s.gfe ∧
    (s.noteErr k a b).emit = s.emit ∧ (s.noteErr k a b).ners = s.ners ∧ (s.noteErr k a b).cores = s.cores ∧
    (s.noteErr k a b).seqs = s.seqs ∧ (s.noteErr k a b).slices = s.slices ∧ (s.noteErr k a b).movers = s.movers ∧
    (s.noteErr k a b).tiers = s.tiers ∧ (s.noteErr k a b).bridges = s.bridges ∧ (s.noteErr k a b).kpms = s.kpms ∧
    (s.noteErr k a b).txus = s.txus ∧ (s.noteErr k a b).ports = s.ports ∧ (s.noteErr k a b).lsu = s.lsu ∧
    (s.noteErr k a b).folds = s.folds ∧ (s.noteErr k a b).parts = s.parts ∧ (s.noteErr k a b).backing = s.backing ∧
    (s.noteErr k a b).xlats = s.xlats ∧ (s.noteErr k a b).sec = s.sec ∧ (s.noteErr k a b).boot = s.boot ∧
    (s.noteErr k a b).stewLog = s.stewLog ∧ (s.noteErr k a b).fmu = s.fmu ∧ (s.noteErr k a b).sage = s.sage ∧
    (s.noteErr k a b).pcie = s.pcie ∧ (s.noteErr k a b).power = s.power ∧ (s.noteErr k a b).dbg = s.dbg ∧
    (s.noteErr k a b).freeCtr = s.freeCtr := by
  repeat' constructor

@[simp] theorem State.progress_frame (s : State) (k n : Nat) :
    (s.progress k n).pending = s.pending ∧ (s.progress k n).out = s.out ∧ (s.progress k n).mem = s.mem ∧ (s.progress k n).cb = s.cb ∧
    (s.progress k n).poison = s.poison ∧ (s.progress k n).upsets = s.upsets ∧ (s.progress k n).cwUpsets = s.cwUpsets ∧
    (s.progress k n).rf = s.rf ∧ (s.progress k n).holds = s.holds ∧ (s.progress k n).latches = s.latches ∧
    (s.progress k n).engProg = s.engProg ∧ (s.progress k n).live = s.live ∧ (s.progress k n).latched = s.latched ∧
    (s.progress k n).time = s.time ∧ (s.progress k n).ctxs = s.ctxs ∧ (s.progress k n).coords = s.coords ∧
    (s.progress k n).saved = s.saved ∧ (s.progress k n).sqs = s.sqs ∧ (s.progress k n).cqs = s.cqs ∧ (s.progress k n).ents = s.ents ∧
    (s.progress k n).fences = s.fences ∧ (s.progress k n).sems = s.sems ∧ (s.progress k n).plans = s.plans ∧
    (s.progress k n).gfe = s.gfe ∧ (s.progress k n).emit = s.emit ∧ (s.progress k n).ners = s.ners ∧ (s.progress k n).cores = s.cores ∧
    (s.progress k n).seqs = s.seqs ∧ (s.progress k n).slices = s.slices ∧ (s.progress k n).movers = s.movers ∧
    (s.progress k n).tiers = s.tiers ∧ (s.progress k n).bridges = s.bridges ∧ (s.progress k n).kpms = s.kpms ∧
    (s.progress k n).txus = s.txus ∧ (s.progress k n).ports = s.ports ∧ (s.progress k n).lsu = s.lsu ∧
    (s.progress k n).folds = s.folds ∧ (s.progress k n).parts = s.parts ∧ (s.progress k n).backing = s.backing ∧
    (s.progress k n).xlats = s.xlats ∧ (s.progress k n).sec = s.sec ∧ (s.progress k n).boot = s.boot ∧
    (s.progress k n).stewLog = s.stewLog ∧ (s.progress k n).fmu = s.fmu ∧ (s.progress k n).sage = s.sage ∧
    (s.progress k n).pcie = s.pcie ∧ (s.progress k n).power = s.power ∧ (s.progress k n).dbg = s.dbg ∧
    (s.progress k n).freeCtr = s.freeCtr := by
  repeat' constructor

@[simp] theorem State.progressOf_frame (s : State) (k e n : Nat) :
    (s.progressOf k e n).pending = s.pending ∧ (s.progressOf k e n).out = s.out ∧ (s.progressOf k e n).mem = s.mem ∧
    (s.progressOf k e n).cb = s.cb ∧ (s.progressOf k e n).poison = s.poison ∧ (s.progressOf k e n).upsets = s.upsets ∧
    (s.progressOf k e n).cwUpsets = s.cwUpsets ∧ (s.progressOf k e n).rf = s.rf ∧ (s.progressOf k e n).holds = s.holds ∧
    (s.progressOf k e n).latches = s.latches ∧ (s.progressOf k e n).live = s.live ∧ (s.progressOf k e n).latched = s.latched ∧
    (s.progressOf k e n).time = s.time ∧ (s.progressOf k e n).ctxs = s.ctxs ∧ (s.progressOf k e n).coords = s.coords ∧
    (s.progressOf k e n).saved = s.saved ∧ (s.progressOf k e n).sqs = s.sqs ∧ (s.progressOf k e n).cqs = s.cqs ∧
    (s.progressOf k e n).ents = s.ents ∧ (s.progressOf k e n).fences = s.fences ∧ (s.progressOf k e n).sems = s.sems ∧
    (s.progressOf k e n).plans = s.plans ∧ (s.progressOf k e n).gfe = s.gfe ∧ (s.progressOf k e n).emit = s.emit ∧
    (s.progressOf k e n).ners = s.ners ∧ (s.progressOf k e n).cores = s.cores ∧ (s.progressOf k e n).seqs = s.seqs ∧
    (s.progressOf k e n).slices = s.slices ∧ (s.progressOf k e n).movers = s.movers ∧ (s.progressOf k e n).tiers = s.tiers ∧
    (s.progressOf k e n).bridges = s.bridges ∧ (s.progressOf k e n).kpms = s.kpms ∧ (s.progressOf k e n).txus = s.txus ∧
    (s.progressOf k e n).ports = s.ports ∧ (s.progressOf k e n).lsu = s.lsu ∧ (s.progressOf k e n).folds = s.folds ∧
    (s.progressOf k e n).parts = s.parts ∧ (s.progressOf k e n).backing = s.backing ∧ (s.progressOf k e n).xlats = s.xlats ∧
    (s.progressOf k e n).sec = s.sec ∧ (s.progressOf k e n).boot = s.boot ∧ (s.progressOf k e n).stewLog = s.stewLog ∧
    (s.progressOf k e n).fmu = s.fmu ∧ (s.progressOf k e n).sage = s.sage ∧ (s.progressOf k e n).pcie = s.pcie ∧
    (s.progressOf k e n).power = s.power ∧ (s.progressOf k e n).dbg = s.dbg ∧ (s.progressOf k e n).freeCtr = s.freeCtr := by
  repeat' constructor

@[simp] theorem State.bump64_frame (s : State) (k off n : Nat) :
    (s.bump64 k off n).pending = s.pending ∧ (s.bump64 k off n).out = s.out ∧ (s.bump64 k off n).mem = s.mem ∧
    (s.bump64 k off n).cb = s.cb ∧ (s.bump64 k off n).poison = s.poison ∧ (s.bump64 k off n).upsets = s.upsets ∧
    (s.bump64 k off n).cwUpsets = s.cwUpsets ∧ (s.bump64 k off n).rf = s.rf ∧ (s.bump64 k off n).holds = s.holds ∧
    (s.bump64 k off n).latches = s.latches ∧ (s.bump64 k off n).hdrs = s.hdrs ∧ (s.bump64 k off n).engProg = s.engProg ∧
    (s.bump64 k off n).latched = s.latched ∧ (s.bump64 k off n).time = s.time ∧ (s.bump64 k off n).ctxs = s.ctxs ∧
    (s.bump64 k off n).coords = s.coords ∧ (s.bump64 k off n).saved = s.saved ∧ (s.bump64 k off n).sqs = s.sqs ∧
    (s.bump64 k off n).cqs = s.cqs ∧ (s.bump64 k off n).ents = s.ents ∧ (s.bump64 k off n).fences = s.fences ∧
    (s.bump64 k off n).sems = s.sems ∧ (s.bump64 k off n).plans = s.plans ∧ (s.bump64 k off n).gfe = s.gfe ∧
    (s.bump64 k off n).emit = s.emit ∧ (s.bump64 k off n).ners = s.ners ∧ (s.bump64 k off n).cores = s.cores ∧
    (s.bump64 k off n).seqs = s.seqs ∧ (s.bump64 k off n).slices = s.slices ∧ (s.bump64 k off n).movers = s.movers ∧
    (s.bump64 k off n).tiers = s.tiers ∧ (s.bump64 k off n).bridges = s.bridges ∧ (s.bump64 k off n).kpms = s.kpms ∧
    (s.bump64 k off n).txus = s.txus ∧ (s.bump64 k off n).ports = s.ports ∧ (s.bump64 k off n).lsu = s.lsu ∧
    (s.bump64 k off n).folds = s.folds ∧ (s.bump64 k off n).parts = s.parts ∧ (s.bump64 k off n).backing = s.backing ∧
    (s.bump64 k off n).xlats = s.xlats ∧ (s.bump64 k off n).sec = s.sec ∧ (s.bump64 k off n).boot = s.boot ∧
    (s.bump64 k off n).stewLog = s.stewLog ∧ (s.bump64 k off n).fmu = s.fmu ∧ (s.bump64 k off n).sage = s.sage ∧
    (s.bump64 k off n).pcie = s.pcie ∧ (s.bump64 k off n).power = s.power ∧ (s.bump64 k off n).dbg = s.dbg ∧
    (s.bump64 k off n).freeCtr = s.freeCtr := by
  repeat' constructor

@[simp] theorem State.bump_frame (s : State) (k off n : Nat) :
    (s.bump k off n).pending = s.pending ∧ (s.bump k off n).out = s.out ∧ (s.bump k off n).mem = s.mem ∧ (s.bump k off n).cb = s.cb ∧
    (s.bump k off n).poison = s.poison ∧ (s.bump k off n).upsets = s.upsets ∧ (s.bump k off n).cwUpsets = s.cwUpsets ∧
    (s.bump k off n).rf = s.rf ∧ (s.bump k off n).holds = s.holds ∧ (s.bump k off n).latches = s.latches ∧
    (s.bump k off n).hdrs = s.hdrs ∧ (s.bump k off n).engProg = s.engProg ∧ (s.bump k off n).latched = s.latched ∧
    (s.bump k off n).time = s.time ∧ (s.bump k off n).ctxs = s.ctxs ∧ (s.bump k off n).coords = s.coords ∧
    (s.bump k off n).saved = s.saved ∧ (s.bump k off n).sqs = s.sqs ∧ (s.bump k off n).cqs = s.cqs ∧ (s.bump k off n).ents = s.ents ∧
    (s.bump k off n).fences = s.fences ∧ (s.bump k off n).sems = s.sems ∧ (s.bump k off n).plans = s.plans ∧
    (s.bump k off n).gfe = s.gfe ∧ (s.bump k off n).emit = s.emit ∧ (s.bump k off n).ners = s.ners ∧ (s.bump k off n).cores = s.cores ∧
    (s.bump k off n).seqs = s.seqs ∧ (s.bump k off n).slices = s.slices ∧ (s.bump k off n).movers = s.movers ∧
    (s.bump k off n).tiers = s.tiers ∧ (s.bump k off n).bridges = s.bridges ∧ (s.bump k off n).kpms = s.kpms ∧
    (s.bump k off n).txus = s.txus ∧ (s.bump k off n).ports = s.ports ∧ (s.bump k off n).lsu = s.lsu ∧
    (s.bump k off n).folds = s.folds ∧ (s.bump k off n).parts = s.parts ∧ (s.bump k off n).backing = s.backing ∧
    (s.bump k off n).xlats = s.xlats ∧ (s.bump k off n).sec = s.sec ∧ (s.bump k off n).boot = s.boot ∧
    (s.bump k off n).stewLog = s.stewLog ∧ (s.bump k off n).fmu = s.fmu ∧ (s.bump k off n).sage = s.sage ∧
    (s.bump k off n).pcie = s.pcie ∧ (s.bump k off n).power = s.power ∧ (s.bump k off n).dbg = s.dbg ∧
    (s.bump k off n).freeCtr = s.freeCtr := by
  repeat' constructor

@[simp] theorem State.bumpHi_frame (s : State) (k off n : Nat) :
    (s.bumpHi k off n).pending = s.pending ∧ (s.bumpHi k off n).out = s.out ∧ (s.bumpHi k off n).mem = s.mem ∧
    (s.bumpHi k off n).cb = s.cb ∧ (s.bumpHi k off n).poison = s.poison ∧ (s.bumpHi k off n).upsets = s.upsets ∧
    (s.bumpHi k off n).cwUpsets = s.cwUpsets ∧ (s.bumpHi k off n).rf = s.rf ∧ (s.bumpHi k off n).holds = s.holds ∧
    (s.bumpHi k off n).latches = s.latches ∧ (s.bumpHi k off n).hdrs = s.hdrs ∧ (s.bumpHi k off n).engProg = s.engProg ∧
    (s.bumpHi k off n).latched = s.latched ∧ (s.bumpHi k off n).time = s.time ∧ (s.bumpHi k off n).ctxs = s.ctxs ∧
    (s.bumpHi k off n).coords = s.coords ∧ (s.bumpHi k off n).saved = s.saved ∧ (s.bumpHi k off n).sqs = s.sqs ∧
    (s.bumpHi k off n).cqs = s.cqs ∧ (s.bumpHi k off n).ents = s.ents ∧ (s.bumpHi k off n).fences = s.fences ∧
    (s.bumpHi k off n).sems = s.sems ∧ (s.bumpHi k off n).plans = s.plans ∧ (s.bumpHi k off n).gfe = s.gfe ∧
    (s.bumpHi k off n).emit = s.emit ∧ (s.bumpHi k off n).ners = s.ners ∧ (s.bumpHi k off n).cores = s.cores ∧
    (s.bumpHi k off n).seqs = s.seqs ∧ (s.bumpHi k off n).slices = s.slices ∧ (s.bumpHi k off n).movers = s.movers ∧
    (s.bumpHi k off n).tiers = s.tiers ∧ (s.bumpHi k off n).bridges = s.bridges ∧ (s.bumpHi k off n).kpms = s.kpms ∧
    (s.bumpHi k off n).txus = s.txus ∧ (s.bumpHi k off n).ports = s.ports ∧ (s.bumpHi k off n).lsu = s.lsu ∧
    (s.bumpHi k off n).folds = s.folds ∧ (s.bumpHi k off n).parts = s.parts ∧ (s.bumpHi k off n).backing = s.backing ∧
    (s.bumpHi k off n).xlats = s.xlats ∧ (s.bumpHi k off n).sec = s.sec ∧ (s.bumpHi k off n).boot = s.boot ∧
    (s.bumpHi k off n).stewLog = s.stewLog ∧ (s.bumpHi k off n).fmu = s.fmu ∧ (s.bumpHi k off n).sage = s.sage ∧
    (s.bumpHi k off n).pcie = s.pcie ∧ (s.bumpHi k off n).power = s.power ∧ (s.bumpHi k off n).dbg = s.dbg ∧
    (s.bumpHi k off n).freeCtr = s.freeCtr := by
  repeat' constructor

@[simp] theorem State.setRg_frame (s : State) (k off : Nat) (v : W64) :
    (s.setRg k off v).pending = s.pending ∧ (s.setRg k off v).out = s.out ∧ (s.setRg k off v).mem = s.mem ∧
    (s.setRg k off v).cb = s.cb ∧ (s.setRg k off v).poison = s.poison ∧ (s.setRg k off v).upsets = s.upsets ∧
    (s.setRg k off v).cwUpsets = s.cwUpsets ∧ (s.setRg k off v).holds = s.holds ∧ (s.setRg k off v).latches = s.latches ∧
    (s.setRg k off v).hdrs = s.hdrs ∧ (s.setRg k off v).engProg = s.engProg ∧ (s.setRg k off v).live = s.live ∧
    (s.setRg k off v).latched = s.latched ∧ (s.setRg k off v).time = s.time ∧ (s.setRg k off v).ctxs = s.ctxs ∧
    (s.setRg k off v).coords = s.coords ∧ (s.setRg k off v).saved = s.saved ∧ (s.setRg k off v).sqs = s.sqs ∧
    (s.setRg k off v).cqs = s.cqs ∧ (s.setRg k off v).ents = s.ents ∧ (s.setRg k off v).fences = s.fences ∧
    (s.setRg k off v).sems = s.sems ∧ (s.setRg k off v).plans = s.plans ∧ (s.setRg k off v).gfe = s.gfe ∧
    (s.setRg k off v).emit = s.emit ∧ (s.setRg k off v).ners = s.ners ∧ (s.setRg k off v).cores = s.cores ∧
    (s.setRg k off v).seqs = s.seqs ∧ (s.setRg k off v).slices = s.slices ∧ (s.setRg k off v).movers = s.movers ∧
    (s.setRg k off v).tiers = s.tiers ∧ (s.setRg k off v).bridges = s.bridges ∧ (s.setRg k off v).kpms = s.kpms ∧
    (s.setRg k off v).txus = s.txus ∧ (s.setRg k off v).ports = s.ports ∧ (s.setRg k off v).lsu = s.lsu ∧
    (s.setRg k off v).folds = s.folds ∧ (s.setRg k off v).parts = s.parts ∧ (s.setRg k off v).backing = s.backing ∧
    (s.setRg k off v).xlats = s.xlats ∧ (s.setRg k off v).sec = s.sec ∧ (s.setRg k off v).boot = s.boot ∧
    (s.setRg k off v).stewLog = s.stewLog ∧ (s.setRg k off v).fmu = s.fmu ∧ (s.setRg k off v).sage = s.sage ∧
    (s.setRg k off v).pcie = s.pcie ∧ (s.setRg k off v).power = s.power ∧ (s.setRg k off v).dbg = s.dbg ∧
    (s.setRg k off v).freeCtr = s.freeCtr := by
  repeat' constructor

@[simp] theorem State.send_frame (s : State) (m : Msg) :
    (s.send m).pending = s.pending ∧ (s.send m).mem = s.mem ∧ (s.send m).cb = s.cb ∧ (s.send m).poison = s.poison ∧
    (s.send m).upsets = s.upsets ∧ (s.send m).cwUpsets = s.cwUpsets ∧ (s.send m).rf = s.rf ∧ (s.send m).holds = s.holds ∧
    (s.send m).latches = s.latches ∧ (s.send m).hdrs = s.hdrs ∧ (s.send m).engProg = s.engProg ∧ (s.send m).live = s.live ∧
    (s.send m).latched = s.latched ∧ (s.send m).time = s.time ∧ (s.send m).ctxs = s.ctxs ∧ (s.send m).coords = s.coords ∧
    (s.send m).saved = s.saved ∧ (s.send m).sqs = s.sqs ∧ (s.send m).cqs = s.cqs ∧ (s.send m).ents = s.ents ∧
    (s.send m).fences = s.fences ∧ (s.send m).sems = s.sems ∧ (s.send m).plans = s.plans ∧ (s.send m).gfe = s.gfe ∧
    (s.send m).emit = s.emit ∧ (s.send m).ners = s.ners ∧ (s.send m).cores = s.cores ∧ (s.send m).seqs = s.seqs ∧
    (s.send m).slices = s.slices ∧ (s.send m).movers = s.movers ∧ (s.send m).tiers = s.tiers ∧ (s.send m).bridges = s.bridges ∧
    (s.send m).kpms = s.kpms ∧ (s.send m).txus = s.txus ∧ (s.send m).ports = s.ports ∧ (s.send m).lsu = s.lsu ∧
    (s.send m).folds = s.folds ∧ (s.send m).parts = s.parts ∧ (s.send m).backing = s.backing ∧ (s.send m).xlats = s.xlats ∧
    (s.send m).sec = s.sec ∧ (s.send m).boot = s.boot ∧ (s.send m).stewLog = s.stewLog ∧ (s.send m).fmu = s.fmu ∧
    (s.send m).sage = s.sage ∧ (s.send m).pcie = s.pcie ∧ (s.send m).power = s.power ∧ (s.send m).dbg = s.dbg ∧
    (s.send m).freeCtr = s.freeCtr := by
  repeat' constructor

@[simp] theorem State.latch_frame (s : State) (p : Nat → Bool) :
    (s.latch p).pending = s.pending ∧ (s.latch p).out = s.out ∧ (s.latch p).mem = s.mem ∧ (s.latch p).cb = s.cb ∧
    (s.latch p).poison = s.poison ∧ (s.latch p).upsets = s.upsets ∧ (s.latch p).cwUpsets = s.cwUpsets ∧ (s.latch p).rf = s.rf ∧
    (s.latch p).holds = s.holds ∧ (s.latch p).latches = s.latches ∧ (s.latch p).hdrs = s.hdrs ∧ (s.latch p).engProg = s.engProg ∧
    (s.latch p).time = s.time ∧ (s.latch p).ctxs = s.ctxs ∧ (s.latch p).coords = s.coords ∧ (s.latch p).saved = s.saved ∧
    (s.latch p).sqs = s.sqs ∧ (s.latch p).cqs = s.cqs ∧ (s.latch p).ents = s.ents ∧ (s.latch p).fences = s.fences ∧
    (s.latch p).sems = s.sems ∧ (s.latch p).plans = s.plans ∧ (s.latch p).gfe = s.gfe ∧ (s.latch p).emit = s.emit ∧
    (s.latch p).ners = s.ners ∧ (s.latch p).cores = s.cores ∧ (s.latch p).seqs = s.seqs ∧ (s.latch p).slices = s.slices ∧
    (s.latch p).movers = s.movers ∧ (s.latch p).tiers = s.tiers ∧ (s.latch p).bridges = s.bridges ∧ (s.latch p).kpms = s.kpms ∧
    (s.latch p).txus = s.txus ∧ (s.latch p).ports = s.ports ∧ (s.latch p).lsu = s.lsu ∧ (s.latch p).folds = s.folds ∧
    (s.latch p).parts = s.parts ∧ (s.latch p).backing = s.backing ∧ (s.latch p).xlats = s.xlats ∧ (s.latch p).sec = s.sec ∧
    (s.latch p).boot = s.boot ∧ (s.latch p).stewLog = s.stewLog ∧ (s.latch p).fmu = s.fmu ∧ (s.latch p).sage = s.sage ∧
    (s.latch p).pcie = s.pcie ∧ (s.latch p).power = s.power ∧ (s.latch p).dbg = s.dbg ∧ (s.latch p).freeCtr = s.freeCtr := by
  repeat' constructor

@[simp] theorem State.bumpEv_frame (s : State) (k off n : Nat) :
    (s.bumpEv k off n).pending = s.pending ∧ (s.bumpEv k off n).out = s.out ∧ (s.bumpEv k off n).mem = s.mem ∧
    (s.bumpEv k off n).cb = s.cb ∧ (s.bumpEv k off n).poison = s.poison ∧ (s.bumpEv k off n).upsets = s.upsets ∧
    (s.bumpEv k off n).cwUpsets = s.cwUpsets ∧ (s.bumpEv k off n).rf = s.rf ∧ (s.bumpEv k off n).holds = s.holds ∧
    (s.bumpEv k off n).latches = s.latches ∧ (s.bumpEv k off n).hdrs = s.hdrs ∧ (s.bumpEv k off n).engProg = s.engProg ∧
    (s.bumpEv k off n).latched = s.latched ∧ (s.bumpEv k off n).time = s.time ∧ (s.bumpEv k off n).ctxs = s.ctxs ∧
    (s.bumpEv k off n).coords = s.coords ∧ (s.bumpEv k off n).saved = s.saved ∧ (s.bumpEv k off n).sqs = s.sqs ∧
    (s.bumpEv k off n).cqs = s.cqs ∧ (s.bumpEv k off n).ents = s.ents ∧ (s.bumpEv k off n).fences = s.fences ∧
    (s.bumpEv k off n).sems = s.sems ∧ (s.bumpEv k off n).plans = s.plans ∧ (s.bumpEv k off n).gfe = s.gfe ∧
    (s.bumpEv k off n).emit = s.emit ∧ (s.bumpEv k off n).ners = s.ners ∧ (s.bumpEv k off n).cores = s.cores ∧
    (s.bumpEv k off n).seqs = s.seqs ∧ (s.bumpEv k off n).slices = s.slices ∧ (s.bumpEv k off n).movers = s.movers ∧
    (s.bumpEv k off n).tiers = s.tiers ∧ (s.bumpEv k off n).bridges = s.bridges ∧ (s.bumpEv k off n).kpms = s.kpms ∧
    (s.bumpEv k off n).txus = s.txus ∧ (s.bumpEv k off n).ports = s.ports ∧ (s.bumpEv k off n).lsu = s.lsu ∧
    (s.bumpEv k off n).folds = s.folds ∧ (s.bumpEv k off n).parts = s.parts ∧ (s.bumpEv k off n).backing = s.backing ∧
    (s.bumpEv k off n).xlats = s.xlats ∧ (s.bumpEv k off n).sec = s.sec ∧ (s.bumpEv k off n).boot = s.boot ∧
    (s.bumpEv k off n).stewLog = s.stewLog ∧ (s.bumpEv k off n).fmu = s.fmu ∧ (s.bumpEv k off n).sage = s.sage ∧
    (s.bumpEv k off n).pcie = s.pcie ∧ (s.bumpEv k off n).power = s.power ∧ (s.bumpEv k off n).dbg = s.dbg ∧
    (s.bumpEv k off n).freeCtr = s.freeCtr := by unfold State.bumpEv; split <;> simp

@[simp] theorem State.bumpEvHi_frame (s : State) (k off n : Nat) :
    (s.bumpEvHi k off n).pending = s.pending ∧ (s.bumpEvHi k off n).out = s.out ∧ (s.bumpEvHi k off n).mem = s.mem ∧
    (s.bumpEvHi k off n).cb = s.cb ∧ (s.bumpEvHi k off n).poison = s.poison ∧ (s.bumpEvHi k off n).upsets = s.upsets ∧
    (s.bumpEvHi k off n).cwUpsets = s.cwUpsets ∧ (s.bumpEvHi k off n).rf = s.rf ∧ (s.bumpEvHi k off n).holds = s.holds ∧
    (s.bumpEvHi k off n).latches = s.latches ∧ (s.bumpEvHi k off n).hdrs = s.hdrs ∧ (s.bumpEvHi k off n).engProg = s.engProg ∧
    (s.bumpEvHi k off n).latched = s.latched ∧ (s.bumpEvHi k off n).time = s.time ∧ (s.bumpEvHi k off n).ctxs = s.ctxs ∧
    (s.bumpEvHi k off n).coords = s.coords ∧ (s.bumpEvHi k off n).saved = s.saved ∧ (s.bumpEvHi k off n).sqs = s.sqs ∧
    (s.bumpEvHi k off n).cqs = s.cqs ∧ (s.bumpEvHi k off n).ents = s.ents ∧ (s.bumpEvHi k off n).fences = s.fences ∧
    (s.bumpEvHi k off n).sems = s.sems ∧ (s.bumpEvHi k off n).plans = s.plans ∧ (s.bumpEvHi k off n).gfe = s.gfe ∧
    (s.bumpEvHi k off n).emit = s.emit ∧ (s.bumpEvHi k off n).ners = s.ners ∧ (s.bumpEvHi k off n).cores = s.cores ∧
    (s.bumpEvHi k off n).seqs = s.seqs ∧ (s.bumpEvHi k off n).slices = s.slices ∧ (s.bumpEvHi k off n).movers = s.movers ∧
    (s.bumpEvHi k off n).tiers = s.tiers ∧ (s.bumpEvHi k off n).bridges = s.bridges ∧ (s.bumpEvHi k off n).kpms = s.kpms ∧
    (s.bumpEvHi k off n).txus = s.txus ∧ (s.bumpEvHi k off n).ports = s.ports ∧ (s.bumpEvHi k off n).lsu = s.lsu ∧
    (s.bumpEvHi k off n).folds = s.folds ∧ (s.bumpEvHi k off n).parts = s.parts ∧ (s.bumpEvHi k off n).backing = s.backing ∧
    (s.bumpEvHi k off n).xlats = s.xlats ∧ (s.bumpEvHi k off n).sec = s.sec ∧ (s.bumpEvHi k off n).boot = s.boot ∧
    (s.bumpEvHi k off n).stewLog = s.stewLog ∧ (s.bumpEvHi k off n).fmu = s.fmu ∧ (s.bumpEvHi k off n).sage = s.sage ∧
    (s.bumpEvHi k off n).pcie = s.pcie ∧ (s.bumpEvHi k off n).power = s.power ∧ (s.bumpEvHi k off n).dbg = s.dbg ∧
    (s.bumpEvHi k off n).freeCtr = s.freeCtr := by unfold State.bumpEvHi; split <;> simp

@[simp] theorem State.translate_frame (s : State) (fn : Fn) (a n : Nat) :
    (s.translate fn a n).pending = s.pending ∧ (s.translate fn a n).out = s.out ∧ (s.translate fn a n).mem = s.mem ∧
    (s.translate fn a n).cb = s.cb ∧ (s.translate fn a n).poison = s.poison ∧ (s.translate fn a n).upsets = s.upsets ∧
    (s.translate fn a n).cwUpsets = s.cwUpsets ∧ (s.translate fn a n).rf = s.rf ∧ (s.translate fn a n).holds = s.holds ∧
    (s.translate fn a n).latches = s.latches ∧ (s.translate fn a n).hdrs = s.hdrs ∧ (s.translate fn a n).engProg = s.engProg ∧
    (s.translate fn a n).latched = s.latched ∧ (s.translate fn a n).time = s.time ∧ (s.translate fn a n).ctxs = s.ctxs ∧
    (s.translate fn a n).coords = s.coords ∧ (s.translate fn a n).saved = s.saved ∧ (s.translate fn a n).sqs = s.sqs ∧
    (s.translate fn a n).cqs = s.cqs ∧ (s.translate fn a n).ents = s.ents ∧ (s.translate fn a n).fences = s.fences ∧
    (s.translate fn a n).sems = s.sems ∧ (s.translate fn a n).plans = s.plans ∧ (s.translate fn a n).gfe = s.gfe ∧
    (s.translate fn a n).emit = s.emit ∧ (s.translate fn a n).ners = s.ners ∧ (s.translate fn a n).cores = s.cores ∧
    (s.translate fn a n).seqs = s.seqs ∧ (s.translate fn a n).slices = s.slices ∧ (s.translate fn a n).movers = s.movers ∧
    (s.translate fn a n).tiers = s.tiers ∧ (s.translate fn a n).bridges = s.bridges ∧ (s.translate fn a n).kpms = s.kpms ∧
    (s.translate fn a n).txus = s.txus ∧ (s.translate fn a n).ports = s.ports ∧ (s.translate fn a n).lsu = s.lsu ∧
    (s.translate fn a n).folds = s.folds ∧ (s.translate fn a n).parts = s.parts ∧ (s.translate fn a n).backing = s.backing ∧
    (s.translate fn a n).xlats = s.xlats ∧ (s.translate fn a n).sec = s.sec ∧ (s.translate fn a n).boot = s.boot ∧
    (s.translate fn a n).stewLog = s.stewLog ∧ (s.translate fn a n).fmu = s.fmu ∧ (s.translate fn a n).sage = s.sage ∧
    (s.translate fn a n).power = s.power ∧ (s.translate fn a n).dbg = s.dbg ∧ (s.translate fn a n).freeCtr = s.freeCtr := by unfold State.translate; dsimp only; split <;> simp

@[simp] theorem State.hostGet_frame (s : State) (fn : Fn) (a n : Nat) :
    (s.hostGet fn a n).pending = s.pending ∧ (s.hostGet fn a n).out = s.out ∧ (s.hostGet fn a n).mem = s.mem ∧
    (s.hostGet fn a n).cb = s.cb ∧ (s.hostGet fn a n).poison = s.poison ∧ (s.hostGet fn a n).upsets = s.upsets ∧
    (s.hostGet fn a n).cwUpsets = s.cwUpsets ∧ (s.hostGet fn a n).rf = s.rf ∧ (s.hostGet fn a n).holds = s.holds ∧
    (s.hostGet fn a n).latches = s.latches ∧ (s.hostGet fn a n).hdrs = s.hdrs ∧ (s.hostGet fn a n).engProg = s.engProg ∧
    (s.hostGet fn a n).latched = s.latched ∧ (s.hostGet fn a n).time = s.time ∧ (s.hostGet fn a n).ctxs = s.ctxs ∧
    (s.hostGet fn a n).coords = s.coords ∧ (s.hostGet fn a n).saved = s.saved ∧ (s.hostGet fn a n).sqs = s.sqs ∧
    (s.hostGet fn a n).cqs = s.cqs ∧ (s.hostGet fn a n).ents = s.ents ∧ (s.hostGet fn a n).fences = s.fences ∧
    (s.hostGet fn a n).sems = s.sems ∧ (s.hostGet fn a n).plans = s.plans ∧ (s.hostGet fn a n).gfe = s.gfe ∧
    (s.hostGet fn a n).emit = s.emit ∧ (s.hostGet fn a n).ners = s.ners ∧ (s.hostGet fn a n).cores = s.cores ∧
    (s.hostGet fn a n).seqs = s.seqs ∧ (s.hostGet fn a n).slices = s.slices ∧ (s.hostGet fn a n).movers = s.movers ∧
    (s.hostGet fn a n).tiers = s.tiers ∧ (s.hostGet fn a n).bridges = s.bridges ∧ (s.hostGet fn a n).kpms = s.kpms ∧
    (s.hostGet fn a n).txus = s.txus ∧ (s.hostGet fn a n).ports = s.ports ∧ (s.hostGet fn a n).lsu = s.lsu ∧
    (s.hostGet fn a n).folds = s.folds ∧ (s.hostGet fn a n).parts = s.parts ∧ (s.hostGet fn a n).backing = s.backing ∧
    (s.hostGet fn a n).xlats = s.xlats ∧ (s.hostGet fn a n).sec = s.sec ∧ (s.hostGet fn a n).boot = s.boot ∧
    (s.hostGet fn a n).stewLog = s.stewLog ∧ (s.hostGet fn a n).fmu = s.fmu ∧ (s.hostGet fn a n).sage = s.sage ∧
    (s.hostGet fn a n).power = s.power ∧ (s.hostGet fn a n).dbg = s.dbg ∧ (s.hostGet fn a n).freeCtr = s.freeCtr := by simp [State.hostGet]

@[simp] theorem State.hostIssue_frame (s : State) (fn : Fn) (a : Nat) (b : Bytes) (r : Bool) :
    (s.hostIssue fn a b r).pending = s.pending ∧ (s.hostIssue fn a b r).mem = s.mem ∧ (s.hostIssue fn a b r).cb = s.cb ∧
    (s.hostIssue fn a b r).poison = s.poison ∧ (s.hostIssue fn a b r).upsets = s.upsets ∧ (s.hostIssue fn a b r).cwUpsets = s.cwUpsets ∧
    (s.hostIssue fn a b r).rf = s.rf ∧ (s.hostIssue fn a b r).holds = s.holds ∧ (s.hostIssue fn a b r).latches = s.latches ∧
    (s.hostIssue fn a b r).hdrs = s.hdrs ∧ (s.hostIssue fn a b r).engProg = s.engProg ∧ (s.hostIssue fn a b r).latched = s.latched ∧
    (s.hostIssue fn a b r).time = s.time ∧ (s.hostIssue fn a b r).ctxs = s.ctxs ∧ (s.hostIssue fn a b r).coords = s.coords ∧
    (s.hostIssue fn a b r).saved = s.saved ∧ (s.hostIssue fn a b r).sqs = s.sqs ∧ (s.hostIssue fn a b r).cqs = s.cqs ∧
    (s.hostIssue fn a b r).ents = s.ents ∧ (s.hostIssue fn a b r).fences = s.fences ∧ (s.hostIssue fn a b r).sems = s.sems ∧
    (s.hostIssue fn a b r).plans = s.plans ∧ (s.hostIssue fn a b r).gfe = s.gfe ∧ (s.hostIssue fn a b r).emit = s.emit ∧
    (s.hostIssue fn a b r).ners = s.ners ∧ (s.hostIssue fn a b r).cores = s.cores ∧ (s.hostIssue fn a b r).seqs = s.seqs ∧
    (s.hostIssue fn a b r).slices = s.slices ∧ (s.hostIssue fn a b r).movers = s.movers ∧ (s.hostIssue fn a b r).tiers = s.tiers ∧
    (s.hostIssue fn a b r).bridges = s.bridges ∧ (s.hostIssue fn a b r).kpms = s.kpms ∧ (s.hostIssue fn a b r).txus = s.txus ∧
    (s.hostIssue fn a b r).ports = s.ports ∧ (s.hostIssue fn a b r).lsu = s.lsu ∧ (s.hostIssue fn a b r).folds = s.folds ∧
    (s.hostIssue fn a b r).parts = s.parts ∧ (s.hostIssue fn a b r).backing = s.backing ∧ (s.hostIssue fn a b r).xlats = s.xlats ∧
    (s.hostIssue fn a b r).sec = s.sec ∧ (s.hostIssue fn a b r).boot = s.boot ∧ (s.hostIssue fn a b r).stewLog = s.stewLog ∧
    (s.hostIssue fn a b r).fmu = s.fmu ∧ (s.hostIssue fn a b r).sage = s.sage ∧ (s.hostIssue fn a b r).power = s.power ∧
    (s.hostIssue fn a b r).dbg = s.dbg ∧ (s.hostIssue fn a b r).freeCtr = s.freeCtr := by unfold State.hostIssue; split <;> simp

@[simp] theorem State.hostWrite_frame (s : State) (fn : Fn) (a : Nat) (b : Bytes) :
    (s.hostWrite fn a b).pending = s.pending ∧ (s.hostWrite fn a b).mem = s.mem ∧ (s.hostWrite fn a b).cb = s.cb ∧
    (s.hostWrite fn a b).poison = s.poison ∧ (s.hostWrite fn a b).upsets = s.upsets ∧ (s.hostWrite fn a b).cwUpsets = s.cwUpsets ∧
    (s.hostWrite fn a b).rf = s.rf ∧ (s.hostWrite fn a b).holds = s.holds ∧ (s.hostWrite fn a b).latches = s.latches ∧
    (s.hostWrite fn a b).hdrs = s.hdrs ∧ (s.hostWrite fn a b).engProg = s.engProg ∧ (s.hostWrite fn a b).latched = s.latched ∧
    (s.hostWrite fn a b).time = s.time ∧ (s.hostWrite fn a b).ctxs = s.ctxs ∧ (s.hostWrite fn a b).coords = s.coords ∧
    (s.hostWrite fn a b).saved = s.saved ∧ (s.hostWrite fn a b).sqs = s.sqs ∧ (s.hostWrite fn a b).cqs = s.cqs ∧
    (s.hostWrite fn a b).ents = s.ents ∧ (s.hostWrite fn a b).fences = s.fences ∧ (s.hostWrite fn a b).sems = s.sems ∧
    (s.hostWrite fn a b).plans = s.plans ∧ (s.hostWrite fn a b).gfe = s.gfe ∧ (s.hostWrite fn a b).emit = s.emit ∧
    (s.hostWrite fn a b).ners = s.ners ∧ (s.hostWrite fn a b).cores = s.cores ∧ (s.hostWrite fn a b).seqs = s.seqs ∧
    (s.hostWrite fn a b).slices = s.slices ∧ (s.hostWrite fn a b).movers = s.movers ∧ (s.hostWrite fn a b).tiers = s.tiers ∧
    (s.hostWrite fn a b).bridges = s.bridges ∧ (s.hostWrite fn a b).kpms = s.kpms ∧ (s.hostWrite fn a b).txus = s.txus ∧
    (s.hostWrite fn a b).ports = s.ports ∧ (s.hostWrite fn a b).lsu = s.lsu ∧ (s.hostWrite fn a b).folds = s.folds ∧
    (s.hostWrite fn a b).parts = s.parts ∧ (s.hostWrite fn a b).backing = s.backing ∧ (s.hostWrite fn a b).xlats = s.xlats ∧
    (s.hostWrite fn a b).sec = s.sec ∧ (s.hostWrite fn a b).boot = s.boot ∧ (s.hostWrite fn a b).stewLog = s.stewLog ∧
    (s.hostWrite fn a b).fmu = s.fmu ∧ (s.hostWrite fn a b).sage = s.sage ∧ (s.hostWrite fn a b).power = s.power ∧
    (s.hostWrite fn a b).dbg = s.dbg ∧ (s.hostWrite fn a b).freeCtr = s.freeCtr := by simp [State.hostWrite]

@[simp] theorem State.msix_frame (s : State) (fn : Fn) (v : Nat) :
    (s.msix fn v).pending = s.pending ∧ (s.msix fn v).mem = s.mem ∧ (s.msix fn v).cb = s.cb ∧ (s.msix fn v).poison = s.poison ∧
    (s.msix fn v).upsets = s.upsets ∧ (s.msix fn v).cwUpsets = s.cwUpsets ∧ (s.msix fn v).rf = s.rf ∧ (s.msix fn v).holds = s.holds ∧
    (s.msix fn v).latches = s.latches ∧ (s.msix fn v).hdrs = s.hdrs ∧ (s.msix fn v).engProg = s.engProg ∧ (s.msix fn v).live = s.live ∧
    (s.msix fn v).latched = s.latched ∧ (s.msix fn v).time = s.time ∧ (s.msix fn v).ctxs = s.ctxs ∧ (s.msix fn v).coords = s.coords ∧
    (s.msix fn v).saved = s.saved ∧ (s.msix fn v).sqs = s.sqs ∧ (s.msix fn v).cqs = s.cqs ∧ (s.msix fn v).ents = s.ents ∧
    (s.msix fn v).fences = s.fences ∧ (s.msix fn v).sems = s.sems ∧ (s.msix fn v).plans = s.plans ∧ (s.msix fn v).gfe = s.gfe ∧
    (s.msix fn v).emit = s.emit ∧ (s.msix fn v).ners = s.ners ∧ (s.msix fn v).cores = s.cores ∧ (s.msix fn v).seqs = s.seqs ∧
    (s.msix fn v).slices = s.slices ∧ (s.msix fn v).movers = s.movers ∧ (s.msix fn v).tiers = s.tiers ∧
    (s.msix fn v).bridges = s.bridges ∧ (s.msix fn v).kpms = s.kpms ∧ (s.msix fn v).txus = s.txus ∧ (s.msix fn v).ports = s.ports ∧
    (s.msix fn v).lsu = s.lsu ∧ (s.msix fn v).folds = s.folds ∧ (s.msix fn v).parts = s.parts ∧ (s.msix fn v).backing = s.backing ∧
    (s.msix fn v).xlats = s.xlats ∧ (s.msix fn v).sec = s.sec ∧ (s.msix fn v).boot = s.boot ∧ (s.msix fn v).stewLog = s.stewLog ∧
    (s.msix fn v).fmu = s.fmu ∧ (s.msix fn v).sage = s.sage ∧ (s.msix fn v).power = s.power ∧ (s.msix fn v).dbg = s.dbg ∧
    (s.msix fn v).freeCtr = s.freeCtr := by unfold State.msix; dsimp only; split <;> simp

@[simp] theorem State.irqUpdate_frame (s : State) (c : Nat) :
    (s.irqUpdate c).pending = s.pending ∧ (s.irqUpdate c).mem = s.mem ∧ (s.irqUpdate c).cb = s.cb ∧ (s.irqUpdate c).poison = s.poison ∧
    (s.irqUpdate c).upsets = s.upsets ∧ (s.irqUpdate c).cwUpsets = s.cwUpsets ∧ (s.irqUpdate c).rf = s.rf ∧
    (s.irqUpdate c).holds = s.holds ∧ (s.irqUpdate c).latches = s.latches ∧ (s.irqUpdate c).hdrs = s.hdrs ∧
    (s.irqUpdate c).engProg = s.engProg ∧ (s.irqUpdate c).live = s.live ∧ (s.irqUpdate c).latched = s.latched ∧
    (s.irqUpdate c).time = s.time ∧ (s.irqUpdate c).ctxs = s.ctxs ∧ (s.irqUpdate c).coords = s.coords ∧
    (s.irqUpdate c).saved = s.saved ∧ (s.irqUpdate c).sqs = s.sqs ∧ (s.irqUpdate c).cqs = s.cqs ∧ (s.irqUpdate c).ents = s.ents ∧
    (s.irqUpdate c).fences = s.fences ∧ (s.irqUpdate c).sems = s.sems ∧ (s.irqUpdate c).plans = s.plans ∧ (s.irqUpdate c).gfe = s.gfe ∧
    (s.irqUpdate c).emit = s.emit ∧ (s.irqUpdate c).ners = s.ners ∧ (s.irqUpdate c).cores = s.cores ∧ (s.irqUpdate c).seqs = s.seqs ∧
    (s.irqUpdate c).slices = s.slices ∧ (s.irqUpdate c).movers = s.movers ∧ (s.irqUpdate c).tiers = s.tiers ∧
    (s.irqUpdate c).bridges = s.bridges ∧ (s.irqUpdate c).kpms = s.kpms ∧ (s.irqUpdate c).txus = s.txus ∧
    (s.irqUpdate c).ports = s.ports ∧ (s.irqUpdate c).lsu = s.lsu ∧ (s.irqUpdate c).folds = s.folds ∧ (s.irqUpdate c).parts = s.parts ∧
    (s.irqUpdate c).backing = s.backing ∧ (s.irqUpdate c).xlats = s.xlats ∧ (s.irqUpdate c).sec = s.sec ∧
    (s.irqUpdate c).boot = s.boot ∧ (s.irqUpdate c).stewLog = s.stewLog ∧ (s.irqUpdate c).fmu = s.fmu ∧ (s.irqUpdate c).sage = s.sage ∧
    (s.irqUpdate c).power = s.power ∧ (s.irqUpdate c).dbg = s.dbg ∧ (s.irqUpdate c).freeCtr = s.freeCtr := by unfold State.irqUpdate; dsimp only; split <;> simp

@[simp] theorem State.modIrq_frame (s : State) (k : Nat) (f : PageHdr → PageHdr) :
    (s.modIrq k f).pending = s.pending ∧ (s.modIrq k f).mem = s.mem ∧ (s.modIrq k f).cb = s.cb ∧ (s.modIrq k f).poison = s.poison ∧
    (s.modIrq k f).upsets = s.upsets ∧ (s.modIrq k f).cwUpsets = s.cwUpsets ∧ (s.modIrq k f).rf = s.rf ∧
    (s.modIrq k f).holds = s.holds ∧ (s.modIrq k f).latches = s.latches ∧ (s.modIrq k f).engProg = s.engProg ∧
    (s.modIrq k f).live = s.live ∧ (s.modIrq k f).latched = s.latched ∧ (s.modIrq k f).time = s.time ∧ (s.modIrq k f).ctxs = s.ctxs ∧
    (s.modIrq k f).coords = s.coords ∧ (s.modIrq k f).saved = s.saved ∧ (s.modIrq k f).sqs = s.sqs ∧ (s.modIrq k f).cqs = s.cqs ∧
    (s.modIrq k f).ents = s.ents ∧ (s.modIrq k f).fences = s.fences ∧ (s.modIrq k f).sems = s.sems ∧ (s.modIrq k f).plans = s.plans ∧
    (s.modIrq k f).gfe = s.gfe ∧ (s.modIrq k f).emit = s.emit ∧ (s.modIrq k f).ners = s.ners ∧ (s.modIrq k f).cores = s.cores ∧
    (s.modIrq k f).seqs = s.seqs ∧ (s.modIrq k f).slices = s.slices ∧ (s.modIrq k f).movers = s.movers ∧
    (s.modIrq k f).tiers = s.tiers ∧ (s.modIrq k f).bridges = s.bridges ∧ (s.modIrq k f).kpms = s.kpms ∧ (s.modIrq k f).txus = s.txus ∧
    (s.modIrq k f).ports = s.ports ∧ (s.modIrq k f).lsu = s.lsu ∧ (s.modIrq k f).folds = s.folds ∧ (s.modIrq k f).parts = s.parts ∧
    (s.modIrq k f).backing = s.backing ∧ (s.modIrq k f).xlats = s.xlats ∧ (s.modIrq k f).sec = s.sec ∧ (s.modIrq k f).boot = s.boot ∧
    (s.modIrq k f).stewLog = s.stewLog ∧ (s.modIrq k f).fmu = s.fmu ∧ (s.modIrq k f).sage = s.sage ∧ (s.modIrq k f).power = s.power ∧
    (s.modIrq k f).dbg = s.dbg ∧ (s.modIrq k f).freeCtr = s.freeCtr := by unfold State.modIrq; split <;> simp

@[simp] theorem State.raise_frame (s : State) (k b : Nat) :
    (s.raise k b).pending = s.pending ∧ (s.raise k b).mem = s.mem ∧ (s.raise k b).cb = s.cb ∧ (s.raise k b).poison = s.poison ∧
    (s.raise k b).upsets = s.upsets ∧ (s.raise k b).cwUpsets = s.cwUpsets ∧ (s.raise k b).rf = s.rf ∧ (s.raise k b).holds = s.holds ∧
    (s.raise k b).latches = s.latches ∧ (s.raise k b).engProg = s.engProg ∧ (s.raise k b).live = s.live ∧
    (s.raise k b).latched = s.latched ∧ (s.raise k b).time = s.time ∧ (s.raise k b).ctxs = s.ctxs ∧ (s.raise k b).coords = s.coords ∧
    (s.raise k b).saved = s.saved ∧ (s.raise k b).sqs = s.sqs ∧ (s.raise k b).cqs = s.cqs ∧ (s.raise k b).ents = s.ents ∧
    (s.raise k b).fences = s.fences ∧ (s.raise k b).sems = s.sems ∧ (s.raise k b).plans = s.plans ∧ (s.raise k b).gfe = s.gfe ∧
    (s.raise k b).emit = s.emit ∧ (s.raise k b).ners = s.ners ∧ (s.raise k b).cores = s.cores ∧ (s.raise k b).seqs = s.seqs ∧
    (s.raise k b).slices = s.slices ∧ (s.raise k b).movers = s.movers ∧ (s.raise k b).tiers = s.tiers ∧
    (s.raise k b).bridges = s.bridges ∧ (s.raise k b).kpms = s.kpms ∧ (s.raise k b).txus = s.txus ∧ (s.raise k b).ports = s.ports ∧
    (s.raise k b).lsu = s.lsu ∧ (s.raise k b).folds = s.folds ∧ (s.raise k b).parts = s.parts ∧ (s.raise k b).backing = s.backing ∧
    (s.raise k b).xlats = s.xlats ∧ (s.raise k b).sec = s.sec ∧ (s.raise k b).boot = s.boot ∧ (s.raise k b).stewLog = s.stewLog ∧
    (s.raise k b).fmu = s.fmu ∧ (s.raise k b).sage = s.sage ∧ (s.raise k b).power = s.power ∧ (s.raise k b).dbg = s.dbg ∧
    (s.raise k b).freeCtr = s.freeCtr := by simp [State.raise]

@[simp] theorem State.hostFault_frame (s : State) (fn : Fn) (a u v : Nat) :
    (s.hostFault fn a u v).pending = s.pending ∧ (s.hostFault fn a u v).mem = s.mem ∧ (s.hostFault fn a u v).cb = s.cb ∧
    (s.hostFault fn a u v).poison = s.poison ∧ (s.hostFault fn a u v).upsets = s.upsets ∧ (s.hostFault fn a u v).cwUpsets = s.cwUpsets ∧
    (s.hostFault fn a u v).rf = s.rf ∧ (s.hostFault fn a u v).holds = s.holds ∧ (s.hostFault fn a u v).latches = s.latches ∧
    (s.hostFault fn a u v).engProg = s.engProg ∧ (s.hostFault fn a u v).latched = s.latched ∧ (s.hostFault fn a u v).time = s.time ∧
    (s.hostFault fn a u v).ctxs = s.ctxs ∧ (s.hostFault fn a u v).coords = s.coords ∧ (s.hostFault fn a u v).saved = s.saved ∧
    (s.hostFault fn a u v).sqs = s.sqs ∧ (s.hostFault fn a u v).cqs = s.cqs ∧ (s.hostFault fn a u v).ents = s.ents ∧
    (s.hostFault fn a u v).fences = s.fences ∧ (s.hostFault fn a u v).sems = s.sems ∧ (s.hostFault fn a u v).plans = s.plans ∧
    (s.hostFault fn a u v).gfe = s.gfe ∧ (s.hostFault fn a u v).emit = s.emit ∧ (s.hostFault fn a u v).ners = s.ners ∧
    (s.hostFault fn a u v).cores = s.cores ∧ (s.hostFault fn a u v).seqs = s.seqs ∧ (s.hostFault fn a u v).slices = s.slices ∧
    (s.hostFault fn a u v).movers = s.movers ∧ (s.hostFault fn a u v).tiers = s.tiers ∧ (s.hostFault fn a u v).bridges = s.bridges ∧
    (s.hostFault fn a u v).kpms = s.kpms ∧ (s.hostFault fn a u v).txus = s.txus ∧ (s.hostFault fn a u v).ports = s.ports ∧
    (s.hostFault fn a u v).lsu = s.lsu ∧ (s.hostFault fn a u v).folds = s.folds ∧ (s.hostFault fn a u v).parts = s.parts ∧
    (s.hostFault fn a u v).backing = s.backing ∧ (s.hostFault fn a u v).xlats = s.xlats ∧ (s.hostFault fn a u v).sec = s.sec ∧
    (s.hostFault fn a u v).boot = s.boot ∧ (s.hostFault fn a u v).stewLog = s.stewLog ∧ (s.hostFault fn a u v).fmu = s.fmu ∧
    (s.hostFault fn a u v).sage = s.sage ∧ (s.hostFault fn a u v).power = s.power ∧ (s.hostFault fn a u v).dbg = s.dbg ∧
    (s.hostFault fn a u v).freeCtr = s.freeCtr := by unfold State.hostFault; dsimp only; repeat' split <;> simp

@[simp] theorem State.attn_frame (s : State) (c : Nat) :
    (s.attn c).pending = s.pending ∧ (s.attn c).out = s.out ∧ (s.attn c).mem = s.mem ∧ (s.attn c).cb = s.cb ∧
    (s.attn c).poison = s.poison ∧ (s.attn c).upsets = s.upsets ∧ (s.attn c).cwUpsets = s.cwUpsets ∧ (s.attn c).rf = s.rf ∧
    (s.attn c).holds = s.holds ∧ (s.attn c).latches = s.latches ∧ (s.attn c).engProg = s.engProg ∧ (s.attn c).live = s.live ∧
    (s.attn c).latched = s.latched ∧ (s.attn c).time = s.time ∧ (s.attn c).ctxs = s.ctxs ∧ (s.attn c).coords = s.coords ∧
    (s.attn c).saved = s.saved ∧ (s.attn c).sqs = s.sqs ∧ (s.attn c).cqs = s.cqs ∧ (s.attn c).ents = s.ents ∧
    (s.attn c).fences = s.fences ∧ (s.attn c).sems = s.sems ∧ (s.attn c).plans = s.plans ∧ (s.attn c).gfe = s.gfe ∧
    (s.attn c).emit = s.emit ∧ (s.attn c).ners = s.ners ∧ (s.attn c).cores = s.cores ∧ (s.attn c).seqs = s.seqs ∧
    (s.attn c).slices = s.slices ∧ (s.attn c).movers = s.movers ∧ (s.attn c).tiers = s.tiers ∧ (s.attn c).bridges = s.bridges ∧
    (s.attn c).kpms = s.kpms ∧ (s.attn c).txus = s.txus ∧ (s.attn c).ports = s.ports ∧ (s.attn c).lsu = s.lsu ∧
    (s.attn c).folds = s.folds ∧ (s.attn c).parts = s.parts ∧ (s.attn c).backing = s.backing ∧ (s.attn c).xlats = s.xlats ∧
    (s.attn c).sec = s.sec ∧ (s.attn c).boot = s.boot ∧ (s.attn c).stewLog = s.stewLog ∧ (s.attn c).fmu = s.fmu ∧
    (s.attn c).sage = s.sage ∧ (s.attn c).pcie = s.pcie ∧ (s.attn c).power = s.power ∧ (s.attn c).freeCtr = s.freeCtr := by unfold State.attn; split <;> simp

@[simp] theorem State.traceAdd_frame (s : State) :
    (s.traceAdd).pending = s.pending ∧ (s.traceAdd).out = s.out ∧ (s.traceAdd).mem = s.mem ∧ (s.traceAdd).cb = s.cb ∧
    (s.traceAdd).poison = s.poison ∧ (s.traceAdd).upsets = s.upsets ∧ (s.traceAdd).cwUpsets = s.cwUpsets ∧ (s.traceAdd).rf = s.rf ∧
    (s.traceAdd).holds = s.holds ∧ (s.traceAdd).latches = s.latches ∧ (s.traceAdd).hdrs = s.hdrs ∧ (s.traceAdd).engProg = s.engProg ∧
    (s.traceAdd).live = s.live ∧ (s.traceAdd).latched = s.latched ∧ (s.traceAdd).time = s.time ∧ (s.traceAdd).ctxs = s.ctxs ∧
    (s.traceAdd).coords = s.coords ∧ (s.traceAdd).saved = s.saved ∧ (s.traceAdd).sqs = s.sqs ∧ (s.traceAdd).cqs = s.cqs ∧
    (s.traceAdd).ents = s.ents ∧ (s.traceAdd).fences = s.fences ∧ (s.traceAdd).sems = s.sems ∧ (s.traceAdd).plans = s.plans ∧
    (s.traceAdd).gfe = s.gfe ∧ (s.traceAdd).emit = s.emit ∧ (s.traceAdd).ners = s.ners ∧ (s.traceAdd).cores = s.cores ∧
    (s.traceAdd).seqs = s.seqs ∧ (s.traceAdd).slices = s.slices ∧ (s.traceAdd).movers = s.movers ∧ (s.traceAdd).tiers = s.tiers ∧
    (s.traceAdd).bridges = s.bridges ∧ (s.traceAdd).kpms = s.kpms ∧ (s.traceAdd).txus = s.txus ∧ (s.traceAdd).ports = s.ports ∧
    (s.traceAdd).lsu = s.lsu ∧ (s.traceAdd).folds = s.folds ∧ (s.traceAdd).parts = s.parts ∧ (s.traceAdd).backing = s.backing ∧
    (s.traceAdd).xlats = s.xlats ∧ (s.traceAdd).sec = s.sec ∧ (s.traceAdd).boot = s.boot ∧ (s.traceAdd).stewLog = s.stewLog ∧
    (s.traceAdd).fmu = s.fmu ∧ (s.traceAdd).sage = s.sage ∧ (s.traceAdd).pcie = s.pcie ∧ (s.traceAdd).power = s.power := by unfold State.traceAdd; dsimp only [State.fresh]; split <;> simp

@[simp] theorem State.trigger_frame (s : State) :
    (s.trigger).pending = s.pending ∧ (s.trigger).mem = s.mem ∧ (s.trigger).cb = s.cb ∧ (s.trigger).poison = s.poison ∧
    (s.trigger).upsets = s.upsets ∧ (s.trigger).cwUpsets = s.cwUpsets ∧ (s.trigger).rf = s.rf ∧ (s.trigger).holds = s.holds ∧
    (s.trigger).latches = s.latches ∧ (s.trigger).engProg = s.engProg ∧ (s.trigger).live = s.live ∧ (s.trigger).latched = s.latched ∧
    (s.trigger).ctxs = s.ctxs ∧ (s.trigger).coords = s.coords ∧ (s.trigger).saved = s.saved ∧ (s.trigger).sqs = s.sqs ∧
    (s.trigger).cqs = s.cqs ∧ (s.trigger).ents = s.ents ∧ (s.trigger).fences = s.fences ∧ (s.trigger).sems = s.sems ∧
    (s.trigger).plans = s.plans ∧ (s.trigger).gfe = s.gfe ∧ (s.trigger).emit = s.emit ∧ (s.trigger).ners = s.ners ∧
    (s.trigger).cores = s.cores ∧ (s.trigger).seqs = s.seqs ∧ (s.trigger).slices = s.slices ∧ (s.trigger).movers = s.movers ∧
    (s.trigger).tiers = s.tiers ∧ (s.trigger).bridges = s.bridges ∧ (s.trigger).kpms = s.kpms ∧ (s.trigger).txus = s.txus ∧
    (s.trigger).ports = s.ports ∧ (s.trigger).lsu = s.lsu ∧ (s.trigger).folds = s.folds ∧ (s.trigger).parts = s.parts ∧
    (s.trigger).backing = s.backing ∧ (s.trigger).xlats = s.xlats ∧ (s.trigger).sec = s.sec ∧ (s.trigger).boot = s.boot ∧
    (s.trigger).stewLog = s.stewLog ∧ (s.trigger).fmu = s.fmu ∧ (s.trigger).sage = s.sage ∧ (s.trigger).pcie = s.pcie ∧
    (s.trigger).power = s.power ∧ (s.trigger).freeCtr = s.freeCtr := by unfold State.trigger; repeat' split <;> simp

@[simp] theorem State.debugEvent_frame (s : State) (c p : Nat) :
    (s.debugEvent c p).pending = s.pending ∧ (s.debugEvent c p).mem = s.mem ∧ (s.debugEvent c p).cb = s.cb ∧
    (s.debugEvent c p).poison = s.poison ∧ (s.debugEvent c p).upsets = s.upsets ∧ (s.debugEvent c p).cwUpsets = s.cwUpsets ∧
    (s.debugEvent c p).rf = s.rf ∧ (s.debugEvent c p).holds = s.holds ∧ (s.debugEvent c p).latches = s.latches ∧
    (s.debugEvent c p).engProg = s.engProg ∧ (s.debugEvent c p).live = s.live ∧ (s.debugEvent c p).latched = s.latched ∧
    (s.debugEvent c p).ctxs = s.ctxs ∧ (s.debugEvent c p).coords = s.coords ∧ (s.debugEvent c p).saved = s.saved ∧
    (s.debugEvent c p).sqs = s.sqs ∧ (s.debugEvent c p).cqs = s.cqs ∧ (s.debugEvent c p).ents = s.ents ∧
    (s.debugEvent c p).fences = s.fences ∧ (s.debugEvent c p).sems = s.sems ∧ (s.debugEvent c p).plans = s.plans ∧
    (s.debugEvent c p).gfe = s.gfe ∧ (s.debugEvent c p).emit = s.emit ∧ (s.debugEvent c p).ners = s.ners ∧
    (s.debugEvent c p).cores = s.cores ∧ (s.debugEvent c p).seqs = s.seqs ∧ (s.debugEvent c p).slices = s.slices ∧
    (s.debugEvent c p).movers = s.movers ∧ (s.debugEvent c p).tiers = s.tiers ∧ (s.debugEvent c p).bridges = s.bridges ∧
    (s.debugEvent c p).kpms = s.kpms ∧ (s.debugEvent c p).txus = s.txus ∧ (s.debugEvent c p).ports = s.ports ∧
    (s.debugEvent c p).lsu = s.lsu ∧ (s.debugEvent c p).folds = s.folds ∧ (s.debugEvent c p).parts = s.parts ∧
    (s.debugEvent c p).backing = s.backing ∧ (s.debugEvent c p).xlats = s.xlats ∧ (s.debugEvent c p).sec = s.sec ∧
    (s.debugEvent c p).boot = s.boot ∧ (s.debugEvent c p).stewLog = s.stewLog ∧ (s.debugEvent c p).fmu = s.fmu ∧
    (s.debugEvent c p).sage = s.sage ∧ (s.debugEvent c p).pcie = s.pcie ∧ (s.debugEvent c p).power = s.power := by unfold State.debugEvent; dsimp only; repeat' split <;> simp

@[simp] theorem State.alertUpdate_frame (s : State) :
    (s.alertUpdate).pending = s.pending ∧ (s.alertUpdate).mem = s.mem ∧ (s.alertUpdate).cb = s.cb ∧ (s.alertUpdate).poison = s.poison ∧
    (s.alertUpdate).upsets = s.upsets ∧ (s.alertUpdate).cwUpsets = s.cwUpsets ∧ (s.alertUpdate).rf = s.rf ∧
    (s.alertUpdate).holds = s.holds ∧ (s.alertUpdate).latches = s.latches ∧ (s.alertUpdate).engProg = s.engProg ∧
    (s.alertUpdate).live = s.live ∧ (s.alertUpdate).latched = s.latched ∧ (s.alertUpdate).time = s.time ∧
    (s.alertUpdate).ctxs = s.ctxs ∧ (s.alertUpdate).coords = s.coords ∧ (s.alertUpdate).saved = s.saved ∧ (s.alertUpdate).sqs = s.sqs ∧
    (s.alertUpdate).cqs = s.cqs ∧ (s.alertUpdate).ents = s.ents ∧ (s.alertUpdate).fences = s.fences ∧ (s.alertUpdate).sems = s.sems ∧
    (s.alertUpdate).plans = s.plans ∧ (s.alertUpdate).gfe = s.gfe ∧ (s.alertUpdate).emit = s.emit ∧ (s.alertUpdate).ners = s.ners ∧
    (s.alertUpdate).cores = s.cores ∧ (s.alertUpdate).seqs = s.seqs ∧ (s.alertUpdate).slices = s.slices ∧
    (s.alertUpdate).movers = s.movers ∧ (s.alertUpdate).tiers = s.tiers ∧ (s.alertUpdate).bridges = s.bridges ∧
    (s.alertUpdate).kpms = s.kpms ∧ (s.alertUpdate).txus = s.txus ∧ (s.alertUpdate).ports = s.ports ∧ (s.alertUpdate).lsu = s.lsu ∧
    (s.alertUpdate).folds = s.folds ∧ (s.alertUpdate).parts = s.parts ∧ (s.alertUpdate).backing = s.backing ∧
    (s.alertUpdate).xlats = s.xlats ∧ (s.alertUpdate).sec = s.sec ∧ (s.alertUpdate).stewLog = s.stewLog ∧ (s.alertUpdate).fmu = s.fmu ∧
    (s.alertUpdate).sage = s.sage ∧ (s.alertUpdate).power = s.power ∧ (s.alertUpdate).dbg = s.dbg ∧ (s.alertUpdate).freeCtr = s.freeCtr := by unfold State.alertUpdate; dsimp only; split <;> simp

@[simp] theorem State.fatalNow_frame (s : State) (c : Nat) :
    (s.fatalNow c).pending = s.pending ∧ (s.fatalNow c).mem = s.mem ∧ (s.fatalNow c).cb = s.cb ∧ (s.fatalNow c).poison = s.poison ∧
    (s.fatalNow c).upsets = s.upsets ∧ (s.fatalNow c).cwUpsets = s.cwUpsets ∧ (s.fatalNow c).rf = s.rf ∧
    (s.fatalNow c).holds = s.holds ∧ (s.fatalNow c).latches = s.latches ∧ (s.fatalNow c).engProg = s.engProg ∧
    (s.fatalNow c).latched = s.latched ∧ (s.fatalNow c).time = s.time ∧ (s.fatalNow c).ctxs = s.ctxs ∧
    (s.fatalNow c).coords = s.coords ∧ (s.fatalNow c).saved = s.saved ∧ (s.fatalNow c).sqs = s.sqs ∧ (s.fatalNow c).cqs = s.cqs ∧
    (s.fatalNow c).ents = s.ents ∧ (s.fatalNow c).fences = s.fences ∧ (s.fatalNow c).sems = s.sems ∧ (s.fatalNow c).plans = s.plans ∧
    (s.fatalNow c).gfe = s.gfe ∧ (s.fatalNow c).emit = s.emit ∧ (s.fatalNow c).ners = s.ners ∧ (s.fatalNow c).cores = s.cores ∧
    (s.fatalNow c).seqs = s.seqs ∧ (s.fatalNow c).slices = s.slices ∧ (s.fatalNow c).movers = s.movers ∧
    (s.fatalNow c).tiers = s.tiers ∧ (s.fatalNow c).bridges = s.bridges ∧ (s.fatalNow c).kpms = s.kpms ∧ (s.fatalNow c).txus = s.txus ∧
    (s.fatalNow c).ports = s.ports ∧ (s.fatalNow c).lsu = s.lsu ∧ (s.fatalNow c).folds = s.folds ∧ (s.fatalNow c).parts = s.parts ∧
    (s.fatalNow c).backing = s.backing ∧ (s.fatalNow c).xlats = s.xlats ∧ (s.fatalNow c).sec = s.sec ∧
    (s.fatalNow c).stewLog = s.stewLog ∧ (s.fatalNow c).fmu = s.fmu ∧ (s.fatalNow c).power = s.power ∧
    (s.fatalNow c).freeCtr = s.freeCtr := by
  unfold State.fatalNow; split
  · simp
  · dsimp only; split <;> simp

@[simp] theorem State.modCtx_ctx_same (s : State) (k : Nat) (f : CtxSt → CtxSt) : (s.modCtx k f).ctx k = f (s.ctx k) := by simp [State.modCtx, State.ctx]
theorem State.modCtx_ctx_other (s : State) (k : Nat) (f : CtxSt → CtxSt) (j : Nat) (h : j ≠ k) : (s.modCtx k f).ctx j = s.ctx j := by
  simp [State.modCtx, State.ctx, Tbl.get_set_other _ _ _ _ _ h]
@[simp] theorem State.modCoord_coord_same (s : State) (k : Nat) (f : CoordSt → CoordSt) : (s.modCoord k f).coord k = f (s.coord k) := by simp [State.modCoord, State.coord]
theorem State.modCoord_coord_other (s : State) (k : Nat) (f : CoordSt → CoordSt) (j : Nat) (h : j ≠ k) : (s.modCoord k f).coord j = s.coord j := by
  simp [State.modCoord, State.coord, Tbl.get_set_other _ _ _ _ _ h]
@[simp] theorem State.modSq_sq_same (s : State) (k : Nat) (f : SqSt → SqSt) : (s.modSq k f).sq k = f (s.sq k) := by simp [State.modSq, State.sq]
theorem State.modSq_sq_other (s : State) (k : Nat) (f : SqSt → SqSt) (j : Nat) (h : j ≠ k) : (s.modSq k f).sq j = s.sq j := by
  simp [State.modSq, State.sq, Tbl.get_set_other _ _ _ _ _ h]
@[simp] theorem State.modCq_cq_same (s : State) (k : Nat) (f : CqSt → CqSt) : (s.modCq k f).cq k = f (s.cq k) := by simp [State.modCq, State.cq]
theorem State.modCq_cq_other (s : State) (k : Nat) (f : CqSt → CqSt) (j : Nat) (h : j ≠ k) : (s.modCq k f).cq j = s.cq j := by
  simp [State.modCq, State.cq, Tbl.get_set_other _ _ _ _ _ h]
@[simp] theorem State.modNer_ner_same (s : State) (k : Nat) (f : NerSt → NerSt) : (s.modNer k f).ner k = f (s.ner k) := by simp [State.modNer, State.ner]
theorem State.modNer_ner_other (s : State) (k : Nat) (f : NerSt → NerSt) (j : Nat) (h : j ≠ k) : (s.modNer k f).ner j = s.ner j := by
  simp [State.modNer, State.ner, Tbl.get_set_other _ _ _ _ _ h]
@[simp] theorem State.modCore_core_same (s : State) (k : Nat) (f : CoreSt → CoreSt) : (s.modCore k f).core k = f (s.core k) := by simp [State.modCore, State.core]
theorem State.modCore_core_other (s : State) (k : Nat) (f : CoreSt → CoreSt) (j : Nat) (h : j ≠ k) : (s.modCore k f).core j = s.core j := by
  simp [State.modCore, State.core, Tbl.get_set_other _ _ _ _ _ h]
@[simp] theorem State.modSeq_seq_same (s : State) (k : Nat) (f : SeqSt → SeqSt) : (s.modSeq k f).seq k = f (s.seq k) := by simp [State.modSeq, State.seq]
theorem State.modSeq_seq_other (s : State) (k : Nat) (f : SeqSt → SeqSt) (j : Nat) (h : j ≠ k) : (s.modSeq k f).seq j = s.seq j := by
  simp [State.modSeq, State.seq, Tbl.get_set_other _ _ _ _ _ h]
@[simp] theorem State.modSlice_slice_same (s : State) (k : Nat) (f : SliceSt → SliceSt) : (s.modSlice k f).slice k = f (s.slice k) := by simp [State.modSlice, State.slice]
theorem State.modSlice_slice_other (s : State) (k : Nat) (f : SliceSt → SliceSt) (j : Nat) (h : j ≠ k) : (s.modSlice k f).slice j = s.slice j := by
  simp [State.modSlice, State.slice, Tbl.get_set_other _ _ _ _ _ h]
@[simp] theorem State.modMover_mover_same (s : State) (k : Nat) (f : MoverSt → MoverSt) : (s.modMover k f).mover k = f (s.mover k) := by simp [State.modMover, State.mover]
theorem State.modMover_mover_other (s : State) (k : Nat) (f : MoverSt → MoverSt) (j : Nat) (h : j ≠ k) : (s.modMover k f).mover j = s.mover j := by
  simp [State.modMover, State.mover, Tbl.get_set_other _ _ _ _ _ h]
@[simp] theorem State.modTier_tier_same (s : State) (k : Nat) (f : TierSt → TierSt) : (s.modTier k f).tier k = f (s.tier k) := by simp [State.modTier, State.tier]
theorem State.modTier_tier_other (s : State) (k : Nat) (f : TierSt → TierSt) (j : Nat) (h : j ≠ k) : (s.modTier k f).tier j = s.tier j := by
  simp [State.modTier, State.tier, Tbl.get_set_other _ _ _ _ _ h]
@[simp] theorem State.modBridge_bridge_same (s : State) (k : Nat) (f : BridgeSt → BridgeSt) : (s.modBridge k f).bridge k = f (s.bridge k) := by simp [State.modBridge, State.bridge]
theorem State.modBridge_bridge_other (s : State) (k : Nat) (f : BridgeSt → BridgeSt) (j : Nat) (h : j ≠ k) : (s.modBridge k f).bridge j = s.bridge j := by
  simp [State.modBridge, State.bridge, Tbl.get_set_other _ _ _ _ _ h]
@[simp] theorem State.modKpm_kpm_same (s : State) (k : Nat) (f : KpmSt → KpmSt) : (s.modKpm k f).kpm k = f (s.kpm k) := by simp [State.modKpm, State.kpm]
theorem State.modKpm_kpm_other (s : State) (k : Nat) (f : KpmSt → KpmSt) (j : Nat) (h : j ≠ k) : (s.modKpm k f).kpm j = s.kpm j := by
  simp [State.modKpm, State.kpm, Tbl.get_set_other _ _ _ _ _ h]
@[simp] theorem State.modTxu_txu_same (s : State) (k : Nat) (f : TxuSt → TxuSt) : (s.modTxu k f).txu k = f (s.txu k) := by simp [State.modTxu, State.txu]
theorem State.modTxu_txu_other (s : State) (k : Nat) (f : TxuSt → TxuSt) (j : Nat) (h : j ≠ k) : (s.modTxu k f).txu j = s.txu j := by
  simp [State.modTxu, State.txu, Tbl.get_set_other _ _ _ _ _ h]
@[simp] theorem State.modPort_port_same (s : State) (k : Nat) (f : PortSt → PortSt) : (s.modPort k f).port k = f (s.port k) := by simp [State.modPort, State.port]
theorem State.modPort_port_other (s : State) (k : Nat) (f : PortSt → PortSt) (j : Nat) (h : j ≠ k) : (s.modPort k f).port j = s.port j := by
  simp [State.modPort, State.port, Tbl.get_set_other _ _ _ _ _ h]
@[simp] theorem State.modFoldE_foldE_same (s : State) (k : Nat) (f : FoldSt → FoldSt) : (s.modFoldE k f).foldE k = f (s.foldE k) := by simp [State.modFoldE, State.foldE]
theorem State.modFoldE_foldE_other (s : State) (k : Nat) (f : FoldSt → FoldSt) (j : Nat) (h : j ≠ k) : (s.modFoldE k f).foldE j = s.foldE j := by
  simp [State.modFoldE, State.foldE, Tbl.get_set_other _ _ _ _ _ h]
@[simp] theorem State.modXlat_xlat_same (s : State) (k : Nat) (f : XlatSt → XlatSt) : (s.modXlat k f).xlat k = f (s.xlat k) := by simp [State.modXlat, State.xlat]
theorem State.modXlat_xlat_other (s : State) (k : Nat) (f : XlatSt → XlatSt) (j : Nat) (h : j ≠ k) : (s.modXlat k f).xlat j = s.xlat j := by
  simp [State.modXlat, State.xlat, Tbl.get_set_other _ _ _ _ _ h]
@[simp] theorem State.modBack_back_same (s : State) (k : Nat) (f : Backing → Backing) : (s.modBack k f).back k = f (s.back k) := by simp [State.modBack, State.back]
theorem State.modBack_back_other (s : State) (k : Nat) (f : Backing → Backing) (j : Nat) (h : j ≠ k) : (s.modBack k f).back j = s.back j := by
  simp [State.modBack, State.back, Tbl.get_set_other _ _ _ _ _ h]
@[simp] theorem State.modHdr_hdr_same (s : State) (k : Nat) (f : PageHdr → PageHdr) : (s.modHdr k f).hdr k = f (s.hdr k) := by simp [State.modHdr, State.hdr]
theorem State.modHdr_hdr_other (s : State) (k : Nat) (f : PageHdr → PageHdr) (j : Nat) (h : j ≠ k) : (s.modHdr k f).hdr j = s.hdr j := by
  simp [State.modHdr, State.hdr, Tbl.get_set_other _ _ _ _ _ h]
@[simp] theorem State.modPart_part_same (s : State) (p : Nat) (f : PartSt → PartSt) : (s.modPart p f).part p = f (s.part p) := by simp [State.modPart, State.part]
theorem State.modPart_part_other (s : State) (p : Nat) (f : PartSt → PartSt) (j : Nat) (h : j ≠ p) : (s.modPart p f).part j = s.part j := by
  simp [State.modPart, State.part, Tbl.get_set_other _ _ _ _ _ h]
@[simp] theorem State.modTime_time (s : State) (f : TimeSt → TimeSt) : (s.modTime f).time = f s.time := rfl
@[simp] theorem State.modGfe_gfe (s : State) (f : GfeSt → GfeSt) : (s.modGfe f).gfe = f s.gfe := rfl
@[simp] theorem State.modEmit_emit (s : State) (f : EmitSt → EmitSt) : (s.modEmit f).emit = f s.emit := rfl
@[simp] theorem State.modSec_sec (s : State) (f : SecSt → SecSt) : (s.modSec f).sec = f s.sec := rfl
@[simp] theorem State.modBoot_boot (s : State) (f : BootSt → BootSt) : (s.modBoot f).boot = f s.boot := rfl
@[simp] theorem State.modFmu_fmu (s : State) (f : FmuSt → FmuSt) : (s.modFmu f).fmu = f s.fmu := rfl
@[simp] theorem State.modSage_sage (s : State) (f : SageSt → SageSt) : (s.modSage f).sage = f s.sage := rfl
@[simp] theorem State.modPcie_pcie (s : State) (f : PcieSt → PcieSt) : (s.modPcie f).pcie = f s.pcie := rfl
@[simp] theorem State.modPower_power (s : State) (f : PowerSt → PowerSt) : (s.modPower f).power = f s.power := rfl
@[simp] theorem State.modDebug_dbg (s : State) (f : DebugSt → DebugSt) : (s.modDebug f).dbg = f s.dbg := rfl
@[simp] theorem State.send_out (s : State) (m : Msg) : (s.send m).out = s.out ++ [m] := rfl
@[simp] theorem State.setRg_rf (s : State) (k off : Nat) (v : W64) : (s.setRg k off v).rf = Tbl.set s.rf (k * 4096 + off) v := rfl
@[simp] theorem State.setRg_rg_same (s : State) (k off : Nat) (v : W64) : (s.setRg k off v).rg k off = v := by simp [State.setRg, State.rg]
theorem State.setRg_rg_other (s : State) (k off j o : Nat) (v : W64) (h : j * 4096 + o ≠ k * 4096 + off) :
    (s.setRg k off v).rg j o = s.rg j o := by
  simp [State.setRg, State.rg, Tbl.get_set_other _ _ _ _ _ h]
@[simp] theorem State.bump64_stat (s : State) (k off n : Nat) : (s.bump64 k off n).stat k off = s.stat k off + BitVec.ofNat 64 n := by
  simp [State.bump64, State.stat]

end Sys2Proof.Machine
end

