-- ==== Sys2Proof/Laws/Pages.lean ====
section
/-! SUPPORT. Laws/Pages.lean: what raising an interrupt, counting an error and counting progress do to the header of a register page. -/

namespace Sys2Proof.Machine

open Sys2Proof

@[simp] theorem bitOf_setBit {n : Nat} (w : BitVec n) (i : Nat) (h : i < n) : bitOf (setBit w i) i = true := by
  unfold bitOf setBit
  rw [BitVec.getLsbD_or, BitVec.getLsbD_ofNat, Nat.testBit_two_pow_self]
  simp only [h, decide_true, Bool.and_self, Bool.or_true]

theorem bitOf_setBit_other {n : Nat} (w : BitVec n) (i j : Nat) (h : i ≠ j) : bitOf (setBit w i) j = bitOf w j := by
  unfold bitOf setBit
  rw [BitVec.getLsbD_or, BitVec.getLsbD_ofNat, Nat.testBit_two_pow_of_ne h]
  simp only [Bool.and_false, Bool.or_false]

@[simp] theorem State.irqUpdate_hdr (s : State) (c k : Nat) : (s.irqUpdate c).hdr k = s.hdr k := by simp [State.hdr]

@[simp] theorem State.modIrq_hdr_same (s : State) (k : Nat) (f : PageHdr → PageHdr) : (s.modIrq k f).hdr k = f (s.hdr k) := by
  unfold State.modIrq; split <;> simp

theorem State.modIrq_hdr_other (s : State) (k : Nat) (f : PageHdr → PageHdr) (j : Nat) (h : j ≠ k) :
    (s.modIrq k f).hdr j = s.hdr j := by
  unfold State.modIrq; split <;> simp [State.modHdr_hdr_other _ _ _ _ h]

@[simp] theorem State.raise_hdr_same (s : State) (k b : Nat) : (s.raise k b).hdr k = { s.hdr k with intStat := setBit (s.hdr k).intStat b } := by
  simp [State.raise]

theorem State.raise_hdr_other (s : State) (k b j : Nat) (h : j ≠ k) : (s.raise k b).hdr j = s.hdr j := by
  simp [State.raise, State.modIrq_hdr_other _ _ _ _ h]

@[simp] theorem State.countErr_hdr_same (s : State) (k : Nat) : (s.countErr k).hdr k = (s.hdr k).count := by simp [State.countErr]

theorem State.countErr_hdr_other (s : State) (k j : Nat) (h : j ≠ k) : (s.countErr k).hdr j = s.hdr j := by
  simp [State.countErr, State.modHdr_hdr_other _ _ _ _ h]

@[simp] theorem State.noteErr_hdr_same (s : State) (k a b : Nat) : (s.noteErr k a b).hdr k = (s.hdr k).count.first a b := by
  simp [State.noteErr]

@[simp] theorem State.progress_hdr_same (s : State) (k n : Nat) :
    (s.progress k n).hdr k = { s.hdr k with progress := (s.hdr k).progress + BitVec.ofNat 64 n } := by simp [State.progress]

end Sys2Proof.Machine
end

