-- ==== Sys2Proof/WellFormed.lean ====
section
/-! DEFINITION. WellFormed.lean: which commands name units that the module has (R1, Tables 1.1, 1.2, 19.1, 20.3, 20.12). A command
that is not well formed names a unit that does not exist: the outside has no way to send it. -/

namespace Sys2Proof

/-- 32 partitions. -/
def partOk (p : Nat) : Bool := decide (p < 32)
/-- 128 cores. -/
def coreOk (k : Nat) : Bool := decide (k < 128)
/-- Eight engines of a core (Table 5.1). -/
def engOk (e : Nat) : Bool := decide (e < 8)
/-- Four arrays of a core. -/
def arrOk (a : Nat) : Bool := decide (a < 4)
/-- Two scalar pipes of a core. -/
def pipeOk (i : Nat) : Bool := decide (i < 2)
/-- Eight tiles. -/
def tileOk (t : Nat) : Bool := decide (t < 8)
/-- 32 clusters. -/
def clusterOk (c : Nat) : Bool := decide (c < 32)
/-- Eight bridges. -/
def bridgeOk (b : Nat) : Bool := decide (b < 8)
/-- Sixteen Elren ports, each with its fold engine. -/
def portOk (e : Nat) : Bool := decide (e < 16)

/-- A function that the module presents (R425). -/
def fnNamed : Fn → Bool
  | .pf => true
  | .vf p => partOk p

/-- A queue of a function: 16 of the PF, 64 of a VF (R444, Table 20.12). -/
def fnqOk : Fn → Nat → Bool
  | .pf, q => decide (q < 16)
  | .vf p, q => partOk p && decide (q < 64)

/-- A tier unit that the module has: 16 near stacks, and two ranks on each of 8 bridges (R142). -/
def unitNamed : TierUnit → Bool
  | .near s => decide (s < 16)
  | .modRank b => bridgeOk b
  | .shelf b => bridgeOk b

/-- Whom Sage samples. -/
def domOk : SageDom → Bool
  | .part p => partOk p
  | .shared => true

/-- A type number of Table 20.3. -/
def pageNamed (p : Page) : Bool := decide (p.typ < 0x66)

/-- The size of a space of a function (Table 19.2); a function has 4 KiB of configuration space. -/
def barSize : Fn → Bar → Nat
  | _, .config => 0x1000
  | .pf, .bar0 => 0x8000000
  | .pf, _ => 0x10000
  | .vf _, .bar0 => 0x100000
  | .vf _, .bar2 => 0x10000
  | .vf _, .bar4 => 0

/-- A register access names a function and falls within one of its spaces; one that is not aligned is a command too, which R425 makes an
Unsupported Request. -/
def accOk (a : RegAcc) : Bool :=
  fnNamed a.fn && decide (a.off < barSize a.fn a.bar)

/-- The command names units that exist. -/
def Instr.wf (i : Instr) : Bool :=
  match i with
  | .timeRoleWrite _ | .timeSet _ | .cadenceFrame _ | .cadenceOutFrame | .timeBeaconSend | .acquiringTimeout | .holdoverEntry
  | .unsyncedEntry | .statusBeaconReceive _ | .decisionReceive _ | .flashAppend | .tierInit | .contractWrite _ | .noticeCq _
  | .widenReq _ | .widenOrder _ | .drained _ _ | .widenResume _ | .lsuFail _ | .lsuCtrl _ | .perstNDeassert _ | .perstNAssert
  | .bootReady | .push _ | .pushWrite _ _ | .stageFlash _ _ | .mbxDone | .rollbackCommit _ | .getVersion | .getCapabilities
  | .negotiateAlgorithms | .getDigests | .getCertificate _ _ _ | .challenge _ | .getMeasurements _ | .keyExchange _ | .finish _ _
  | .keyUpdate _ | .endSession _ | .keySet _ _ _ | .dbgKeySet _ _ | .ideKm _ _ _ | .tokenRecordTap | .edgeNotice | .doorbellTap
  | .launchTap | .timeTap | .fmuSecond | .meterWindowEdge | .recordWrite _ | .setWindow | .register | .unregister | .ringSet
  | .ringAck | .vfRingSet | .setHold | .note | .seal | .preset _ | .dreset _ | .deviceComputeReset | .deviceResetComplete
  | .resetRecordCopy _ | .wdogKick _ | .watchdog | .stewardRestartDone _ | .fatal _ | .dumpDone _ _ | .dumpGo _ | .pfFlr _
  | .irqAck _ | .faultClr _ | .revoke _ | .traceCtrl _ | .traceGo _ | .clkClr _ | .idleReq _ | .idleEntry | .idleExit
  | .powerCap _ _ | .powerControl _ _ | .vinRange _ | .vinShutdown _ | .thermalStage _ | .thermtrip _ | .pwrEnAssert _
  | .pwrEnDeassert | .pldmSensorRead _ | .idcode | .bypass _ | .dbgTrstN | .dbgStatus _ | .grantChunk _ | .grantCommit _
  | .dbgHalt _ | .dbgResume _ | .dbgStep _ | .bpSet _ | .bpClr _ | .memRd _ | .memWr _ | .regRd _ | .regWr _ | .linkChange _ _ _
  | .dumpCopyDone _ => true
  | .timeBeaconReceive port _ | .timeReply port _ | .flitReceive port _ _ _ _ | .linkTraining port _ | .train port _ _ _ _
  | .linkUp port | .trainingTimeout port | .linkDown port _ | .remoteRequest port _ _ | .remoteResponse port _ _ _
  | .elrenEnable port _ | .elrenFence port _ | .forceHalf port _ => portOk port
  | .bind p | .unbind p | .unbindEffect p | .attemptStart p | .statusBeaconSend p _ | .coordinatorDecide p _ | .commitEdge p
  | .repeatEdge p | .abandonEdge p | .coordinatorLost p | .unloadComplete p _ | .deadlockWalk p | .contextSwitch p
  | .layerMark p _ | .drainedSend p | .nerEnable p | .nerDisable p | .nerRearm p | .create p | .teardown p | .teardownDrained p
  | .teardownRelease p | .reenable p | .map p | .unmap p | .protect p | .mapComplete p | .reportRequest p | .reportDone p
  | .lockInterface p | .startInterface p | .stopInterface p | .vfCopyWrite p _ _ | .partitionComputeReset p
  | .partitionResetComplete p | .vfFlr p | .grantExpiry p => partOk p
  | .nop core eng | .recordRetire core eng _ => coreOk core && engOk eng
  | .mm core arr | .tileLoad core arr | .streamedVector core arr _ => coreOk core && arrOk arr
  | .shadowCheck core | .vecElt core | .vecFn core | .vecRed core | .vecTopk core | .vecRand core | .vecConv core
  | .vecResadd core | .vecSample core | .portMover core | .portKpm core | .portTxu core | .portEmit core
  | .recordPlace core _ _ _ | .rcFlush core _ => coreOk core
  | .scRun core pipe | .alu core pipe _ _ _ _ | .addi core pipe _ _ _ | .andi core pipe _ _ _ | .ori core pipe _ _ _
  | .xori core pipe _ _ _ | .shli16 core pipe _ _ _ | .ld core pipe _ _ _ _ | .ldw core pipe _ _ _ _ | .st core pipe _ _ _
  | .stw core pipe _ _ _ | .cld core pipe _ _ _ _ | .cldw core pipe _ _ _ _ | .cst core pipe _ _ _ | .cstw core pipe _ _ _
  | .atom core pipe _ _ _ _ | .beq core pipe _ _ _ | .bne core pipe _ _ _ | .blt core pipe _ _ _ | .bge core pipe _ _ _
  | .jal core pipe _ _ | .jr core pipe _ _ | .waitc core pipe _ _ | .sigc core pipe _ _ | .post core pipe _ _ _
  | .rdsys core pipe _ _ | .fence core pipe _ | .halt core pipe => coreOk core && pipeOk pipe
  | .storeScrub tile _ | .storeAddrClr tile _ | .copy tile _ | .gather tile _ | .scatter tile _ | .transpose tile _
  | .fill tile _ | .scrub tile _ | .migrate tile _ | .descriptorComplete tile _ | .pqTail tile _ | .tierReply tile _
  | .kpmOpen tile _ | .close tile _ | .alloc tile _ | .share tile _ | .free tile _ | .privatize tile _ | .reserve tile _
  | .accept tile _ | .span tile _ | .pin tile _ | .move tile _ | .pattern tile _ | .cowCopyDone tile _ | .kpmOpComplete tile _
  | .poolAdd tile _ | .xlatInval tile _ => tileOk tile
  | .nearBurst u _ _ _ _ _ | .tierScrub u _ | .pprDone u | .retirement u | .retire u _ | .tierAddrClr u _ | .refresh2x u _ => unitNamed u
  | .crumb bridge _ _ _ _ _ _ | .bridgeLinkDown bridge => bridgeOk bridge
  | .load fn q | .unload fn q | .patch fn q | .sqTail fn q _ | .cqHead fn q _ | .trHead fn q _ | .entryFetch fn q _
  | .launchPlace fn q | .signal fn q | .hostCopy fn q _ | .hostCopyComplete fn q _ | .completionEntry fn q _ | .sqEnable fn q
  | .sqDisable fn q | .sqDrained fn q | .sqResume fn q | .sqFlush fn q | .cqEnable fn q | .cqDisable fn q | .rearm fn q _
  | .completionTimeout fn q => fnqOk fn q
  | .dispatchRecord cluster a _ _ _ | .endRecord cluster a _ _ => portOk a.port && clusterOk cluster
  | .slots cluster _ | .dispatch cluster _ | .passDone cluster _
  | .resultRecord cluster _ _ _ => clusterOk cluster
  | .foldEntryStart engine p | .grant engine p _ _ | .foldEntryComplete engine p => portOk engine && partOk p
  | .up engine _ | .down engine _ | .bcast engine _ => portOk engine
  | .translationWalk tile p _ _ _ => tileOk tile && partOk p
  | .sageSample d => domOk d
  | .atsInvalidate fn _ | .busMasterEnable fn _ _ | .msixUnmask fn _ => fnNamed fn
  | .creset pg | .clrErr pg | .freeze pg _ | .intStat pg _ | .intSet pg _ => pageNamed pg
  | .registerWrite acc => accOk acc

end Sys2Proof
end

