-- ==== Sys2Proof/Tests/Slice0.lean ====
section
/-! SUPPORT. Tests/Slice0.lean: the well-formedness smoke test, worked examples of the spec with the spec's own numbers, and for each
statement one theorem that shows states and operands meeting the hypotheses of its clauses. Where a hypothesis rests on a constant of
Config without a body (an image's records, an Ed448 signature that verifies) the theorem takes what that constant says as a premise; a
debug grant that verifies has no witness. -/

namespace Sys2Proof.Tests

set_option linter.unusedVariables false
set_option Elab.async false

open Sys2Proof Sys2Proof.Machine

/-! ### Ill-formed commands -/

/-- One command for each check of WellFormed, which refuses it. -/
theorem test_wf_refuses :
    (Instr.bind 32).wf = false ∧ (Instr.nop 128 0).wf = false ∧ (Instr.nop 0 8).wf = false ∧ (Instr.mm 0 4).wf = false ∧
    (Instr.halt 0 2).wf = false ∧ (Instr.xlatInval 8 0).wf = false ∧ (Instr.slots 32 0).wf = false ∧ (Instr.bridgeLinkDown 8).wf = false ∧
    (Instr.linkUp 16).wf = false ∧ (Instr.atsInvalidate (.vf 32) true).wf = false ∧ (Instr.sqEnable .pf 16).wf = false ∧
    (Instr.sqEnable (.vf 0) 64).wf = false ∧ (Instr.pprDone (.near 16)).wf = false ∧ (Instr.pprDone (.modRank 8)).wf = false ∧
    (Instr.sageSample (.part 32)).wf = false ∧ (Instr.clrErr ⟨0x70, 0⟩).wf = false ∧
    (Instr.registerWrite ⟨.pf, .bar0, 0x8000000, true, 0⟩).wf = false := by
  decide +kernel

theorem test_wf_takes :
    (Instr.bind 31).wf = true ∧ (Instr.nop 127 7).wf = true ∧ (Instr.sqEnable (.vf 31) 63).wf = true ∧
    (Instr.registerWrite ⟨.pf, .bar0, 0x210, true, 0⟩).wf = true := by
  decide +kernel

/-- The table gives its rows no bits, so no word spells a command. -/
theorem test_no_words (nbits w : Nat) : decodeTableWord nbits w = none := rfl

/-! ### States and words of the tests -/

/-- Equality of results that hold a state, decided. -/
def sameRes {ε α : Type} [DecidableEq ε] [DecidableEq α] : Except ε α → Except ε α → Bool
  | .ok a, .ok b => decide (a = b)
  | .error a, .error b => decide (a = b)
  | _, _ => false
theorem sameRes_eq {ε α : Type} [DecidableEq ε] [DecidableEq α] (a b : Except ε α) (h : sameRes a b = true) : a = b := by
  cases a <;> cases b <;> simp_all [sameRes]
theorem samePair_eq {ε α β : Type} [DecidableEq ε] [DecidableEq α] (a b : Except ε α × β) (h : sameRes a.1 b.1 = true) (k : a.2 = b.2) : a = b :=
  Prod.ext (sameRes_eq _ _ h) k
/-- What a result holds. -/
def errOf {α : Type} : Except Flt α → Flt
  | .error x => x
  | .ok _ => ⟨errOk, 0⟩
def okOf {ε α : Type} (d : α) : Except ε α → α
  | .ok x => x
  | .error _ => d
def isErr {ε α : Type} : Except ε α → Bool
  | .error _ => true
  | .ok _ => false
def kOf : Except Flt KRes → State
  | .ok (.done x) => x
  | .ok (.copying x) => x
  | _ => State.reset
def kIs : Except Flt KRes → Nat
  | .ok (.done _) => 1
  | .ok (.copying _) => 2
  | _ => 0
theorem errOf_eq {α : Type} (a : Except Flt α) (h : isErr a = true) : a = .error (errOf a) := by
  cases a <;> simp_all [isErr, errOf]
theorem okOf_eq {ε α : Type} (a : Except ε α) (d : α) (h : isErr a = false) : a = .ok (okOf d a) := by
  cases a <;> simp_all [isErr, okOf]
theorem errPair_eq {α β : Type} (p : Except Flt α × β) (h : isErr p.1 = true) : p = (.error (errOf p.1), p.2) :=
  Prod.ext (errOf_eq _ h) rfl
theorem somePair_eq {α β : Type} (p : Option α × β) (d : α) (h : p.1.isSome = true) : p = (some (p.1.getD d), p.2) := by
  obtain ⟨a, b⟩ := p
  cases a <;> simp_all
theorem pairEta {α β : Type} (p : α × β) : p = (p.1, p.2) := rfl
theorem sentPair_eq (p : ReqRes × State) (h : p.1 = .sent) : p = (.sent, p.2) := Prod.ext h rfl
theorem nonePair_eq {α β : Type} (p : Option α × β) (h : p.1.isNone = true) : p = (none, p.2) := by
  obtain ⟨a, b⟩ := p
  cases a <;> simp_all
/-- A grant for no partition does not pass. -/
theorem grantCheck_part {s : State} {b : Bytes} (h : 32 ≤ fld b 8 1 ∧ fld b 8 1 ≠ 0x80) : s.grantCheck b ≠ 0 := by
  have e : s.grantCheck b = rBAD_GRANT := if_pos (Or.inr (Or.inl h))
  rw [e]
  decide
/-- A request is sent where one port leads to its module and may send. -/
theorem request_sent {s : State} {who : Src} {pipe put part e : Nat} {isRead half : Bool} {dst : W16} {op : RemOp}
    (h : ((setBits (s.routeMask dst.toNat) 16).filter fun e => s.portUp e && !s.portFenced e) = [e]) :
    (s.request who pipe isRead half put part dst op).1 = .sent := by
  simp [State.request, State.routePort, h, Nat.mod_one]
theorem kOf_done (a : Except Flt KRes) (h : kIs a = 1) : a = .ok (.done (kOf a)) := by
  cases a with
  | error e => simp [kIs] at h
  | ok r => cases r <;> simp_all [kIs, kOf]
theorem kOf_copying (a : Except Flt KRes) (h : kIs a = 2) : a = .ok (.copying (kOf a)) := by
  cases a with
  | error e => simp [kIs] at h
  | ok r => cases r <;> simp_all [kIs, kOf]
/-- The conditions of an issue, decided. -/
def issuesB (s : State) (k j use word : Nat) (u : State) : Bool :=
  s.scReady k j && !(s.pipe k j).atBreak && match s.scFetch k j with
    | (.ok w, x) => decide (w &&& use = word &&& use) && decide (x = u)
    | _ => false
theorem issues_intro {s u : State} {k j use word : Nat} (h : issuesB s k j use word u = true) : s.issues k j use word u := by
  unfold issuesB at h
  split at h <;> simp_all [State.issues]

/-- Up; up and READY. -/
def wUp : State := { State.reset with boot := { BootSt.reset with perst := false } }
def wRun : State := { wUp with boot := { wUp.boot with code := 4 } }
/-- An entry of partition 0: a launch placed for step 0 and running. -/
def wEnt : Entry :=
  { uid := 7, fn := .vf 0, sq := 0, cq := 0, part := 0, ctx := 0, raw := 1, idx := 0, launchId := 0, st := .running, step := some 0, bucket := 0,
    planH := 1, start := 0, endT := 0, status := ⟨0, 0⟩, fault := ⟨0, 0⟩, tokens := 0, numEv := 0, repeats := 0, outcome := 0, abSub := 0, noSig := false,
    busy := false, wrFault := false, consts := [] }
/-- Its plan: one bucket, one cluster, slots of 400 µs with 40 µs of allowance. -/
def wPlan : Plan :=
  { handle := 1, part := 0, ctx := 0, image := 0, level := 2, slotUs := 400, allowUs := 40, runAhead := 0, maxDraft := 0, flags := 0, emitMax := 8,
    seed := 0, clusters := 1, storeUnits := 1, variants := [], scales := [], patches := [], buckets := [⟨8, 8, 8, 0, 1, [], [], []⟩], stages := [],
    digest := [], unloading := false, pendPatch := [], steps := [] }
/-- Partition 0 ACTIVE on cluster 0, with 2 MiB of store at address 0 writable, VF 0 enabled. -/
def wPart : PartSt :=
  { PartSt.zero with state := .active, clusters := 1, leaves := [⟨0, 0, 21, 0, 0, 0, true, false⟩] }
/-- Context 0 bound to job 5, of which this module is the coordinator: MAX_REPEAT 3, margin 5 µs. -/
def wJob : State :=
  (({ wRun with
      parts := [(0, wPart)], ents := [wEnt], plans := [wPlan],
      gfe := { GfeSt.reset with planLoaded := true, placedAny := true, nextUid := 8 },
      pcie := { PcieSt.reset with vfEn := 1, bme := [(0, true), (1, true)] },
      time := { TimeSt.reset with now := 1000000, mono := 2000000, lock := .locked },
      seqs := [(0, { SeqSt.zero with launches := [7], placing := true, begun := true })],
      ctxs := [(0, { CtxSt.zero with bound := true, running := true, slotStart := some 800000, firstStart := some 800000, allowUs := 40 })],
      coords := [(0, { CoordSt.zero with open_ := true, slotStart := 800000, slotUs := 400, allowUs := 40, baseUs := 40 })] }).setRg
    pgTIME 0x400 0x3FFFF0005).setRg pgTIME 0x410 5
/-- The same with context 0 changed. -/
def wCtx (f : CtxSt → CtxSt) : State := wJob.modCtx 0 f
def wCoord (f : CoordSt → CoordSt) : State := wJob.modCoord 0 f
/-- Time and registers changed. -/
def atT (n : Nat) (s : State) : State := { s with time := { s.time with now := BitVec.ofNat 64 n } }
def wRole (r : Nat) (l : Lock) : State :=
  ({ wUp with time := { TimeSt.reset with lock := l, mono := 2000000, now := 2000000 } }).setRg pgTIME 0x200 (BitVec.ofNat 64 r)
/-- Port 0 up with credit on every lane. -/
def wPort : PortSt := { PortSt.zero with st := .up, credits := [(0, 64), (1, 64), (2, 64), (3, 64)], linkKeyOk := true, peer := 9 }
def withPort (s : State) : State := { s with ports := [(0, wPort)] }
/-- A message with the fields given. -/
def wMsg (fs : List Fld) : Msg32 := pack 256 fs
/-- A record of an opcode with the fields given; it, queued at an engine of core 0, or started there. -/
def wRec (op : Nat) (fs : List Fld) : Rec := pack 1024 (⟨7, 0, op⟩ :: fs)
/-- The job with one record for core 0 baked at operation 5, next to be placed. -/
def wBaked (r : Rec) : State :=
  { wJob with plans := [{ wPlan with buckets := [⟨8, 8, 8, 0, 1, [], [], [⟨0, 5, r, false⟩]⟩] }] }
def wQ (r : Rec) : QRec := ⟨r, 0, 0, 0, 0, 7⟩
def wQueue (e : Nat) (r : Rec) : State := wJob.setQueue 0 e [wQ r]
def wExec (e : Nat) (x : ExRec) : State := wJob.setExecs 0 e [x]
/-- An operation that array 0 of core 0 has started, at the front of its list. -/
def wExecArr (r : MmRun) (f : ArrSt → ArrSt) : State :=
  (wJob.setExecs 0 0 [⟨r.q, false, none, none, false⟩]).modArr 0 0 fun x => f { x with ops := [r] }
/-- A core buffer operand; a store operand. -/
def cbOp (a : Nat) : Nat := 2 * 2 ^ 62 + a
def vaOp (a : Nat) : Nat := 2 ^ 62 + a
/-- A VEC_SAMPLE with no draft, its context and row of logits zero: what each of its parts answers. -/
def sRec : Rec :=
  wRec 0x27 [bfld 16 8 (cbOp 0), bfld 24 8 (cbOp 1024), bfld 32 8 (cbOp 2048), bfld 40 8 (cbOp 4096), bfld 48 8 (cbOp 8192), bfld 76 4 4, bfld 80 4 1]
def sU : State := (((wQueue 4 sRec).start 0 4 ⟨wQ sRec, false, none, none, false⟩).predOf 0 sRec).2
def sA : Acc := sU.accOf 0 (wQ sRec)
def sC : Except Flt Bytes × State := sU.vread sA (vecOf sRec).srcC 0 96
def sCb : Bytes := match sC.1 with | .ok b => b | .error _ => []
def sR : Except Flt (List (List FVal × List Nat)) × State := sC.2.sampleRows sA (vecOf sRec) ((sampleCtxOf sCb).d + 1)
def sRows : List (List FVal × List Nat) := match sR.1 with | .ok b => b | .error _ => []
def sToks : List Nat × List Nat :=
  let c := sampleCtxOf sCb
  let ys := sRows.zipIdx.map fun x => sampleRow c sA.part x.2 x.1.1 x.1.2
  let n := accepted (ys.map (·.1)) (c.draft.take c.d)
  (c.draft.take n ++ ((ys[n]?).map (·.1)).toList, [n])
def sU4 : State :=
  let c := sampleCtxOf sCb
  let ys := sRows.zipIdx.map fun x => sampleRow c sA.part x.2 x.1.1 x.1.2
  ((sR.2.vecEvents 0 (evsOf ys)).writeOp sA (vecOf sRec).dst 0 (sToks.1.flatMap (leBytes 4))).2
def sU5 : State := (sU4.writeOp sA (vecOf sRec).dst2 0 (leBytes 4 (packNat [⟨4, 0, sToks.1.length⟩, ⟨12, 8, sToks.2.sum⟩]))).2
/-- Pipe 0 of core 0 running at an address whose word is given, with registers. -/
def wSc (w : Nat) (g : Tbl W64) : State :=
  { wJob with
    mem := Memory.write [] 0x100 (leBytes 4 w),
    cores := [(0, { CoreSt.zero with pipes := [(0, { ScPipe.zero with running := true, pc := 0x100, g := g })],
                                     exec := [(5, [⟨wQ (wRec 0x30 []), false, none, none, false⟩])] })] }
def wU (s : State) : State := (s.scFetch 0 0).2
/-- A descriptor of mover 0 from core 0, from the steward, and as a queue entry of tile 0's queue; with the fields given. -/
def wMv (op : Nat) (fs : List Fld) : Desc := pack 512 (bfld 0 1 op :: bfld 4 4 1 :: fs)
def wDesc (raw : Desc) (st : OpSt) : MDesc := ⟨3, .port 0 none, 0, 0, 0, 0, 0, 0, raw, st, none, false, 0, 0, [], [], 0, false⟩
def wMover (d : MDesc) : State := { wJob with movers := [(0, { MoverSt.zero with descs := [d] })] }
/-- SQ 0 and CQ 0 of VF 0, 16 entries each; entries in hand. -/
def wSq (q : SqSt) (c : CqSt) (l : List Entry) : State :=
  ((({ wJob with ents := l, sqs := [(64, q)], cqs := [(64, c)] }).setRg (pk tVFSQ 0) 0x208 16).setRg (pk tVFCQ 0) 0x208 16).setRg
    (pk tVFCQ 0) 0x218 16
def wQN : SqSt := ⟨.normal, false, 1, 0, 0⟩
def wCqN : CqSt := { CqSt.zero with enabled := true }
def wFetched (raw : Desc) : Entry := { wEnt with st := .fetched, step := none, planH := 0, raw := raw }
/-- A fetched entry at the head of SQ 0. -/
def wHead (raw : Desc) : State := wSq wQN wCqN [wFetched raw]
/-- Stream 1 of partition 0 on KPM 0: pages of 8 positions, one head of 64, a ring of 64 entries; its page 0 in descriptor 0. -/
def wStream : KStream :=
  { id := 1, part := 0, ctx := 0, recVa := 0x1000, closing := false, fmt := 0, geom := 3, headsM1 := 0, headDim := 64, commit := 8, staged := 0,
    ringLog2 := 6, pattern := 0, ringBase := 0x2000, basePos := 0, wUnits := 0, globalBase := 0, ring := [(0, 0)], globals := [], resvs := [],
    cow := none, closePins := [] }
def wKd (refc : Nat) : KDesc := ⟨0x100000, 0, 8, refc, 0, none, 0, 3, 0, false⟩
/-- An operation of KPM 0. -/
def wKRaw (op pos n : Nat) (fs : List Fld) : Desc := pack 512 (bfld 0 1 op :: bfld 4 4 1 :: bfld 8 6 pos :: bfld 14 2 n :: fs)
def wKop (raw : Desc) : KOp := ⟨2, .port 0 none, 0, 0, 0, 0, 0, 0, 0, raw, .accepted, none, false, [], false⟩
def wKpm (k : List KStream) (refc : Nat) (o : KOp) : State :=
  ({ wJob with kpms := [(0, { KpmSt.zero with
      parts := [(0, { KpmPart.zero with descs := [(0, wKd refc)], nextD := 1, free := [(0, [0x110000, 0x120000]), (1, [0x130000])] })],
      streams := k, ops := [o] })] }.setRg (pgKPM 0) (kpmBank 0 0) 0x10000).setRg (pgKPM 0) (kpmBank 0 1) 16
/-- An operation of TXU 0; the TXU holding it, changed. -/
def wTop (raw : Desc) : TOp := ⟨0, 0, none, 0, 0, 0, 0, 0, raw, .accepted, 0, 0⟩
/-- With a module ID. -/
def withId (n : Nat) (s : State) : State := s.setRg (pgEl 0) 0x318 (BitVec.ofNat 64 n)
def wTxu (o : TOp) (f : TxuSt → TxuSt) : State := (withId 0 wJob).modTxu 0 fun t => f { t with ops := [o], nextId := 1 }
def wSlotRaw (cap : Nat) : BitVec 256 := pack 256 [bfld 2 2 cap, bfld 8 8 (vaOp 0x2000), bfld 16 8 (vaOp 0x3000)]
/-- A stage of one slot with the passes given. -/
def wStage (cap : Nat) (p : List Pass) : TStage := ⟨0, 0, 0, some 0, 1, [⟨wSlotRaw cap, p, []⟩], [], []⟩
def wTslots : Desc := pack 512 [bfld 0 1 1, bfld 4 4 1, bfld 8 8 (vaOp 0x1000), bfld 56 4 1]
def wTdisp : Desc :=
  pack 512 [bfld 0 1 2, bfld 4 4 1, bfld 8 8 (vaOp 0x1000), bfld 16 8 (vaOp 0x1100), bfld 24 8 (vaOp 0x1200), bfld 32 8 (vaOp 0x1300),
    bfld 40 8 (vaOp 0x1400), bfld 48 2 15, bfld 50 1 1, bfld 60 4 1]
def wTpass : Desc := pack 512 [bfld 0 1 3, bfld 4 4 1, bfld 48 2 15]
/-- Bytes placed at a virtual address of partition 0's store. -/
def withMem (s : State) (a : Nat) (b : Bytes) : State := { s with mem := Memory.write s.mem a b }
/-- The job with a widenable layer 3. -/
def wWide : State :=
  { wJob with plans := [{ wPlan with variants := [⟨3, 0, 2, 0, 0, 0, []⟩], buckets := [⟨8, 8, 8, 0, 1, [⟨3, 0, 0, 0, 0, 0, 0⟩], [], []⟩] }] }
def wWm (typ seq : Nat) (fs : List Fld) : Msg32 := pack 256 (bfld 0 2 5 :: bfld 2 2 0xFFFF :: bfld 6 1 typ :: bfld 18 2 seq :: bfld 20 4 3 :: fs)
def wRw (absent : Bool) : Rewind := ⟨1, 3, 0, 1, false, absent⟩
def wMark : Mark := ⟨0, 3, [(0, [(4, 9)])], [(0, 64)], []⟩
def wRew (absent : Bool) : State := wWide.modCtx 0 fun c => { c with rewind := some (wRw absent), marks := [wMark] }
def wOrd : State := wWide.modCoord 0 fun c => { c with order := some (1, 3, 0, 1) }
def wNer (n : NerSt) (size : Nat) : State := ({ wUp with ners := [(0, n)] }).setRg (pk tVFSTATUS 0) 0x220 (BitVec.ofNat 64 size)
/-- A request of this module that waits at port 0 for its answer. -/
def wAsk (q : OutReq) (s : State) : State := { s with ports := [(0, { wPort with outReqs := [q] })] }
def wTrain : PortSt := { PortSt.zero with st := .training, trained := true }
/-- A fold entry of tensor 5, layer 3; the partition with it on engine 0, port 0 up. -/
def wFe (op blocks kid parent : Nat) (fs : List Fld) : FoldEnt :=
  pack 512 (bfld 0 1 op :: bfld 4 4 5 :: bfld 8 4 3 :: bfld 12 4 blocks :: bfld 16 2 kid :: bfld 18 4 0xFFFFFFFF :: bfld 22 2 parent ::
    bfld 32 8 (vaOp 0x1000) :: bfld 40 8 (vaOp 0x2000) :: bfld 48 8 (vaOp 0x3000) :: fs)
def wFold (r : FoldEnt) : State :=
  withPort { wJob with plans := [{ wPlan with variants := [⟨3, 1, 2, 0, 0, 0, []⟩], buckets := [⟨8, 8, 8, 0, 1, [⟨3, 0, 0, 0, 0, 0, 0⟩], [[r]], []⟩] }] }
def wFpart (r : FoldEnt) (f : FoldPart) : State := { wFold r with folds := [(0, ⟨[(0, f)]⟩)] }
def wBlk : FoldBlk := ⟨0, 0, 0, 0, 0, 1, 0, List.replicate 64 0⟩
def wFm (src : W16) (b : FoldBlk) : FoldMsg := ⟨src, 0, 0, 5, b⟩
/-- The job with partition 1 to be created on cluster 1. -/
def wNew : State := ({ wJob with pcie := { wJob.pcie with vfEn := 3 } }).setRg (pk tPART 1) 0x200 2
def withPart (p : Nat) (f : PartSt → PartSt) (s : State) : State := s.modPart p f
/-- A map request of one page of 2 MiB in central store. -/
def wReq (op va sz : Nat) (s : State) : State :=
  (((s.setRg (pk tPART 0) 0x260 (BitVec.ofNat 64 (va + sz * 2 ^ 49 + op * 2 ^ 57))).setRg (pk tPART 0) 0x268 1)).setRg (pk tPART 0) 0x220 8
def wImg : FwImage := ⟨0, 0, 0, 0, 0, 0, [], [], [], []⟩
def wFlash : State := { State.reset with boot := { BootSt.reset with flash := some wImg } }
def wBoot (code : Nat) : State :=
  { wUp with boot := { wUp.boot with code := code, tiersDone := true }, pcie := { PcieSt.reset with bme := [(0, true)] } }
/-- SPDM served, its algorithms agreed, with sessions. -/
def wSpdm (l : List (Nat × Bool)) : State :=
  { wJob with sec := { SecSt.reset with aliasReady := true, versionDone := true, capsDone := true, algsDone := true, sessions := l, meas := [(2, [1])] } }
def withSec (f : SecSt → SecSt) (s : State) : State := { s with sec := f s.sec }
/-- The meter, with a message at its tap; with a command in its window. -/
def wFmu (f : FmuSt → FmuSt) (s : State) : State := { s with fmu := f s.fmu }
def wTap (m : TapMsg) (s : State) : State := { s with emit := { s.emit with tap := [m] } }
def wFs : FStream := ⟨0, 7, 0, none, [], 0, true, some 0, none, FCounts.zero⟩
def wMeter (op : Nat) (fs : List Fld) : State :=
  let c : Desc := pack 512 (bfld 0 1 op :: fs)
  (List.range 8).foldl (fun s i => s.setRg (pk tMETER 0) (0x300 + 8 * i) (BitVec.ofNat 64 (byteFld c (8 * i) 8))) wJob
def wRing : List Fld := [bfld 8 8 0x10000, bfld 16 4 1024, bfld 24 8 0x20000]
def wSage (f : SageSt → SageSt) (s : State) : State := { s with sage := f s.sage }
def wPci (f : PcieSt → PcieSt) (s : State) : State := { s with pcie := f s.pcie }
def wPow (f : PowerSt → PowerSt) (s : State) : State := { s with power := f s.power }
def wDbg (f : DebugSt → DebugSt) (s : State) : State := { s with dbg := f s.dbg }
/-- A debug command; a grant of every right over partition 0. -/
def wDc (op kind index arg : Nat) (fs : List Fld) : BitVec 192 := pack 192 (⟨7, 0, op⟩ :: ⟨11, 8, kind⟩ :: ⟨31, 16, index⟩ :: ⟨63, 32, arg⟩ :: fs)
def wGr : Grant := ⟨7, 0, 9000000⟩
def wGrant (halted : Bool) : State :=
  withPart 0 (fun q => { q with grant := some wGr })
    { wJob with cores := [(0, { CoreSt.zero with pipes := [(0, { ScPipe.zero with halted := halted })] })] }

/-! ### Worked examples of the spec -/

/-- The example after R71: FP32 to E4M3, with NOSAT 0 and with NOSAT 1; 470.0 alone overflows. -/
theorem test_fp32_to_e4m3 :
    (([0x43E60000, 0x43EB0000, 0xBB3E0DED, 0x3A6410B6].map (decodeFmt 0)).map fun v => ((convTo 0x30 v).1, (convTo 0x34 v).1)) =
      [(0x7E, 0x7E), (0x7E, 0x7F), (0x81, 0x81), (0x00, 0x00)] ∧
    (([0x43E60000, 0x43EB0000, 0xBB3E0DED, 0x3A6410B6].map (decodeFmt 0)).map fun v => ((convTo 0x30 v).2.oc, (convTo 0x30 v).2.fl)) =
      [(0, 0), (1, 0), (0, 0), (0, 0)] := by
  decide +kernel

/-- The example after R72: a BSI-4 group that begins 7.6, −3.1, 0.9, 1.0, 3.0 has scale 0x80 and element bytes 0xE4, 0x00, 0x02. -/
theorem test_bsi4_pack :
    let g := bsiPack 4 false none (([0x40F33333, 0xC0466666, 0x3F666666, 0x3F800000, 0x40400000] ++ List.replicate 27 0).map (decodeFmt 0))
    g.u = 0x80 ∧ g.q.take 5 = [4, -2, 0, 0, 2] ∧ (bsiBytes 4 g.q).take 3 = [0xE4, 0x00, 0x02] := by
  decide +kernel

/-- The worked column of chapter 4: the window sum, which drains as 0x4012A000. -/
theorem test_column_sum :
    let r := columnSum 4 4 ([0x3C, 0xAC, 0x01, 0x7E].map (decodeFmt 3)) ([0x4000, 0x3F40, 0x40A0, 0xBA81].map (decodeFmt 1))
    r.v = .fin false 4919918592 (-31) ∧ r.ovf = false ∧ enc32 (roundVec fp32 false (r.v, Ev.zero)).1 = 0x4012A000 := by
  decide +kernel

/-- The worked adder of chapter 15: element 2 saturates, poison of element 5 stays, WIDTH is 0x9 and the residue checks as 0xA3. -/
theorem test_fold_adder :
    let x (l : List FVal) : FoldBlk := (foldBlock 24 115 0 0 0 (l ++ List.replicate (64 - l.length) (.fin false 0 0))).1
    let a := x [.fin false 13 (-2), decodeFmt 0 0xB8D1B717, .fin false 2000 0]
    let b := x [.fin true 1 0, .fin false 0 0, .fin false 100 0, .fin false 0 0, .fin false 0 0, .nan]
    let r := addBlk 24 a b
    a.elems.take 3 = [13312, 0, 8192000] ∧ a.residue = 177 ∧ b.residue = 54 ∧ r.1.elems.take 6 = [9216, 0, 8388607, 0, 0, 0] ∧
      r.1.width = 9 ∧ r.1.residue = 0xA3 ∧ r.1.poison = 32 ∧ r.2.1 = [2] ∧ r.2.2 = false := by
  decide +kernel

/-- What a command leaves. -/
def nextOf : Out → State
  | .next t => t
  | _ => State.reset
def isNext : Out → Bool
  | .next _ => true
  | _ => false
theorem nextOf_eq (o : Out) (h : isNext o = true) : o = .next (nextOf o) := by
  cases o <;> simp_all [isNext, nextOf]

/-- The worked exchange of chapter 2: offset +12 ns, delay 400 ns, and the follower slews its counter back by 12 ns. -/
theorem test_time_exchange :
    let s := withPort (wRole 0 .locked)
    let t := nextOf (exec (.timeBeaconReceive 0 (wMsg [bfld 6 1 0x20, ⟨40, 40, 1⟩, bfld 8 8 2000000000, bfld 16 8 1000000988]))
      { s with time := { s.time with xValid := true, x1 := 1000000000, x2 := 1000000412, x3 := 1000000600, now := 2000000000 } })
    t.time.lastOffset = 12 ∧ t.time.lastDelay = 400 ∧ t.time.slew = -12 ∧ t.time.now = 2000000000 := by
  decide +kernel

/-- R185's example: the FP32 adds of 2^24, 1.0 and -2^24 leave 1.0 in the order b, c, a and 0.0 in the order a, b, c. -/
theorem test_fp_add_order :
    (let f (x y : Nat) : Nat := ((atomNew 0xA 32 x y 0).bind (·.1)).getD 1
     f (f (f 0 0x3F800000) 0xCB800000) 0x4B800000 = 0x3F800000 ∧ f (f 0 0x3F800000) 0xCB800000 = 0xCB7FFFFF ∧
     f (f (f 0 0x4B800000) 0x3F800000) 0xCB800000 = 0) := by
  decide +kernel

/-! ### Witnesses -/

theorem witness_CommandsAnswerAndKeepTheQueue : ∃ (i : Instr) (s t : State), exec i s = .next t :=
  ⟨.timeSet 2500000, wRole 1 .locked, _, nextOf_eq _ (by decide +kernel)⟩

/-- A store by a pipe, waiting at the front. -/
def wStore : State := { wSc (wordI 0x0E 1 2 8) [(2, 0x800), (1, 77)] with pending := [.cst 0 0 1 2 8] }

theorem witness_StepKeepsMemoryCanonical : (∃ s t : State, s.memWf = true ∧ step s = .next t) ∧ (nextOf (step wStore)).cb ≠ wStore.cb :=
  ⟨⟨wStore, _, by decide +kernel, nextOf_eq _ (by decide +kernel)⟩, by decide +kernel⟩

theorem witness_StepKeepsFusesBlown : ∃ s t : State, s.sec.fusedSvn ≤ 64 ∧ step s = .next t :=
  ⟨{ withSec (fun x => { x with aliasReady := true, imageSvn := 70, imageSlot := 2 }) wUp with pending := [.rollbackCommit 1] }, _,
    by decide +kernel, nextOf_eq _ (by decide +kernel)⟩

theorem witness_StepKeepsEntriesDistinct : ∃ s t : State, s.entsDistinct = true ∧ step s = .next t :=
  ⟨{ wJob with pending := [.attemptStart 0] }, _, by decide +kernel, nextOf_eq _ (by decide +kernel)⟩

/-- A queue head of the deadlock that the walk finds, a wait of it, and a held queue that would help. -/
theorem witness_deadlocked : ∃ (p : Nat) (s : State) (x : Fn × Nat), x ∈ s.deadlocked p ∧ s.unmet x ≠ [] :=
  ⟨0, wHead (pack 512 [bfld 0 1 2, ⟨18, 16, 1⟩, ⟨20, 19, 1⟩, bfld 16 8 5, bfld 24 8 5]), (.vf 0, 0), by decide +kernel⟩

/-- Near stack 0 with the retired pages `a`, the others with `b`; partition 0 owns page 100 of stack 0, whose row asks for retirement. -/
def wFull (a b : List Nat) : State :=
  { wJob with
    backing := [(backKey 0 100, ⟨some 0, none, 0⟩)],
    tiers := (0, { TierSt.zero with retireReq := [102400], retired := a }) :: ((List.range 15).map fun u => (u + 1, { TierSt.zero with retired := b })) }

theorem noFreePage {s : State} {u : Nat} (hu : unitPages u = 32768)
    (h : ∀ x, x < 32768 → (s.tier u).retired.contains x = true ∨ (s.back (backKey u x)).owner.isSome = true) : s.freePage u = none := by
  unfold State.freePage
  rw [List.find?_eq_none]
  intro x hx
  rw [hu, List.mem_range] at hx
  unfold State.pageFree
  rcases h x hx with h | h
  · rw [h]; simp
  · rw [Option.isSome_iff_ne_none] at h
    simp [Option.isNone_iff_eq_none, h]

theorem wFull_none {a b : List Nat} (ha : ∀ x, x < 32768 → x ≠ 100 → x ∈ a) (hb : ∀ x, x < 32768 → x ∈ b) (v : Nat) (hv : v ∈ tierMates 0) :
    (wFull a b).freePage v = none := by
  have hv : v < 16 := by
    have h : ∀ v, v ∈ tierMates 0 → v < 16 := by decide
    exact h v hv
  refine noFreePage (by simp [unitPages, unitSize, hv]) fun x hx => ?_
  by_cases h0 : v = 0
  · subst h0
    by_cases hx1 : x = 100
    · subst hx1; exact Or.inr rfl
    · rw [show ((wFull a b).tier 0).retired = a from rfl]
      exact Or.inl (List.contains_iff_mem.mpr (ha x hx hx1))
  · have e : ((wFull a b).tier v).retired = b := by
      obtain h | h | h | h | h | h | h | h | h | h | h | h | h | h | h : v = 1 ∨ v = 2 ∨ v = 3 ∨ v = 4 ∨ v = 5 ∨ v = 6 ∨ v = 7 ∨ v = 8 ∨
        v = 9 ∨ v = 10 ∨ v = 11 ∨ v = 12 ∨ v = 13 ∨ v = 14 ∨ v = 15 := by omega
      all_goals (subst h; rfl)
    rw [e]
    exact Or.inl (List.contains_iff_mem.mpr (hb x hx))

theorem witness_TierMaintenance_full : ∃ (u : TierUnit) (row : Nat) (rest : List Nat) (s : State) (p : Nat),
    s.running = true ∧ unitOk u = true ∧ (s.tier (unitKey u)).retireReq = row :: rest ∧ s.pageSteward (unitKey u) (row / 1024) = false ∧
    (s.back (backKey (unitKey u) (row / 1024))).owner = some p ∧ (s.part p).state ≠ .tearingDown ∧ (s.part p).state ≠ .scrubbing ∧
    ∀ v, v ∈ tierMates (unitKey u) → s.freePage v = none :=
  ⟨.near 0, 102400, [], wFull ((List.range 32768).filter (· != 100)) (List.range 32768), 0, by decide +kernel, by decide +kernel,
    by decide +kernel, by decide +kernel, by decide +kernel, by decide +kernel, by decide +kernel,
    wFull_none (fun x h k => by simp [h, k]) (fun x h => List.mem_range.mpr h)⟩

/-- A steward image that passes every check, where the fused hash is that of its key and its signature verifies. -/
def wGood0 : FwImage := { wImg with magic := 0x57464C48, target := 0x0840, hdrVer := 1, imageLen := 512 }
def wGoodImg : FwImage := { wGood0 with digest := shake256 (fwDigested wGood0) 64 }
theorem wGoodImg_digest : shake256 (fwDigested wGoodImg) 64 = wGoodImg.digest := by
  have e : ∀ d : Bytes, fwDigested { wGood0 with digest := d } = fwDigested wGood0 := fun d => by simp only [fwDigested, fwHeader]
  unfold wGoodImg
  rw [e]

theorem wGoodImg_passes (h : shake256 [] 64 = Config.fusedKeyHash 0) (g : Config.edVerify [] wGoodImg.digest [] = true) (s : State)
    (hr : s.sec.revoked = 0) (hs : s.sec.fusedSvn = 0) : s.checkImage wGoodImg = none := by
  unfold State.checkImage
  rw [if_neg (by decide +kernel), if_neg, if_neg (by rw [hs]; exact Nat.not_lt_zero _), wGoodImg_digest]
  · simp [show wGoodImg.pubkey = [] from rfl, show wGoodImg.sig = [] from rfl, g]
  · simp [hr, show wGoodImg.pubkey = [] from rfl, show wGoodImg.keySlot = 0 from rfl, h, bitOf]

/-- The clauses of BootChain about an image that passes, where the fuses and Ed448 say so. -/
theorem witness_BootChain_passes (h : shake256 [] 64 = Config.fusedKeyHash 0) (g : Config.edVerify [] wGoodImg.digest [] = true) :
    (∃ (i : FwImage) (s : State), s.boot.on = true ∧ s.boot.perst = true ∧ s.boot.flash = some i ∧ s.checkImage i = none) ∧
    (∃ (i : FwImage) (s : State), s.mbxFree = true ∧ s.boot.code = 0x10 ∧ s.checkImage i = none) ∧
    (∃ (i : FwImage) (s : State), s.mbxFree = true ∧ s.boot.code = 4 ∧ s.checkImage i = none) :=
  ⟨⟨wGoodImg, { State.reset with boot := { BootSt.reset with flash := some wGoodImg } }, by decide +kernel, by decide +kernel, rfl,
      wGoodImg_passes h g _ (by decide +kernel) (by decide +kernel)⟩,
   ⟨wGoodImg, wBoot 0x10, by decide +kernel, by decide +kernel, wGoodImg_passes h g _ (by decide +kernel) (by decide +kernel)⟩,
   ⟨wGoodImg, wBoot 4, by decide +kernel, by decide +kernel, wGoodImg_passes h g _ (by decide +kernel) (by decide +kernel)⟩⟩

/-- An image of 480 B, one bucket of one layer and no record, but for its digest; the image; a LOAD of it at the head of SQ 0. -/
def wRaw : Bytes :=
  leBytes 256 (packNat [bfld 0 4 0x4B424C48, bfld 4 2 0x0840, bfld 6 1 1, bfld 7 1 2, bfld 8 4 400, bfld 12 4 40, bfld 20 4 8, bfld 32 1 1,
    bfld 40 8 480, bfld 72 4 256, bfld 76 4 1]) ++
  leBytes 32 (packNat [bfld 0 2 8, bfld 2 2 8, bfld 4 6 8, bfld 12 4 288, bfld 16 4 192]) ++ leBytes 192 1
def wPlanImg : Bytes :=
  wRaw.take 128 ++ leBytes 64
    0xf7c3791efa647c5e15880609f74942c610eee94e1f00d54dfda99c41e7d13ee814945e634c6c06aa5fb15fc6fb365185d288f1bb1ad1589e933e2fa40efeab81 ++ wRaw.drop 192
def wLd : Desc := pack 512 [bfld 0 1 4, bfld 16 8 0x1000]
def wLdS : State := { wHead wLd with mem := Memory.write [] 0x1000 wPlanImg }
def wLdU : RdRes × State :=
  (wLdS.takeHead (.vf 0) 0 (wFetched wLd)).readVa .store false (entAcc (wFetched wLd)) (entOperand (wFetched wLd).raw 0 % 2 ^ 49) 256
def wLdU2 : RdRes × State :=
  wLdU.2.readVa .store false (entAcc (wFetched wLd)) (entOperand (wFetched wLd).raw 0 % 2 ^ 49) (fld (wPlanImg.take 256) 40 8)

/-- Where its streams hold no record, the image passes the load checks. -/
theorem wPlanImg_digest : digestOk wPlanImg = true := by decide +kernel
theorem wPlanImg_records (hf : Config.framing = fun _ => []) :
    recordsOk (fun k => (wLdU2.2.coresOf 0).contains k) wPlanImg (planAt 0 0 0 0x1000 wPlanImg) = true := by
  delta recordsOk streamsRuleOk planAt variantOk variantOf blockAt bucketAt Bucket.read framed
  rw [hf]
  decide +kernel
theorem wPlanImg_passes (hf : Config.framing = fun _ => []) : wLdU2.2.loadFail 0 0x1000 wPlanImg (planAt 0 0 0 0x1000 wPlanImg) = none := by
  unfold State.loadFail
  rw [wPlanImg_digest, wPlanImg_records hf, if_neg (by decide +kernel), if_neg (by decide), if_neg (by decide +kernel),
    if_neg (by decide +kernel), if_neg (by decide +kernel), if_neg (by decide +kernel), if_neg (by decide)]

/-- A LOAD that passes every check, where the image's streams hold no record. -/
theorem witness_PlansLoad_passes (hf : Config.framing = fun _ => []) :
    ∃ (fn : Fn) (q h : Nat) (e : Entry) (r : RdRes) (u s : State) (hd b : Bytes) (r2 : RdRes) (u2 : State),
      s.toPlace fn q = some e ∧ entOpc e.raw = 4 ∧ s.freeHandle e.part = some h ∧
      (s.takeHead fn q e).readVa .store false (entAcc e) (entOperand e.raw 0 % 2 ^ 49) 256 = (r, u) ∧
      r.use (entOperand e.raw 0 % 2 ^ 49) = .ok hd ∧ hdrImageOk hd = true ∧ aligned (entOperand e.raw 0 % 2 ^ 49) 64 = true ∧
      u.readVa .store false (entAcc e) (entOperand e.raw 0 % 2 ^ 49) (fld hd 40 8) = (r2, u2) ∧
      r2.use (entOperand e.raw 0 % 2 ^ 49) = .ok b ∧
      u2.loadFail e.part (entOperand e.raw 0 % 2 ^ 49) b (planAt e.part e.ctx h (entOperand e.raw 0 % 2 ^ 49) b) = none ∧
      u2.ent e.uid = some e :=
  ⟨.vf 0, 0, 0, wFetched wLd, wLdU.1, wLdU.2, wLdS, wPlanImg.take 256, wPlanImg, wLdU2.1, wLdU2.2, by decide +kernel, by decide +kernel,
    by decide +kernel, pairEta _, sameRes_eq _ _ (by decide +kernel), by decide +kernel, by decide +kernel, pairEta _,
    sameRes_eq _ _ (by decide +kernel),
    by have e : entOperand (wFetched wLd).raw 0 % 2 ^ 49 = 0x1000 := (by decide +kernel); rw [e]; exact wPlanImg_passes hf, by decide +kernel⟩

theorem witness_IdleStepCountsANanosecond :
    (∃ (s : State), s.pending = [] ∧ s.up = true) ∧
    (∃ (s : State), s.pending = [] ∧ s.up = false) :=
  ⟨⟨wUp, by decide +kernel⟩,
   ⟨State.reset, by decide +kernel⟩⟩

theorem witness_LockStates :
    (∃ (v : BitVec 2) (s : State), s.up = true ∧ s.anyBound = false) ∧
    (∃ (v : BitVec 2) (s : State), s.up = true ∧ s.anyBound = true) ∧
    (∃ (v : W64) (s : State), s.up = true ∧ s.role = 1 ∧ s.anyBound = false ∧ (s.time.lock = .acquiring ∨ (s.time.lock = .locked ∧ s.time.now ≤ v))) ∧
    (∃ (v : W64) (s : State), s.up = true ∧ (s.role ≠ 1 ∨ s.anyBound = true ∨ (s.time.lock ≠ .acquiring ∧ (s.time.lock ≠ .locked ∨ v < s.time.now)))) ∧
    (∃ (s : State), s.up = true ∧ s.role ≠ 1 ∧ s.time.lock = .acquiring ∧ s.time.lastValid + 16000 ≤ s.time.mono) ∧
    (∃ (s : State), s.up = true ∧ s.role ≠ 1 ∧ s.time.lock = .locked ∧ s.time.lastValid + 16000 ≤ s.time.mono) ∧
    (∃ (s : State), (s.role = 1 ∨ s.time.mono < s.time.lastValid + 16000)) ∧
    (∃ (s : State), s.up = true ∧ ((s.time.lock = .holdover ∧ s.time.holdSince + 1000000 ≤ s.time.mono) ∨ ((s.time.lock = .locked ∨ s.time.lock = .acquiring ∨ s.time.lock = .holdover) ∧ s.anyBound = true ∧ 1000 < s.time.slew.natAbs))) :=
  ⟨⟨1, wRole 0 .locked, by decide +kernel⟩,
   ⟨2, wJob, by decide +kernel⟩,
   ⟨2500000, wRole 1 .locked, by decide +kernel⟩,
   ⟨5, wRole 0 .locked, by decide +kernel⟩,
   ⟨wRole 2 .acquiring, by decide +kernel⟩,
   ⟨wRole 0 .locked, by decide +kernel⟩,
   ⟨wRole 1 .locked, by decide +kernel⟩,
   ⟨{ (wRole 0 .holdover) with time := { TimeSt.reset with lock := .holdover, mono := 2000000, now := 2000000, holdSince := 1 } }, by decide +kernel⟩⟩

theorem witness_TimeSources :
    (∃ (f : BitVec 104) (s : State), s.up = true ∧ s.role = 2 ∧ bits f 103 88 = 0xA9C3 ∧ bits f 15 0 = (frameCrc f.toNat).toNat ∧ bitOf f 16 = true) ∧
    (∃ (f : BitVec 104) (s : State), s.up = true ∧ (bits f 103 88 ≠ 0xA9C3 ∨ bits f 15 0 ≠ (frameCrc f.toNat).toNat)) ∧
    (∃ (f : BitVec 104) (s : State), s.up = true ∧ bits f 103 88 = 0xA9C3 ∧ bits f 15 0 = (frameCrc f.toNat).toNat ∧ bitOf f 16 = false) ∧
    (∃ (f : BitVec 104) (s : State), s.up = true ∧ bits f 103 88 = 0xA9C3 ∧ bits f 15 0 = (frameCrc f.toNat).toNat ∧ bitOf f 16 = true ∧ s.role ≠ 2) ∧
    (∃ (s : State), s.up = true ∧ bitOf (s.rg pgTIME 0x230) 0 = false) ∧
    (∃ (s : State), s.up = true ∧ bitOf (s.rg pgTIME 0x230) 0 = true) ∧
    (∃ (e : Nat) (m : Msg32) (s : State), s.up = true ∧ s.portUp e = true ∧ byteFld m 6 1 = 0x21) ∧
    (∃ (e : Nat) (m : Msg32) (s : State), s.up = true ∧ s.role = 0 ∧ e = s.upstream ∧ s.portUp e = true ∧ byteFld m 6 1 = 0x20 ∧ byteFld m 4 1 ≤ 3 ∧ bitOf m 40 = true) ∧
    (∃ (e : Nat) (m : Msg32) (s : State), s.up = true ∧ s.role = 0 ∧ e = s.upstream ∧ s.portUp e = true ∧ byteFld m 6 1 = 0x20 ∧ 4 ≤ byteFld m 4 1) ∧
    (∃ (e : Nat) (m : Msg32) (s : State), s.up = true ∧ s.role = 0 ∧ e = s.upstream ∧ s.portUp e = true ∧ byteFld m 6 1 = 0x20 ∧ byteFld m 4 1 ≤ 3 ∧ bitOf m 40 = false) ∧
    (∃ (s : State), s.up = true) :=
  ⟨⟨cadenceWord 5000 true false, wRole 2 .locked, by decide +kernel⟩,
   ⟨0, wRole 2 .locked, by decide +kernel⟩,
   ⟨cadenceWord 5000 false false, wRole 2 .locked, by decide +kernel⟩,
   ⟨cadenceWord 5000 true false, wRole 1 .locked, by decide +kernel⟩,
   ⟨wRole 2 .locked, by decide +kernel⟩,
   ⟨(wRole 2 .locked).setRg pgTIME 0x230 1, by decide +kernel⟩,
   ⟨0, wMsg [bfld 6 1 0x21], withPort wUp, by decide +kernel⟩,
   ⟨0, wMsg [bfld 6 1 0x20, bfld 4 1 3, ⟨40,40,1⟩, bfld 8 8 77], withPort (wRole 0 .locked), by decide +kernel⟩,
   ⟨0, wMsg [bfld 6 1 0x20, bfld 4 1 4], withPort (wRole 0 .locked), by decide +kernel⟩,
   ⟨0, wMsg [bfld 6 1 0x20, bfld 4 1 3], withPort (wRole 0 .locked), by decide +kernel⟩,
   ⟨withPort (wRole 1 .locked), by decide +kernel⟩⟩

theorem witness_BindAndUnbind :
    (∃ (p : Nat) (s : State), s.up = true ∧ p < 32 ∧ (s.ctx p).bound = false ∧ (s.ctx p).unbinding = false ∧ s.bindOk p = true) ∧
    (∃ (p : Nat) (s : State), s.up = true ∧ p < 32 ∧ (s.ctx p).bound = false ∧ (s.ctx p).unbinding = false ∧ (s.maxRepeat p = 0 ∨ s.marginNs p < 2000 ∨ 1000000 < s.marginNs p)) ∧
    (∃ (p : Nat) (s : State), ((s.ctx p).bound = true ∨ (s.ctx p).unbinding = true)) ∧
    (∃ (p : Nat) (s : State), s.up = true ∧ p < 32 ∧ (s.ctx p).bound = true ∧ (s.ctx p).unbinding = false) ∧
    (∃ (p : Nat) (s : State), (s.ctx p).bound = false) ∧
    (∃ (p : Nat) (s : State), s.up = true ∧ (s.ctx p).unbinding = true ∧ s.liveLaunch p = false) ∧
    (∃ (p : Nat) (s : State), (s.liveLaunch p = true ∨ (s.ctx p).unbinding = false)) :=
  ⟨⟨31, wUp, by decide +kernel⟩,
   ⟨0, wUp.setRg pgTIME 0x410 1, by decide +kernel⟩,
   ⟨0, wJob, by decide +kernel⟩,
   ⟨0, wJob, by decide +kernel⟩,
   ⟨0, wUp, by decide +kernel⟩,
   ⟨0, ({ wJob with ents := [] }).modCtx 0 fun c => { c with unbinding := true }, by decide +kernel⟩,
   ⟨0, wJob, by decide +kernel⟩⟩

theorem witness_AttemptStartsAtItsSlot :
    (∃ (p : Nat) (s : State) (e : Entry) (q : Plan) (at_ : Nat), s.slotOf p = some (e, q, at_) ∧ s.running = true ∧ (s.ctx p).bound = true ∧ (s.ctx p).coordLost = false ∧ (s.ctx p).frozen = false ∧ (s.ctx p).running = false ∧ (s.ctx p).pend = none ∧ at_ ≤ s.now ∧ (s.ctx p).rejoinAt.toNat ≤ at_) ∧
    (∃ (p : Nat) (s : State) (e : Entry) (q : Plan) (at_ : Nat), s.slotOf p = some (e, q, at_) ∧ (s.now < at_ ∨ (s.ctx p).pend.isSome = true ∨ (s.ctx p).running = true)) ∧
    (∃ (p : Nat) (s : State), s.slotOf p = none) :=
  ⟨⟨0, wCtx fun c => { c with running := false }, wEnt, wPlan, 800000, by decide +kernel⟩,
   ⟨0, atT 799999 wJob, wEnt, wPlan, 800000, by decide +kernel⟩,
   ⟨0, wUp, by decide +kernel⟩⟩

theorem witness_BeaconsAndDecisions :
    (∃ (p : Nat) (s : State), s.running = true ∧ (s.ctx p).bound = true ∧ (s.ctx p).running = true ∧ (s.ctx p).coordLost = false ∧ (s.ctx p).frozen = false ∧ (s.ctx p).pend = none ∧ (s.stepLaunch p (s.ctx p).cur).isSome = true ∧ (s.ctx p).fails.any (fun f => f.1 == (s.ctx p).cur) = false ∧ s.time.lock ≠ .unlocked ∧ s.time.lock ≠ .unsynced) ∧
    (∃ (p : Nat) (ready : Bool) (s : State), ((s.ctx p).running = false ∨ (s.ctx p).coordLost = true ∨ (s.ctx p).frozen = true ∨ (s.ctx p).pend.isSome = true ∨ (s.ctx p).fails.any (fun f => f.1 == (s.ctx p).cur) = true ∨ s.time.lock = .unlocked ∨ s.time.lock = .unsynced)) ∧
    (∃ (p : Nat) (m : Msg32) (s : State), s.up = true ∧ s.coordOf (byteFld m 0 2) = some p ∧ (byteFld m 6 1 = 1 ∨ byteFld m 6 1 = 2) ∧ (s.coord p).open_ = true ∧ byteFld m 8 8 = (s.coord p).step ∧ byteFld m 16 1 = (s.coord p).attempt) ∧
    (∃ (p : Nat) (m : Msg32) (s : State), s.coordOf (byteFld m 0 2) = some p ∧ (byteFld m 8 8 ≠ (s.coord p).step ∨ byteFld m 16 1 ≠ (s.coord p).attempt ∨ (s.coord p).open_ = false)) ∧
    (∃ (p : Nat) (m : Msg32) (s : State), s.up = true ∧ s.partOf (byteFld m 0 2) = some p ∧ byteFld m 6 1 = 0x30 ∧ BitVec.ofNat 16 (byteFld m 2 2) = s.coordId p ∧ (s.ctx p).coordLost = false ∧ byteFld m 8 8 = (s.ctx p).cur ∧ (s.ctx p).attempt ≤ byteFld m 5 1 ∧ bits m 33 32 ≠ 0 ∧ (s.ctx p).acted.contains ((decisionOf m).step, (decisionOf m).attempt, (decisionOf m).kind) = false ∧ (s.ctx p).pend = none ∧ s.now ≤ byteFld m 16 8) ∧
    (∃ (p : Nat) (m : Msg32) (s : State), s.up = true ∧ s.partOf (byteFld m 0 2) = some p ∧ byteFld m 6 1 = 0x30 ∧ BitVec.ofNat 16 (byteFld m 2 2) = s.coordId p ∧ (s.ctx p).coordLost = false ∧ byteFld m 8 8 = (s.ctx p).cur ∧ (s.ctx p).attempt ≤ byteFld m 5 1 ∧ bits m 33 32 = 0 ∧ (s.ctx p).pend = none ∧ (s.ctx p).acted.contains ((decisionOf m).step, (decisionOf m).attempt, (decisionOf m).kind) = false) ∧
    (∃ (p : Nat) (m : Msg32) (s : State), s.partOf (byteFld m 0 2) = some p ∧ (BitVec.ofNat 16 (byteFld m 2 2) ≠ s.coordId p ∨ (s.ctx p).coordLost = true)) ∧
    (∃ (p : Nat) (m : Msg32) (s : State), s.up = true ∧ s.partOf (byteFld m 0 2) = some p ∧ byteFld m 6 1 = 0x30 ∧ BitVec.ofNat 16 (byteFld m 2 2) = s.coordId p ∧ (s.ctx p).coordLost = false ∧ byteFld m 8 8 = (s.ctx p).cur ∧ (s.ctx p).attempt ≤ byteFld m 5 1 ∧ bits m 33 32 = 1 ∧ (s.ctx p).pend = none ∧ (s.ctx p).acted.contains ((decisionOf m).step, (decisionOf m).attempt, (decisionOf m).kind) = false ∧ byteFld m 16 8 < s.now) :=
  ⟨⟨0, wJob, by decide +kernel⟩,
   ⟨0, true, wCtx fun c => { c with coordLost := true }, by decide +kernel⟩,
   ⟨0, wMsg [bfld 0 2 5, bfld 2 2 0x1234, bfld 6 1 2, bfld 8 8 0, bfld 16 1 0, bfld 24 8 999], wJob, by decide +kernel⟩,
   ⟨0, wMsg [bfld 0 2 5, bfld 6 1 2, bfld 8 8 1], wJob, by decide +kernel⟩,
   ⟨0, wMsg [bfld 0 2 5, bfld 2 2 0xFFFF, bfld 6 1 0x30, ⟨33,32,1⟩, bfld 16 8 1000000], wJob, by decide +kernel⟩,
   ⟨0, wMsg [bfld 0 2 5, bfld 2 2 0xFFFF, bfld 6 1 0x30, bfld 16 8 1200000, bfld 28 4 80], wJob, by decide +kernel⟩,
   ⟨0, wMsg [bfld 0 2 5, bfld 2 2 0xFFFE, bfld 6 1 0x30], wJob, by decide +kernel⟩,
   ⟨0, wMsg [bfld 0 2 5, bfld 2 2 0xFFFF, bfld 6 1 0x30, ⟨33,32,1⟩, bfld 16 8 999999], wJob, by decide +kernel⟩⟩

theorem witness_CoordinatorDecides :
    (∃ (p : Nat) (ms : List (W16 × Nat)) (s : State), s.up = true ∧ s.isCoord p = true ∧ (s.coord p).open_ = true ∧ (∀ m, m ∈ (s.moduleId, p) :: ms → s.readyAt p m = true) ∧ (s.coord p).slotStart.toNat + 1000 * (s.coord p).slotUs ≤ s.now + s.marginNs p) ∧
    (∃ (p : Nat) (ms : List (W16 × Nat)) (s : State), s.up = true ∧ s.isCoord p = true ∧ (s.coord p).open_ = true ∧ (∃ m, m ∈ (s.moduleId, p) :: ms ∧ s.readyAt p m = false) ∧ (s.gfe.level ≠ 1 ∨ ((s.moduleId, p) :: ms).any (s.absent p) = true) ∧ (s.coord p).attempt ≠ s.maxRepeat p ∧ (s.coord p).slotStart.toNat + 1000 * (s.coord p).slotUs + 1000 * (s.coord p).allowUs ≤ s.now) ∧
    (∃ (p : Nat) (ms : List (W16 × Nat)) (s : State), s.up = true ∧ s.isCoord p = true ∧ (s.coord p).open_ = true ∧ (∃ m, m ∈ (s.moduleId, p) :: ms ∧ s.readyAt p m = false) ∧ ((s.coord p).attempt = s.maxRepeat p ∨ (s.gfe.level = 1 ∧ ((s.moduleId, p) :: ms).any (s.absent p) = false)) ∧ (s.coord p).slotStart.toNat + 1000 * (s.coord p).slotUs + 1000 * (s.coord p).allowUs ≤ s.now) ∧
    (∃ (p : Nat) (ms : List (W16 × Nat)) (s : State), (∃ m, m ∈ (s.moduleId, p) :: ms ∧ s.readyAt p m = false) ∧ s.now < (s.coord p).slotStart.toNat + 1000 * (s.coord p).slotUs + 1000 * (s.coord p).allowUs) :=
  ⟨⟨0, [], atT 1195000 (wCoord fun k => { k with beacons := [⟨0xFFFF, 0, 0, 0, true, 0, 1191000⟩] }), by decide +kernel⟩,
   ⟨0, [], atT 1240000 wJob, by decide +kernel⟩,
   ⟨0, [], atT 1240000 (wCoord fun k => { k with attempt := 3 }), by decide +kernel⟩,
   ⟨0, [], atT 1239999 wJob, by decide +kernel⟩⟩

theorem witness_EdgesAtTheirTime :
    (∃ (p : Nat) (d : Decision) (s : State), s.up = true ∧ s.sage.fatal = none ∧ (s.ctx p).pend = some d ∧ d.kind = .commit ∧ d.edge.toNat ≤ s.now) ∧
    (∃ (p : Nat) (d : Decision) (s : State), s.up = true ∧ s.sage.fatal = none ∧ (s.ctx p).pend = some d ∧ d.kind = .rpt ∧ d.edge.toNat ≤ s.now) ∧
    (∃ (p : Nat) (d : Decision) (s : State), s.up = true ∧ s.sage.fatal = none ∧ (s.ctx p).pend = some d ∧ d.kind = .abandon ∧ d.edge.toNat ≤ s.now) ∧
    (∃ (p : Nat) (s : State) (e : Entry) (q : Plan) (at_ : Nat), s.slotOf p = some (e, q, at_) ∧ s.up = true ∧ (s.ctx p).bound = true ∧ (s.ctx p).coordLost = false ∧ (s.ctx p).pend = none ∧ at_ + 1000 * (q.slotUs + (s.ctx p).allowUs) + 100000 ≤ s.now) ∧
    (∃ (p : Nat) (d : Decision) (s : State), (s.ctx p).pend = some d ∧ s.now < d.edge.toNat) ∧
    (∃ (p : Nat) (s : State) (e : Entry) (q : Plan) (at_ : Nat), s.slotOf p = some (e, q, at_) ∧ (s.now < at_ + 1000 * (q.slotUs + (s.ctx p).allowUs) + 100000 ∨ (s.ctx p).pend.isSome = true)) :=
  ⟨⟨0, ⟨.commit, 0, 0, 0, 1000000, 0, 0⟩, wCtx fun c => { c with pend := some ⟨.commit, 0, 0, 0, 1000000, 0, 0⟩ }, by decide +kernel⟩,
   ⟨0, ⟨.rpt, 0, 0, 1, 1000000, 3, 80⟩, wCtx fun c => { c with pend := some ⟨.rpt, 0, 0, 1, 1000000, 3, 80⟩ }, by decide +kernel⟩,
   ⟨0, ⟨.abandon, 0, 0, 1, 1000000, 0, 0⟩, wCtx fun c => { c with pend := some ⟨.abandon, 0, 0, 1, 1000000, 0, 0⟩ }, by decide +kernel⟩,
   ⟨0, atT 1340000 wJob, wEnt, wPlan, 800000, by decide +kernel⟩,
   ⟨0, ⟨.rpt, 0, 0, 0, 1000001, 0, 0⟩, wCtx fun c => { c with pend := some ⟨.rpt, 0, 0, 0, 1000001, 0, 0⟩ }, by decide +kernel⟩,
   ⟨0, atT 1339999 wJob, wEnt, wPlan, 800000, by decide +kernel⟩⟩

theorem witness_RecordsArePlaced :
    (∃ (k : Nat) (ahead : Nat) (op : W32) (r : Rec) (e : Entry) (s : State), s.seqLaunch (coreCluster k) ahead = some e ∧ (s.nextRec e.part (coreCluster k) ahead).any (fun x => x.core == k && x.opidx == op && x.bits == r) = true ∧ s.placeOk k ahead e ((⟨r, op, ((s.ctx e.part).cur + ahead), if ahead = 0 then (s.ctx e.part).attempt else 0, layerOf (s.layersOf e.part ((s.ctx e.part).cur + ahead)) op.toNat, e.uid⟩ : QRec)) = true ∧ (s.seq (coreCluster k)).atBreak op.toNat = false) ∧
    (∃ (k : Nat) (ahead : Nat) (op : W32) (r : Rec) (e : Entry) (s : State), s.seqLaunch (coreCluster k) ahead = some e ∧ (s.nextRec e.part (coreCluster k) ahead).any (fun x => x.core == k && x.opidx == op && x.bits == r) = true ∧ s.placeOk k ahead e ⟨r, op, ((s.ctx e.part).cur + ahead), if ahead = 0 then (s.ctx e.part).attempt else 0, layerOf (s.layersOf e.part ((s.ctx e.part).cur + ahead)) op.toNat, e.uid⟩ = true ∧ (s.seq (coreCluster k)).atBreak op.toNat = true) ∧
    (∃ (k : Nat) (ahead : Nat) (op : W32) (r : Rec) (e : Entry) (s : State), s.seqLaunch (coreCluster k) ahead = some e ∧ ((s.nextRec e.part (coreCluster k) ahead).any (fun x => x.core == k && x.opidx == op && x.bits == r) = false ∨ 64 ≤ s.engineHeld k (recEngine r) ∨ (s.ctx e.part).running = false ∨ (s.seq (coreCluster k)).halted = true)) ∧
    (∃ (k : Nat) (ahead : Nat) (op : W32) (r : Rec) (s : State), s.seqLaunch (coreCluster k) ahead = none) :=
  ⟨⟨0, 0, 5, wRec 0x10 [], wEnt, wBaked (wRec 0x10 []), by decide +kernel⟩,
   ⟨0, 0, 5, wRec 0x10 [], wEnt, (wBaked (wRec 0x10 [])).modSeq 0 fun q => { q with bps := [(0, some 5)] }, by decide +kernel⟩,
   ⟨0, 0, 0, 0, wEnt, wBaked (wRec 0x10 []), by decide +kernel⟩,
   ⟨0, 1, 0, 0, wJob, by decide +kernel⟩⟩

theorem witness_RecordsRetire :
    (∃ (k : Nat) (e : Nat) (idx : Nat) (x : ExRec) (s : State), (e = 7 ∨ idx = 0) ∧ (s.execs k e)[idx]? = some x ∧ s.running = true ∧ x.done = true ∧ x.stale = false ∧ x.err = none) ∧
    (∃ (k : Nat) (e : Nat) (idx : Nat) (x : ExRec) (s : State), (e = 7 ∨ idx = 0) ∧ (s.execs k e)[idx]? = some x ∧ s.running = true ∧ x.done = true ∧ x.stale = true) ∧
    (∃ (k : Nat) (e : Nat) (idx : Nat) (x : ExRec) (er : Err) (s : State), (e = 7 ∨ idx = 0) ∧ (s.execs k e)[idx]? = some x ∧ s.running = true ∧ x.done = true ∧ x.stale = false ∧ x.err = some er) ∧
    (∃ (k : Nat) (e : Nat) (idx : Nat) (s : State), e ≠ 7 ∧ idx ≠ 0) ∧
    (∃ (k : Nat) (e : Nat) (idx : Nat) (x : ExRec) (s : State), (s.execs k e)[idx]? = some x ∧ x.done = false) :=
  ⟨⟨0, 4, 0, ⟨wQ (wRec 0 []), true, none, none, false⟩, wExec 4 ⟨wQ (wRec 0 []), true, none, none, false⟩, by decide +kernel⟩,
   ⟨0, 4, 0, ⟨wQ (wRec 0 []), true, none, none, true⟩, wExec 4 ⟨wQ (wRec 0 []), true, none, none, true⟩, by decide +kernel⟩,
   ⟨0, 7, 0, ⟨wQ (wRec 0 []), true, (some ⟨9, 1⟩), none, false⟩, ⟨9, 1⟩, wExec 7 ⟨wQ (wRec 0 []), true, (some ⟨9, 1⟩), none, false⟩, by decide +kernel⟩,
   ⟨0, 4, 1, wJob, by decide +kernel⟩,
   ⟨0, 4, 0, ⟨wQ (wRec 0 []), false, none, none, false⟩, wExec 4 ⟨wQ (wRec 0 []), false, none, none, false⟩, by decide +kernel⟩⟩

theorem witness_RecordsStart :
    (∃ (k : Nat) (e : Nat) (q : QRec) (s : State), s.ready k e = some q ∧ recOpcode q.bits = 0x00 ∧ ((s.predOf k q.bits).1 = .run ∨ (s.predOf k q.bits).1 = .skip)) ∧
    (∃ (k : Nat) (a : Nat) (q : QRec) (s : State), a < 4 ∧ s.ready k a = some q ∧ recOpcode q.bits = 0x10 ∧ (s.predOf k q.bits).1 = .run ∧ (bitOf q.bits 688 = true ∨ (s.arr k a).loadq < 16)) ∧
    (∃ (k : Nat) (a : Nat) (q : QRec) (s : State), s.ready k a = some q ∧ bitOf q.bits 688 = false ∧ 16 ≤ (s.arr k a).loadq) ∧
    (∃ (k : Nat) (j : Nat) (q : QRec) (s : State), j < 2 ∧ s.ready k (5 + j) = some q ∧ recOpcode q.bits = 0x30 ∧ (s.predOf k q.bits).1 = .run ∧ aoSpace (byteFld q.bits 16 8) = 1) ∧
    (∃ (k : Nat) (j : Nat) (q : QRec) (s : State), j < 2 ∧ s.ready k (5 + j) = some q ∧ recOpcode q.bits = 0x30 ∧ (s.predOf k q.bits).1 = .run ∧ aoSpace (byteFld q.bits 16 8) ≠ 1) ∧
    (∃ (k : Nat) (a : Nat) (q : QRec) (s : State), a < 4 ∧ s.ready k a = some q ∧ recOpcode q.bits = 0x10 ∧ (s.predOf k q.bits).1 = .skip ∧ (bitOf q.bits 688 = true ∨ (s.arr k a).loadq < 16)) ∧
    (∃ (k : Nat) (e : Nat) (s : State), s.ready k e = none) :=
  ⟨⟨0, 2, wQ (wRec 0 []), wQueue 2 (wRec 0 []), by decide +kernel⟩,
   ⟨0, 3, wQ (wRec 0x10 []), wQueue 3 (wRec 0x10 []), by decide +kernel⟩,
   ⟨0, 0, wQ (wRec 0x10 []), (wQueue 0 (wRec 0x10 [])).modCore 0 fun c => { c with arrs := [(0, { ArrSt.zero with ops := List.replicate 16 ⟨wQ (wRec 0x10 []), 0, .queued⟩ })] }, by decide +kernel⟩,
   ⟨0, 1, wQ (wRec 0x30 [bfld 16 8 (vaOp 0x100)]), wQueue 6 (wRec 0x30 [bfld 16 8 (vaOp 0x100)]), by decide +kernel⟩,
   ⟨0, 1, wQ (wRec 0x30 []), wQueue 6 (wRec 0x30 []), by decide +kernel⟩,
   ⟨0, 0, wQ (wRec 0x10 [⟨11, 11, 1⟩]), wQueue 0 (wRec 0x10 [⟨11, 11, 1⟩]), by decide +kernel⟩,
   ⟨0, 5, wJob, by decide +kernel⟩⟩

theorem witness_ArrayRecords :
    (∃ (k : Nat) (a : Nat) (r : MmRun) (tl : Tile) (u : State) (s : State), s.running = true ∧ (s.arr k a).refetch = false ∧ (s.arr k a).ops.find? (fun x => x.load == .queued) = some r ∧ (s.arr k a).landing + (mmOf r.q.bits).tileBytes ≤ 131072 ∧ s.fetchTile false (s.accOf k r.q) r.q.bits = (.ok tl, u)) ∧
    (∃ (k : Nat) (a : Nat) (r : MmRun) (f : Flt) (u : State) (s : State), s.running = true ∧ (s.arr k a).refetch = false ∧ (s.arr k a).ops.find? (fun x => x.load == .queued) = some r ∧ (s.arr k a).landing + (mmOf r.q.bits).tileBytes ≤ 131072 ∧ s.fetchTile false (s.accOf k r.q) r.q.bits = (.error f, u)) ∧
    (∃ (k : Nat) (a : Nat) (r : MmRun) (s : State), (s.arr k a).refetch = false ∧ (s.arr k a).ops.find? (fun x => x.load == .queued) = some r ∧ 131072 < (s.arr k a).landing + (mmOf r.q.bits).tileBytes) ∧
    (∃ (k : Nat) (a : Nat) (r : MmRun) (l : List MmRun) (s : State) (f : _), s.running = true ∧ (s.arr k a).refetch = false ∧ (s.arr k a).swap.ops = r :: l ∧ r.load = .active ∧ ((s.modArr k a ArrSt.swap).runVector k a r (((s.arr k a).swap.active).getD ⟨(mmOf r.q.bits).statFmt, 0, 0, [], [], 0⟩)).1 = some f) ∧
    (∃ (k : Nat) (a : Nat) (r : MmRun) (l : List MmRun) (s : State), s.running = true ∧ (s.arr k a).refetch = false ∧ (s.arr k a).swap.ops = r :: l ∧ r.load = .active ∧ ((s.modArr k a ArrSt.swap).runVector k a r (((s.arr k a).swap.active).getD ⟨(mmOf r.q.bits).statFmt, 0, 0, [], [], 0⟩)).1 = none ∧ r.next + 1 = (mmOf r.q.bits).nvec) ∧
    (∃ (k : Nat) (a : Nat) (r : MmRun) (l : List MmRun) (s : State), s.running = true ∧ (s.arr k a).refetch = false ∧ (s.arr k a).swap.ops = r :: l ∧ r.load = .active ∧ ((s.modArr k a ArrSt.swap).runVector k a r (((s.arr k a).swap.active).getD ⟨(mmOf r.q.bits).statFmt, 0, 0, [], [], 0⟩)).1 = none ∧ r.next + 1 ≠ (mmOf r.q.bits).nvec) ∧
    (∃ (k : Nat) (a : Nat) (r : MmRun) (l : List MmRun) (tl : Tile) (b : Bytes) (xs : List FVal) (u : State) (s : State), s.running = true ∧ (s.arr k a).refetch = false ∧ (s.arr k a).swap.ops = r :: l ∧ r.load = .active ∧ (s.arr k a).swap.active = some tl ∧ s.staleRec k a r.q = false ∧ (mmOf r.q.bits).cbuf = false ∧ (mmOf r.q.bits).accum = false ∧ (s.modArr k a ArrSt.swap).streamed ((s.modArr k a ArrSt.swap).accOf k r.q) (mmOf r.q.bits) tl r.next = (.ok (b, xs), u)) ∧
    (∃ (k : Nat) (a : Nat) (r : MmRun) (l : List MmRun) (s : State), s.running = true ∧ (s.arr k a).refetch = false ∧ (s.arr k a).swap.ops = r :: l ∧ r.load = .active ∧ (s.arr k a).swap.replayed = false) ∧
    (∃ (k : Nat) (a : Nat) (r : MmRun) (l : List MmRun) (s : State), s.running = true ∧ (s.arr k a).refetch = false ∧ (s.arr k a).swap.ops = r :: l ∧ r.load = .active ∧ (s.arr k a).swap.replayed = true) ∧
    (∃ (k : Nat) (x : ShadowEnt) (rest : List ShadowEnt) (s : State) (f : _), s.running = true ∧ s.vecBusy k = false ∧ (s.core k).shadowQ = x :: rest ∧ ((s.modCore k fun c => { c with shadowQ := rest }).fetchTile true ⟨((s.coreOwner k).getD 0), Tbl.get 0 s.gfe.activeCtx ((s.coreOwner k).getD 0), some x.step, coreTile k, k, false⟩ x.src).1 = .error f) ∧
    (∃ (k : Nat) (x : ShadowEnt) (rest : List ShadowEnt) (s : State) (tl : _), s.running = true ∧ s.vecBusy k = false ∧ (s.core k).shadowQ = x :: rest ∧ ((s.modCore k fun c => { c with shadowQ := rest }).fetchTile true ⟨((s.coreOwner k).getD 0), Tbl.get 0 s.gfe.activeCtx ((s.coreOwner k).getD 0), some x.step, coreTile k, k, false⟩ x.src).1 = .ok tl ∧ (∀ c, c ∈ x.check tl → c.agree = true)) ∧
    (∃ (k : Nat) (x : ShadowEnt) (rest : List ShadowEnt) (s : State) (tl : _), s.running = true ∧ s.vecBusy k = false ∧ (s.core k).shadowQ = x :: rest ∧ ((s.modCore k fun c => { c with shadowQ := rest }).fetchTile true ⟨((s.coreOwner k).getD 0), Tbl.get 0 s.gfe.activeCtx ((s.coreOwner k).getD 0), some x.step, coreTile k, k, false⟩ x.src).1 = .ok tl ∧ (∃ c, c ∈ x.check tl ∧ c.agree = false)) ∧
    (∃ (st : Nat) (h : Nat) (ws : List FVal) (xs : List FVal) (ea : Int), specials ws xs = none ∧ alignE xs = some ea) :=
  ⟨⟨0, 0, ⟨wQ (wRec 0x10 [bfld 16 8 (cbOp 0), bfld 32 8 (cbOp 0), bfld 56 8 (cbOp 4096), bfld 76 4 512, bfld 80 2 0, bfld 84 1 0x11, ⟨688, 688, 0⟩, ⟨692, 692, 1⟩]), 0, .queued⟩, (match ((((wExecArr (⟨wQ (wRec 0x10 [bfld 16 8 (cbOp 0), bfld 32 8 (cbOp 0), bfld 56 8 (cbOp 4096), bfld 76 4 512, bfld 80 2 0, bfld 84 1 0x11, ⟨688, 688, 0⟩, ⟨692, 692, 1⟩]), 0, .queued⟩) fun x => { x with active := none })).fetchTile false (((wExecArr (⟨wQ (wRec 0x10 [bfld 16 8 (cbOp 0), bfld 32 8 (cbOp 0), bfld 56 8 (cbOp 4096), bfld 76 4 512, bfld 80 2 0, bfld 84 1 0x11, ⟨688, 688, 0⟩, ⟨692, 692, 1⟩]), 0, .queued⟩) fun x => { x with active := none })).accOf 0 (⟨wQ (wRec 0x10 [bfld 16 8 (cbOp 0), bfld 32 8 (cbOp 0), bfld 56 8 (cbOp 4096), bfld 76 4 512, bfld 80 2 0, bfld 84 1 0x11, ⟨688, 688, 0⟩, ⟨692, 692, 1⟩]), 0, .queued⟩:MmRun).q) (⟨wQ (wRec 0x10 [bfld 16 8 (cbOp 0), bfld 32 8 (cbOp 0), bfld 56 8 (cbOp 4096), bfld 76 4 512, bfld 80 2 0, bfld 84 1 0x11, ⟨688, 688, 0⟩, ⟨692, 692, 1⟩]), 0, .queued⟩:MmRun).q.bits).1) with | .ok x => x | .error _ => (⟨0, 0, 0, [], [], 0⟩ : Tile)), (((wExecArr (⟨wQ (wRec 0x10 [bfld 16 8 (cbOp 0), bfld 32 8 (cbOp 0), bfld 56 8 (cbOp 4096), bfld 76 4 512, bfld 80 2 0, bfld 84 1 0x11, ⟨688, 688, 0⟩, ⟨692, 692, 1⟩]), 0, .queued⟩) fun x => { x with active := none })).fetchTile false (((wExecArr (⟨wQ (wRec 0x10 [bfld 16 8 (cbOp 0), bfld 32 8 (cbOp 0), bfld 56 8 (cbOp 4096), bfld 76 4 512, bfld 80 2 0, bfld 84 1 0x11, ⟨688, 688, 0⟩, ⟨692, 692, 1⟩]), 0, .queued⟩) fun x => { x with active := none })).accOf 0 (⟨wQ (wRec 0x10 [bfld 16 8 (cbOp 0), bfld 32 8 (cbOp 0), bfld 56 8 (cbOp 4096), bfld 76 4 512, bfld 80 2 0, bfld 84 1 0x11, ⟨688, 688, 0⟩, ⟨692, 692, 1⟩]), 0, .queued⟩:MmRun).q) (⟨wQ (wRec 0x10 [bfld 16 8 (cbOp 0), bfld 32 8 (cbOp 0), bfld 56 8 (cbOp 4096), bfld 76 4 512, bfld 80 2 0, bfld 84 1 0x11, ⟨688, 688, 0⟩, ⟨692, 692, 1⟩]), 0, .queued⟩:MmRun).q.bits).2, (wExecArr (⟨wQ (wRec 0x10 [bfld 16 8 (cbOp 0), bfld 32 8 (cbOp 0), bfld 56 8 (cbOp 4096), bfld 76 4 512, bfld 80 2 0, bfld 84 1 0x11, ⟨688, 688, 0⟩, ⟨692, 692, 1⟩]), 0, .queued⟩) fun x => { x with active := none }), by decide +kernel, by decide +kernel, by decide +kernel, by decide +kernel, samePair_eq _ _ (by decide +kernel) (by decide +kernel)⟩,
   ⟨0, 0, ⟨wQ (wRec 0x10 [bfld 16 8 (vaOp (2 ^ 40)), bfld 84 1 0x11]), 0, .queued⟩, _, _, (wExecArr (⟨wQ (wRec 0x10 [bfld 16 8 (vaOp (2 ^ 40)), bfld 84 1 0x11]), 0, .queued⟩) fun x => { x with active := none }), by decide +kernel, by decide +kernel, by decide +kernel, by decide +kernel, errPair_eq _ (by decide +kernel)⟩,
   ⟨0, 0, ⟨wQ (wRec 0x10 [bfld 16 8 (cbOp 0), bfld 32 8 (cbOp 0), bfld 56 8 (cbOp 4096), bfld 76 4 512, bfld 80 2 0, bfld 84 1 0x11, ⟨688, 688, 0⟩, ⟨692, 692, 1⟩]), 0, .queued⟩, (wJob.modCore 0 fun c => { c with arrs := [(0, { ArrSt.zero with ops := [⟨wQ (wRec 0x10 [bfld 82 1 127, bfld 83 1 127, bfld 84 1 0x10]), 0, .landed (⟨0, 0, 0, [], [], 0⟩ : Tile)⟩, ⟨wQ (wRec 0x10 [bfld 82 1 127, bfld 83 1 127, bfld 84 1 0x10]), 0, .landed (⟨0, 0, 0, [], [], 0⟩ : Tile)⟩, ⟨wQ (wRec 0x10 [bfld 16 8 (cbOp 0), bfld 32 8 (cbOp 0), bfld 56 8 (cbOp 4096), bfld 76 4 512, bfld 80 2 0, bfld 84 1 0x11, ⟨688, 688, 0⟩, ⟨692, 692, 1⟩]), 0, .queued⟩] })] }), by decide +kernel⟩,
   ⟨0, 0, ⟨wQ (wRec 0x10 [bfld 32 8 (vaOp (2 ^ 40)), bfld 84 1 0x11]), 0, .active⟩, [], (wExecArr (⟨wQ (wRec 0x10 [bfld 32 8 (vaOp (2 ^ 40)), bfld 84 1 0x11]), 0, .active⟩) fun x => { x with active := some ⟨1, 1, 1, [[0x3F80]], [], 0⟩ }), (((((((wExecArr (⟨wQ (wRec 0x10 [bfld 32 8 (vaOp (2 ^ 40)), bfld 84 1 0x11]), 0, .active⟩) fun x => { x with active := some ⟨1, 1, 1, [[0x3F80]], [], 0⟩ })).modArr 0 0 ArrSt.swap).runVector 0 0 ⟨wQ (wRec 0x10 [bfld 32 8 (vaOp (2 ^ 40)), bfld 84 1 0x11]), 0, .active⟩ (((((wExecArr (⟨wQ (wRec 0x10 [bfld 32 8 (vaOp (2 ^ 40)), bfld 84 1 0x11]), 0, .active⟩) fun x => { x with active := some ⟨1, 1, 1, [[0x3F80]], [], 0⟩ })).arr 0 0).swap.active).getD (⟨0, 0, 0, [], [], 0⟩ : Tile)))).1).getD ⟨errOk, 0⟩ : Flt), by decide +kernel⟩,
   ⟨0, 0, ⟨wQ (wRec 0x10 [bfld 16 8 (cbOp 0), bfld 32 8 (cbOp 0), bfld 56 8 (cbOp 4096), bfld 76 4 512, bfld 80 2 0, bfld 84 1 0x11, ⟨688, 688, 0⟩, ⟨692, 692, 1⟩]), 0, .active⟩, [], (wExecArr (⟨wQ (wRec 0x10 [bfld 16 8 (cbOp 0), bfld 32 8 (cbOp 0), bfld 56 8 (cbOp 4096), bfld 76 4 512, bfld 80 2 0, bfld 84 1 0x11, ⟨688, 688, 0⟩, ⟨692, 692, 1⟩]), 0, .active⟩) fun x => { x with active := some ⟨1, 1, 1, [[0x3F80]], [], 0⟩ }), by decide +kernel⟩,
   ⟨0, 0, ⟨wQ (wRec 0x10 [bfld 16 8 (cbOp 0), bfld 32 8 (cbOp 0), bfld 56 8 (cbOp 4096), bfld 76 4 512, bfld 80 2 1, bfld 84 1 0x11, ⟨688, 688, 0⟩, ⟨692, 692, 1⟩]), 0, .active⟩, [], (wExecArr (⟨wQ (wRec 0x10 [bfld 16 8 (cbOp 0), bfld 32 8 (cbOp 0), bfld 56 8 (cbOp 4096), bfld 76 4 512, bfld 80 2 1, bfld 84 1 0x11, ⟨688, 688, 0⟩, ⟨692, 692, 1⟩]), 0, .active⟩) fun x => { x with active := some ⟨1, 1, 1, [[0x3F80]], [], 0⟩ }), by decide +kernel⟩,
   ⟨0, 0, ⟨wQ (wRec 0x10 [bfld 16 8 (cbOp 0), bfld 32 8 (cbOp 0), bfld 56 8 (cbOp 4096), bfld 76 4 512, bfld 80 2 0, bfld 84 1 0x11, ⟨688, 688, 0⟩, ⟨692, 692, 0⟩]), 0, .active⟩, [], ⟨1, 1, 1, [[0x3F80]], [], 0⟩, (((match (((((wExecArr (⟨wQ (wRec 0x10 [bfld 16 8 (cbOp 0), bfld 32 8 (cbOp 0), bfld 56 8 (cbOp 4096), bfld 76 4 512, bfld 80 2 0, bfld 84 1 0x11, ⟨688, 688, 0⟩, ⟨692, 692, 0⟩]), 0, .active⟩) fun x => { x with active := some ⟨1, 1, 1, [[0x3F80]], [], 0⟩ })).modArr 0 0 ArrSt.swap).streamed ((((wExecArr (⟨wQ (wRec 0x10 [bfld 16 8 (cbOp 0), bfld 32 8 (cbOp 0), bfld 56 8 (cbOp 4096), bfld 76 4 512, bfld 80 2 0, bfld 84 1 0x11, ⟨688, 688, 0⟩, ⟨692, 692, 0⟩]), 0, .active⟩) fun x => { x with active := some ⟨1, 1, 1, [[0x3F80]], [], 0⟩ })).modArr 0 0 ArrSt.swap).accOf 0 (⟨wQ (wRec 0x10 [bfld 16 8 (cbOp 0), bfld 32 8 (cbOp 0), bfld 56 8 (cbOp 4096), bfld 76 4 512, bfld 80 2 0, bfld 84 1 0x11, ⟨688, 688, 0⟩, ⟨692, 692, 0⟩]), 0, .active⟩:MmRun).q) (mmOf (⟨wQ (wRec 0x10 [bfld 16 8 (cbOp 0), bfld 32 8 (cbOp 0), bfld 56 8 (cbOp 4096), bfld 76 4 512, bfld 80 2 0, bfld 84 1 0x11, ⟨688, 688, 0⟩, ⟨692, 692, 0⟩]), 0, .active⟩:MmRun).q.bits) ⟨1, 1, 1, [[0x3F80]], [], 0⟩ 0).1) with | .ok x => x | .error _ => ([], []))).1), (((match (((((wExecArr (⟨wQ (wRec 0x10 [bfld 16 8 (cbOp 0), bfld 32 8 (cbOp 0), bfld 56 8 (cbOp 4096), bfld 76 4 512, bfld 80 2 0, bfld 84 1 0x11, ⟨688, 688, 0⟩, ⟨692, 692, 0⟩]), 0, .active⟩) fun x => { x with active := some ⟨1, 1, 1, [[0x3F80]], [], 0⟩ })).modArr 0 0 ArrSt.swap).streamed ((((wExecArr (⟨wQ (wRec 0x10 [bfld 16 8 (cbOp 0), bfld 32 8 (cbOp 0), bfld 56 8 (cbOp 4096), bfld 76 4 512, bfld 80 2 0, bfld 84 1 0x11, ⟨688, 688, 0⟩, ⟨692, 692, 0⟩]), 0, .active⟩) fun x => { x with active := some ⟨1, 1, 1, [[0x3F80]], [], 0⟩ })).modArr 0 0 ArrSt.swap).accOf 0 (⟨wQ (wRec 0x10 [bfld 16 8 (cbOp 0), bfld 32 8 (cbOp 0), bfld 56 8 (cbOp 4096), bfld 76 4 512, bfld 80 2 0, bfld 84 1 0x11, ⟨688, 688, 0⟩, ⟨692, 692, 0⟩]), 0, .active⟩:MmRun).q) (mmOf (⟨wQ (wRec 0x10 [bfld 16 8 (cbOp 0), bfld 32 8 (cbOp 0), bfld 56 8 (cbOp 4096), bfld 76 4 512, bfld 80 2 0, bfld 84 1 0x11, ⟨688, 688, 0⟩, ⟨692, 692, 0⟩]), 0, .active⟩:MmRun).q.bits) ⟨1, 1, 1, [[0x3F80]], [], 0⟩ 0).1) with | .ok x => x | .error _ => ([], []))).2), ((((wExecArr (⟨wQ (wRec 0x10 [bfld 16 8 (cbOp 0), bfld 32 8 (cbOp 0), bfld 56 8 (cbOp 4096), bfld 76 4 512, bfld 80 2 0, bfld 84 1 0x11, ⟨688, 688, 0⟩, ⟨692, 692, 0⟩]), 0, .active⟩) fun x => { x with active := some ⟨1, 1, 1, [[0x3F80]], [], 0⟩ })).modArr 0 0 ArrSt.swap).streamed ((((wExecArr (⟨wQ (wRec 0x10 [bfld 16 8 (cbOp 0), bfld 32 8 (cbOp 0), bfld 56 8 (cbOp 4096), bfld 76 4 512, bfld 80 2 0, bfld 84 1 0x11, ⟨688, 688, 0⟩, ⟨692, 692, 0⟩]), 0, .active⟩) fun x => { x with active := some ⟨1, 1, 1, [[0x3F80]], [], 0⟩ })).modArr 0 0 ArrSt.swap).accOf 0 (⟨wQ (wRec 0x10 [bfld 16 8 (cbOp 0), bfld 32 8 (cbOp 0), bfld 56 8 (cbOp 4096), bfld 76 4 512, bfld 80 2 0, bfld 84 1 0x11, ⟨688, 688, 0⟩, ⟨692, 692, 0⟩]), 0, .active⟩:MmRun).q) (mmOf (⟨wQ (wRec 0x10 [bfld 16 8 (cbOp 0), bfld 32 8 (cbOp 0), bfld 56 8 (cbOp 4096), bfld 76 4 512, bfld 80 2 0, bfld 84 1 0x11, ⟨688, 688, 0⟩, ⟨692, 692, 0⟩]), 0, .active⟩:MmRun).q.bits) ⟨1, 1, 1, [[0x3F80]], [], 0⟩ 0).2, (wExecArr (⟨wQ (wRec 0x10 [bfld 16 8 (cbOp 0), bfld 32 8 (cbOp 0), bfld 56 8 (cbOp 4096), bfld 76 4 512, bfld 80 2 0, bfld 84 1 0x11, ⟨688, 688, 0⟩, ⟨692, 692, 0⟩]), 0, .active⟩) fun x => { x with active := some ⟨1, 1, 1, [[0x3F80]], [], 0⟩ }), by decide +kernel, by decide +kernel, by decide +kernel, by decide +kernel, by decide +kernel, by decide +kernel, by decide +kernel, by decide +kernel, samePair_eq _ _ (by decide +kernel) (by decide +kernel)⟩,
   ⟨0, 0, ⟨wQ (wRec 0x10 [bfld 16 8 (cbOp 0), bfld 32 8 (cbOp 0), bfld 56 8 (cbOp 4096), bfld 76 4 512, bfld 80 2 0, bfld 84 1 0x11, ⟨688, 688, 0⟩, ⟨692, 692, 1⟩]), 0, .active⟩, [], (wExecArr (⟨wQ (wRec 0x10 [bfld 16 8 (cbOp 0), bfld 32 8 (cbOp 0), bfld 56 8 (cbOp 4096), bfld 76 4 512, bfld 80 2 0, bfld 84 1 0x11, ⟨688, 688, 0⟩, ⟨692, 692, 1⟩]), 0, .active⟩) fun x => { x with active := some ⟨1, 1, 1, [[0x3F80]], [], 0⟩ }), by decide +kernel⟩,
   ⟨0, 0, ⟨wQ (wRec 0x10 [bfld 16 8 (cbOp 0), bfld 32 8 (cbOp 0), bfld 56 8 (cbOp 4096), bfld 76 4 512, bfld 80 2 0, bfld 84 1 0x11, ⟨688, 688, 0⟩, ⟨692, 692, 1⟩]), 0, .active⟩, [], (wExecArr (⟨wQ (wRec 0x10 [bfld 16 8 (cbOp 0), bfld 32 8 (cbOp 0), bfld 56 8 (cbOp 4096), bfld 76 4 512, bfld 80 2 0, bfld 84 1 0x11, ⟨688, 688, 0⟩, ⟨692, 692, 1⟩]), 0, .active⟩) fun x => { x with active := some ⟨1, 1, 1, [[0x3F80]], [], 0⟩, replayed := true }), by decide +kernel⟩,
   ⟨0, (⟨0, 0, 0, 0, 0, wRec 0x10 [bfld 16 8 (vaOp (2 ^ 40)), bfld 84 1 0x11], wRec 0x10 [bfld 16 8 (vaOp (2 ^ 40)), bfld 84 1 0x11], [], [], 0, 0⟩ : ShadowEnt), [], (wJob.modCore 0 fun c => { c with shadowQ := [(⟨0, 0, 0, 0, 0, wRec 0x10 [bfld 16 8 (vaOp (2 ^ 40)), bfld 84 1 0x11], wRec 0x10 [bfld 16 8 (vaOp (2 ^ 40)), bfld 84 1 0x11], [], [], 0, 0⟩ : ShadowEnt)] }), ((errOf (((((wJob.modCore 0 fun c => { c with shadowQ := [(⟨0, 0, 0, 0, 0, wRec 0x10 [bfld 16 8 (vaOp (2 ^ 40)), bfld 84 1 0x11], wRec 0x10 [bfld 16 8 (vaOp (2 ^ 40)), bfld 84 1 0x11], [], [], 0, 0⟩ : ShadowEnt)] })).modCore 0 fun c => { c with shadowQ := [] }).fetchTile true ⟨0, 0, some 0, 0, 0, false⟩ ((⟨0, 0, 0, 0, 0, wRec 0x10 [bfld 16 8 (vaOp (2 ^ 40)), bfld 84 1 0x11], wRec 0x10 [bfld 16 8 (vaOp (2 ^ 40)), bfld 84 1 0x11], [], [], 0, 0⟩ : ShadowEnt)).src).1)) : Flt), by decide +kernel, by decide +kernel, by decide +kernel, errOf_eq _ (by decide +kernel)⟩,
   ⟨0, (⟨0, 0, 0, 0, 0, wRec 0x10 [bfld 16 8 (cbOp 0), bfld 32 8 (cbOp 0), bfld 56 8 (cbOp 4096), bfld 76 4 512, bfld 80 2 0, bfld 84 1 0x11, ⟨688, 688, 0⟩, ⟨692, 692, 1⟩], wRec 0x10 [bfld 16 8 (cbOp 0), bfld 32 8 (cbOp 0), bfld 56 8 (cbOp 4096), bfld 76 4 512, bfld 80 2 0, bfld 84 1 0x11, ⟨688, 688, 0⟩, ⟨692, 692, 1⟩], [0, 0], [0], 0, 0⟩ : ShadowEnt), [], (wJob.modCore 0 fun c => { c with shadowQ := [(⟨0, 0, 0, 0, 0, wRec 0x10 [bfld 16 8 (cbOp 0), bfld 32 8 (cbOp 0), bfld 56 8 (cbOp 4096), bfld 76 4 512, bfld 80 2 0, bfld 84 1 0x11, ⟨688, 688, 0⟩, ⟨692, 692, 1⟩], wRec 0x10 [bfld 16 8 (cbOp 0), bfld 32 8 (cbOp 0), bfld 56 8 (cbOp 4096), bfld 76 4 512, bfld 80 2 0, bfld 84 1 0x11, ⟨688, 688, 0⟩, ⟨692, 692, 1⟩], [0, 0], [0], 0, 0⟩ : ShadowEnt)] }), ((match (((((wJob.modCore 0 fun c => { c with shadowQ := [(⟨0, 0, 0, 0, 0, wRec 0x10 [bfld 16 8 (cbOp 0), bfld 32 8 (cbOp 0), bfld 56 8 (cbOp 4096), bfld 76 4 512, bfld 80 2 0, bfld 84 1 0x11, ⟨688, 688, 0⟩, ⟨692, 692, 1⟩], wRec 0x10 [bfld 16 8 (cbOp 0), bfld 32 8 (cbOp 0), bfld 56 8 (cbOp 4096), bfld 76 4 512, bfld 80 2 0, bfld 84 1 0x11, ⟨688, 688, 0⟩, ⟨692, 692, 1⟩], [0, 0], [0], 0, 0⟩ : ShadowEnt)] })).modCore 0 fun c => { c with shadowQ := [] }).fetchTile true ⟨0, 0, some 0, 0, 0, false⟩ ((⟨0, 0, 0, 0, 0, wRec 0x10 [bfld 16 8 (cbOp 0), bfld 32 8 (cbOp 0), bfld 56 8 (cbOp 4096), bfld 76 4 512, bfld 80 2 0, bfld 84 1 0x11, ⟨688, 688, 0⟩, ⟨692, 692, 1⟩], wRec 0x10 [bfld 16 8 (cbOp 0), bfld 32 8 (cbOp 0), bfld 56 8 (cbOp 4096), bfld 76 4 512, bfld 80 2 0, bfld 84 1 0x11, ⟨688, 688, 0⟩, ⟨692, 692, 1⟩], [0, 0], [0], 0, 0⟩ : ShadowEnt)).src).1) with | .ok x => x | .error _ => (⟨0, 0, 0, [], [], 0⟩ : Tile)) : Tile), by decide +kernel, by decide +kernel, by decide +kernel, sameRes_eq _ _ (by decide +kernel), by decide +kernel⟩,
   ⟨0, (⟨0, 0, 0, 0, 0, wRec 0x10 [bfld 16 8 (cbOp 0), bfld 32 8 (cbOp 0), bfld 56 8 (cbOp 4096), bfld 76 4 512, bfld 80 2 0, bfld 84 1 0x11, ⟨688, 688, 0⟩, ⟨692, 692, 1⟩], wRec 0x10 [bfld 16 8 (cbOp 0), bfld 32 8 (cbOp 0), bfld 56 8 (cbOp 4096), bfld 76 4 512, bfld 80 2 0, bfld 84 1 0x11, ⟨688, 688, 0⟩, ⟨692, 692, 1⟩], [0, 0], [0x3F800000], 0, 0⟩ : ShadowEnt), [], (wJob.modCore 0 fun c => { c with shadowQ := [(⟨0, 0, 0, 0, 0, wRec 0x10 [bfld 16 8 (cbOp 0), bfld 32 8 (cbOp 0), bfld 56 8 (cbOp 4096), bfld 76 4 512, bfld 80 2 0, bfld 84 1 0x11, ⟨688, 688, 0⟩, ⟨692, 692, 1⟩], wRec 0x10 [bfld 16 8 (cbOp 0), bfld 32 8 (cbOp 0), bfld 56 8 (cbOp 4096), bfld 76 4 512, bfld 80 2 0, bfld 84 1 0x11, ⟨688, 688, 0⟩, ⟨692, 692, 1⟩], [0, 0], [0x3F800000], 0, 0⟩ : ShadowEnt)] }), ((match (((((wJob.modCore 0 fun c => { c with shadowQ := [(⟨0, 0, 0, 0, 0, wRec 0x10 [bfld 16 8 (cbOp 0), bfld 32 8 (cbOp 0), bfld 56 8 (cbOp 4096), bfld 76 4 512, bfld 80 2 0, bfld 84 1 0x11, ⟨688, 688, 0⟩, ⟨692, 692, 1⟩], wRec 0x10 [bfld 16 8 (cbOp 0), bfld 32 8 (cbOp 0), bfld 56 8 (cbOp 4096), bfld 76 4 512, bfld 80 2 0, bfld 84 1 0x11, ⟨688, 688, 0⟩, ⟨692, 692, 1⟩], [0, 0], [0x3F800000], 0, 0⟩ : ShadowEnt)] })).modCore 0 fun c => { c with shadowQ := [] }).fetchTile true ⟨0, 0, some 0, 0, 0, false⟩ ((⟨0, 0, 0, 0, 0, wRec 0x10 [bfld 16 8 (cbOp 0), bfld 32 8 (cbOp 0), bfld 56 8 (cbOp 4096), bfld 76 4 512, bfld 80 2 0, bfld 84 1 0x11, ⟨688, 688, 0⟩, ⟨692, 692, 1⟩], wRec 0x10 [bfld 16 8 (cbOp 0), bfld 32 8 (cbOp 0), bfld 56 8 (cbOp 4096), bfld 76 4 512, bfld 80 2 0, bfld 84 1 0x11, ⟨688, 688, 0⟩, ⟨692, 692, 1⟩], [0, 0], [0x3F800000], 0, 0⟩ : ShadowEnt)).src).1) with | .ok x => x | .error _ => (⟨0, 0, 0, [], [], 0⟩ : Tile)) : Tile), by decide +kernel, by decide +kernel, by decide +kernel, sameRes_eq _ _ (by decide +kernel), by decide +kernel⟩,
   ⟨4, 4, [.fin false 1 0], [.fin false 1 0], ((alignE [.fin false 1 0]).getD 0), by decide +kernel⟩⟩

theorem witness_VectorRecords :
    (∃ (k : Nat) (q : QRec) (s : State), s.ready k 4 = some q ∧ (s.predOf k q.bits).1 = .run ∧ recOpcode q.bits = 0x20 ∧ (vecOf q.bits).sub ≤ 0x0A) ∧
    (∃ (k : Nat) (q : QRec) (s : State), s.ready k 4 = some q ∧ (s.predOf k q.bits).1 = .run ∧ recOpcode q.bits = 0x20 ∧ 0x0A < (vecOf q.bits).sub) ∧
    (∃ (k : Nat) (q : QRec) (s : State), s.ready k 4 = some q ∧ (s.predOf k q.bits).1 = .run ∧ recOpcode q.bits = 0x21 ∧ (vecOf q.bits).sub ≤ 4) ∧
    (∃ (k : Nat) (q : QRec) (s : State), s.ready k 4 = some q ∧ (s.predOf k q.bits).1 = .run ∧ recOpcode q.bits = 0x21 ∧ 4 < (vecOf q.bits).sub) ∧
    (∃ (k : Nat) (q : QRec) (s : State), s.ready k 4 = some q ∧ (s.predOf k q.bits).1 = .run ∧ recOpcode q.bits = 0x22 ∧ (vecOf q.bits).sub ≤ 3) ∧
    (∃ (k : Nat) (q : QRec) (s : State), s.ready k 4 = some q ∧ (s.predOf k q.bits).1 = .run ∧ recOpcode q.bits = 0x22 ∧ 3 < (vecOf q.bits).sub) ∧
    (∃ (k : Nat) (q : QRec) (s : State), s.ready k 4 = some q ∧ (s.predOf k q.bits).1 = .run ∧ recOpcode q.bits = 0x23 ∧ 1 ≤ (vecOf q.bits).imm1 ∧ (vecOf q.bits).imm1 ≤ 16) ∧
    (∃ (k : Nat) (q : QRec) (s : State), s.ready k 4 = some q ∧ (s.predOf k q.bits).1 = .run ∧ recOpcode q.bits = 0x23 ∧ ((vecOf q.bits).imm1 = 0 ∨ 16 < (vecOf q.bits).imm1)) ∧
    (∃ (k : Nat) (q : QRec) (s : State), s.ready k 4 = some q ∧ (s.predOf k q.bits).1 = .run ∧ recOpcode q.bits = 0x24 ∧ (vecOf q.bits).sub ≤ 1) ∧
    (∃ (k : Nat) (q : QRec) (s : State), s.ready k 4 = some q ∧ (s.predOf k q.bits).1 = .run ∧ recOpcode q.bits = 0x24 ∧ 1 < (vecOf q.bits).sub) ∧
    (∃ (k : Nat) (q : QRec) (s : State), s.ready k 4 = some q ∧ (s.predOf k q.bits).1 = .run ∧ recOpcode q.bits = 0x25) ∧
    (∃ (k : Nat) (q : QRec) (s : State), s.ready k 4 = some q ∧ (s.predOf k q.bits).1 = .run ∧ recOpcode q.bits = 0x26) ∧
    (∃ (k : Nat) (q : QRec) (s : State), s.ready k 4 = some q ∧ recPred q.bits = false ∧ recOpcode q.bits = 0x20 ∧ s.upsets = [] ∧ (vecOf q.bits).sub ≤ 0x0A ∧ (vecOf q.bits).fmtA = 0 ∧ (vecOf q.bits).fmtB = 0 ∧ (vecOf q.bits).fmtC = 0 ∧ (vecOf q.bits).conv = 0 ∧ (vecOf q.bits).rows = 1 ∧ 1 ≤ (vecOf q.bits).len ∧ (∀ ao, ao ∈ [(vecOf q.bits).srcA, (vecOf q.bits).srcB, (vecOf q.bits).srcC, (vecOf q.bits).dst] → aoSpace ao = 2 ∧ aoAddr ao + 4 * (vecOf q.bits).len ≤ 2 ^ 23)) ∧
    (∃ (k : Nat) (q : QRec) (s : State) (u2 : State) (u3 : State) (u4 : State) (u5 : State) (cb : Bytes) (rows : List (List FVal × List Nat)), s.ready k 4 = some q ∧ (s.predOf k q.bits).1 = .run ∧ recOpcode q.bits = 0x27 ∧ (((s.start k 4 ⟨q, false, none, none, false⟩).predOf k q.bits).2).vread ((((s.start k 4 ⟨q, false, none, none, false⟩).predOf k q.bits).2).accOf k q) (vecOf q.bits).srcC 0 96 = (.ok cb, u2) ∧ (sampleCtxOf cb).d ≤ 16 ∧ 1 ≤ (vecOf q.bits).len ∧ u2.sampleRows ((((s.start k 4 ⟨q, false, none, none, false⟩).predOf k q.bits).2).accOf k q) (vecOf q.bits) ((sampleCtxOf cb).d + 1) = (.ok rows, u3) ∧ (u3.vecEvents k (evsOf (rows.zipIdx.map fun x => sampleRow (sampleCtxOf cb) ((((s.start k 4 ⟨q, false, none, none, false⟩).predOf k q.bits).2).accOf k q).part x.2 x.1.1 x.1.2))).writeOp ((((s.start k 4 ⟨q, false, none, none, false⟩).predOf k q.bits).2).accOf k q) (vecOf q.bits).dst 0 (((sampleCtxOf cb).draft.take (accepted ((rows.zipIdx.map fun x => sampleRow (sampleCtxOf cb) ((((s.start k 4 ⟨q, false, none, none, false⟩).predOf k q.bits).2).accOf k q).part x.2 x.1.1 x.1.2).map (·.1)) ((sampleCtxOf cb).draft.take (sampleCtxOf cb).d)) ++ (((rows.zipIdx.map fun x => sampleRow (sampleCtxOf cb) ((((s.start k 4 ⟨q, false, none, none, false⟩).predOf k q.bits).2).accOf k q).part x.2 x.1.1 x.1.2)[(accepted ((rows.zipIdx.map fun x => sampleRow (sampleCtxOf cb) ((((s.start k 4 ⟨q, false, none, none, false⟩).predOf k q.bits).2).accOf k q).part x.2 x.1.1 x.1.2).map (·.1)) ((sampleCtxOf cb).draft.take (sampleCtxOf cb).d))]?).map (·.1)).toList).flatMap (leBytes 4)) = (none, u4) ∧ u4.writeOp ((((s.start k 4 ⟨q, false, none, none, false⟩).predOf k q.bits).2).accOf k q) (vecOf q.bits).dst2 0 (leBytes 4 (packNat [⟨4, 0, ((sampleCtxOf cb).draft.take (accepted ((rows.zipIdx.map fun x => sampleRow (sampleCtxOf cb) ((((s.start k 4 ⟨q, false, none, none, false⟩).predOf k q.bits).2).accOf k q).part x.2 x.1.1 x.1.2).map (·.1)) ((sampleCtxOf cb).draft.take (sampleCtxOf cb).d)) ++ (((rows.zipIdx.map fun x => sampleRow (sampleCtxOf cb) ((((s.start k 4 ⟨q, false, none, none, false⟩).predOf k q.bits).2).accOf k q).part x.2 x.1.1 x.1.2)[(accepted ((rows.zipIdx.map fun x => sampleRow (sampleCtxOf cb) ((((s.start k 4 ⟨q, false, none, none, false⟩).predOf k q.bits).2).accOf k q).part x.2 x.1.1 x.1.2).map (·.1)) ((sampleCtxOf cb).draft.take (sampleCtxOf cb).d))]?).map (·.1)).toList).length⟩, ⟨12, 8, (accepted ((rows.zipIdx.map fun x => sampleRow (sampleCtxOf cb) ((((s.start k 4 ⟨q, false, none, none, false⟩).predOf k q.bits).2).accOf k q).part x.2 x.1.1 x.1.2).map (·.1)) ((sampleCtxOf cb).draft.take (sampleCtxOf cb).d))⟩])) = (none, u5)) :=
  ⟨⟨0, wQ (wRec 0x20 [bfld 16 8 (cbOp 0), bfld 24 8 (cbOp 1024), bfld 32 8 (cbOp 2048), bfld 40 8 (cbOp 4096), bfld 48 8 (cbOp 8192), bfld 76 4 4, bfld 80 4 1, bfld 87 1 0, bfld 92 4 0]), wQueue 4 (wRec 0x20 [bfld 16 8 (cbOp 0), bfld 24 8 (cbOp 1024), bfld 32 8 (cbOp 2048), bfld 40 8 (cbOp 4096), bfld 48 8 (cbOp 8192), bfld 76 4 4, bfld 80 4 1, bfld 87 1 0, bfld 92 4 0]), by decide +kernel⟩,
   ⟨0, wQ (wRec 0x20 [bfld 16 8 (cbOp 0), bfld 24 8 (cbOp 1024), bfld 32 8 (cbOp 2048), bfld 40 8 (cbOp 4096), bfld 48 8 (cbOp 8192), bfld 76 4 4, bfld 80 4 1, bfld 87 1 11, bfld 92 4 0]), wQueue 4 (wRec 0x20 [bfld 16 8 (cbOp 0), bfld 24 8 (cbOp 1024), bfld 32 8 (cbOp 2048), bfld 40 8 (cbOp 4096), bfld 48 8 (cbOp 8192), bfld 76 4 4, bfld 80 4 1, bfld 87 1 11, bfld 92 4 0]), by decide +kernel⟩,
   ⟨0, wQ (wRec 0x21 [bfld 16 8 (cbOp 0), bfld 24 8 (cbOp 1024), bfld 32 8 (cbOp 2048), bfld 40 8 (cbOp 4096), bfld 48 8 (cbOp 8192), bfld 76 4 4, bfld 80 4 1, bfld 87 1 0, bfld 92 4 0]), wQueue 4 (wRec 0x21 [bfld 16 8 (cbOp 0), bfld 24 8 (cbOp 1024), bfld 32 8 (cbOp 2048), bfld 40 8 (cbOp 4096), bfld 48 8 (cbOp 8192), bfld 76 4 4, bfld 80 4 1, bfld 87 1 0, bfld 92 4 0]), by decide +kernel⟩,
   ⟨0, wQ (wRec 0x21 [bfld 16 8 (cbOp 0), bfld 24 8 (cbOp 1024), bfld 32 8 (cbOp 2048), bfld 40 8 (cbOp 4096), bfld 48 8 (cbOp 8192), bfld 76 4 4, bfld 80 4 1, bfld 87 1 5, bfld 92 4 0]), wQueue 4 (wRec 0x21 [bfld 16 8 (cbOp 0), bfld 24 8 (cbOp 1024), bfld 32 8 (cbOp 2048), bfld 40 8 (cbOp 4096), bfld 48 8 (cbOp 8192), bfld 76 4 4, bfld 80 4 1, bfld 87 1 5, bfld 92 4 0]), by decide +kernel⟩,
   ⟨0, wQ (wRec 0x22 [bfld 16 8 (cbOp 0), bfld 24 8 (cbOp 1024), bfld 32 8 (cbOp 2048), bfld 40 8 (cbOp 4096), bfld 48 8 (cbOp 8192), bfld 76 4 4, bfld 80 4 1, bfld 87 1 0, bfld 92 4 0]), wQueue 4 (wRec 0x22 [bfld 16 8 (cbOp 0), bfld 24 8 (cbOp 1024), bfld 32 8 (cbOp 2048), bfld 40 8 (cbOp 4096), bfld 48 8 (cbOp 8192), bfld 76 4 4, bfld 80 4 1, bfld 87 1 0, bfld 92 4 0]), by decide +kernel⟩,
   ⟨0, wQ (wRec 0x22 [bfld 16 8 (cbOp 0), bfld 24 8 (cbOp 1024), bfld 32 8 (cbOp 2048), bfld 40 8 (cbOp 4096), bfld 48 8 (cbOp 8192), bfld 76 4 4, bfld 80 4 1, bfld 87 1 4, bfld 92 4 0]), wQueue 4 (wRec 0x22 [bfld 16 8 (cbOp 0), bfld 24 8 (cbOp 1024), bfld 32 8 (cbOp 2048), bfld 40 8 (cbOp 4096), bfld 48 8 (cbOp 8192), bfld 76 4 4, bfld 80 4 1, bfld 87 1 4, bfld 92 4 0]), by decide +kernel⟩,
   ⟨0, wQ (wRec 0x23 [bfld 16 8 (cbOp 0), bfld 24 8 (cbOp 1024), bfld 32 8 (cbOp 2048), bfld 40 8 (cbOp 4096), bfld 48 8 (cbOp 8192), bfld 76 4 4, bfld 80 4 1, bfld 87 1 0, bfld 92 4 1]), wQueue 4 (wRec 0x23 [bfld 16 8 (cbOp 0), bfld 24 8 (cbOp 1024), bfld 32 8 (cbOp 2048), bfld 40 8 (cbOp 4096), bfld 48 8 (cbOp 8192), bfld 76 4 4, bfld 80 4 1, bfld 87 1 0, bfld 92 4 1]), by decide +kernel⟩,
   ⟨0, wQ (wRec 0x23 [bfld 16 8 (cbOp 0), bfld 24 8 (cbOp 1024), bfld 32 8 (cbOp 2048), bfld 40 8 (cbOp 4096), bfld 48 8 (cbOp 8192), bfld 76 4 4, bfld 80 4 1, bfld 87 1 0, bfld 92 4 17]), wQueue 4 (wRec 0x23 [bfld 16 8 (cbOp 0), bfld 24 8 (cbOp 1024), bfld 32 8 (cbOp 2048), bfld 40 8 (cbOp 4096), bfld 48 8 (cbOp 8192), bfld 76 4 4, bfld 80 4 1, bfld 87 1 0, bfld 92 4 17]), by decide +kernel⟩,
   ⟨0, wQ (wRec 0x24 [bfld 16 8 (cbOp 0), bfld 24 8 (cbOp 1024), bfld 32 8 (cbOp 2048), bfld 40 8 (cbOp 4096), bfld 48 8 (cbOp 8192), bfld 76 4 4, bfld 80 4 1, bfld 87 1 0, bfld 92 4 0]), wQueue 4 (wRec 0x24 [bfld 16 8 (cbOp 0), bfld 24 8 (cbOp 1024), bfld 32 8 (cbOp 2048), bfld 40 8 (cbOp 4096), bfld 48 8 (cbOp 8192), bfld 76 4 4, bfld 80 4 1, bfld 87 1 0, bfld 92 4 0]), by decide +kernel⟩,
   ⟨0, wQ (wRec 0x24 [bfld 16 8 (cbOp 0), bfld 24 8 (cbOp 1024), bfld 32 8 (cbOp 2048), bfld 40 8 (cbOp 4096), bfld 48 8 (cbOp 8192), bfld 76 4 4, bfld 80 4 1, bfld 87 1 2, bfld 92 4 0]), wQueue 4 (wRec 0x24 [bfld 16 8 (cbOp 0), bfld 24 8 (cbOp 1024), bfld 32 8 (cbOp 2048), bfld 40 8 (cbOp 4096), bfld 48 8 (cbOp 8192), bfld 76 4 4, bfld 80 4 1, bfld 87 1 2, bfld 92 4 0]), by decide +kernel⟩,
   ⟨0, wQ (wRec 0x25 [bfld 16 8 (cbOp 0), bfld 24 8 (cbOp 1024), bfld 32 8 (cbOp 2048), bfld 40 8 (cbOp 4096), bfld 48 8 (cbOp 8192), bfld 76 4 4, bfld 80 4 1, bfld 87 1 0, bfld 92 4 0]), wQueue 4 (wRec 0x25 [bfld 16 8 (cbOp 0), bfld 24 8 (cbOp 1024), bfld 32 8 (cbOp 2048), bfld 40 8 (cbOp 4096), bfld 48 8 (cbOp 8192), bfld 76 4 4, bfld 80 4 1, bfld 87 1 0, bfld 92 4 0]), by decide +kernel⟩,
   ⟨0, wQ (wRec 0x26 [bfld 16 8 (cbOp 0), bfld 24 8 (cbOp 1024), bfld 32 8 (cbOp 2048), bfld 40 8 (cbOp 4096), bfld 48 8 (cbOp 8192), bfld 76 4 4, bfld 80 4 1, bfld 87 1 0, bfld 92 4 0]), wQueue 4 (wRec 0x26 [bfld 16 8 (cbOp 0), bfld 24 8 (cbOp 1024), bfld 32 8 (cbOp 2048), bfld 40 8 (cbOp 4096), bfld 48 8 (cbOp 8192), bfld 76 4 4, bfld 80 4 1, bfld 87 1 0, bfld 92 4 0]), by decide +kernel⟩,
   ⟨0, wQ (wRec 0x20 [bfld 16 8 (cbOp 0), bfld 24 8 (cbOp 1024), bfld 32 8 (cbOp 2048), bfld 40 8 (cbOp 4096), bfld 48 8 (cbOp 8192), bfld 76 4 4, bfld 80 4 1, bfld 87 1 10, bfld 92 4 0]), wQueue 4 (wRec 0x20 [bfld 16 8 (cbOp 0), bfld 24 8 (cbOp 1024), bfld 32 8 (cbOp 2048), bfld 40 8 (cbOp 4096), bfld 48 8 (cbOp 8192), bfld 76 4 4, bfld 80 4 1, bfld 87 1 10, bfld 92 4 0]), by decide +kernel⟩,
   ⟨0, wQ sRec, wQueue 4 sRec, sC.2, sR.2, sU4, sU5, sCb, sRows, by decide +kernel, by decide +kernel, by decide +kernel, samePair_eq _ _ (by decide +kernel) (by decide +kernel), by decide +kernel, by decide +kernel, samePair_eq _ _ (by decide +kernel) (by decide +kernel), by decide +kernel, by decide +kernel⟩⟩

theorem witness_PortRecordsPost :
    (∃ (k : Nat) (port : Nat) (q : QRec) (s : State) (r : (Nat × Nat) × State), s.ready k 7 = some q ∧ (s.execs k 7).length < 64 ∧ (s.predOf k q.bits).1 = .run ∧ port < 3 ∧ recOpcode q.bits = 0x40 + port ∧ s.post port k none q (portDesc q.bits) = some r) ∧
    (∃ (k : Nat) (q : QRec) (s : State), (s.mover (coreTile k)).descs.length < 1024) ∧
    (∃ (k : Nat) (q : QRec) (s : State), (s.kpm (bits q.bits 146 144)).ops.length < 8192) ∧
    (∃ (k : Nat) (q : QRec) (s : State), s.ready k 7 = some q ∧ (s.predOf k q.bits).1 = .run ∧ 1024 ≤ (s.mover (coreTile k)).descs.length) ∧
    (∃ (k : Nat) (q : QRec) (s : State), s.ready k 7 = some q ∧ (s.predOf k q.bits).1 = .run ∧ 8192 ≤ (s.kpm (bits q.bits 146 144)).ops.length) ∧
    (∃ (k : Nat) (q : QRec) (s : State), s.ready k 7 = some q ∧ (s.execs k 7).length < 64 ∧ recPred q.bits = false ∧ recOpcode q.bits = 0x43 ∧ s.upsets = [] ∧ aoSpace (byteFld q.bits 16 8) = 2 ∧ aoAddr (byteFld q.bits 16 8) + 96 ≤ 2 ^ 23 ∧ aoSpace (byteFld q.bits 32 8) = 2 ∧ aoAddr (byteFld q.bits 32 8) + 4 ≤ 2 ^ 23 ∧ aoSpace (byteFld q.bits 24 8) = 2 ∧ aoAddr (byteFld q.bits 24 8) + 4 * ((ofLe (s.cbRead k (aoAddr (byteFld q.bits 32 8)) 4)) % 32) ≤ 2 ^ 23 ∧ (ofLe (s.cbRead k (aoAddr (byteFld q.bits 32 8)) 4)) % 32 ≤ (fun (o n : Nat) => ofLe (((s.cbRead k (aoAddr (byteFld q.bits 16 8)) 96).drop o).take n)) 18 1 + 1 ∧ (s.accOf k q).stale = false) ∧
    (∃ (k : Nat) (q : QRec) (s : State), s.ready k 7 = some q ∧ (s.execs k 7).length < 64 ∧ recPred q.bits = false ∧ recOpcode q.bits = 0x43 ∧ s.upsets = [] ∧ aoSpace (byteFld q.bits 16 8) = 2 ∧ aoAddr (byteFld q.bits 16 8) + 96 ≤ 2 ^ 23 ∧ aoSpace (byteFld q.bits 32 8) = 2 ∧ aoAddr (byteFld q.bits 32 8) + 4 ≤ 2 ^ 23 ∧ aoSpace (byteFld q.bits 24 8) = 2 ∧ aoAddr (byteFld q.bits 24 8) + 4 * ((ofLe (s.cbRead k (aoAddr (byteFld q.bits 32 8)) 4)) % 32) ≤ 2 ^ 23 ∧ (fun (o n : Nat) => ofLe (((s.cbRead k (aoAddr (byteFld q.bits 16 8)) 96).drop o).take n)) 18 1 + 1 < (ofLe (s.cbRead k (aoAddr (byteFld q.bits 32 8)) 4)) % 32) :=
  ⟨⟨0, 0, wQ (wRec 0x40 []), wQueue 7 (wRec 0x40 []), ((wQueue 7 (wRec 0x40 [])).post 0 0 none (wQ (wRec 0x40 [])) (portDesc (wRec 0x40 []))).getD ((0,0),wJob), by decide +kernel⟩,
   ⟨0, wQ (wRec 0x40 []), wQueue 7 (wRec 0x40 []), by decide +kernel⟩,
   ⟨0, wQ (wRec 0x41 []), wQueue 7 (wRec 0x41 []), by decide +kernel⟩,
   ⟨0, wQ (wRec 0x40 []), { wQueue 7 (wRec 0x40 []) with movers := [(0, { MoverSt.zero with descs := List.replicate 1024 (MDesc.new 0 .steward 0 0 0 0 0 0 0) })] }, by decide +kernel⟩,
   ⟨0, wQ (wRec 0x41 []), { wQueue 7 (wRec 0x41 []) with kpms := [(0, { KpmSt.zero with ops := List.replicate 8192 (wKop 0) })] }, by decide +kernel⟩,
   ⟨0, wQ (wRec 0x43 [bfld 16 8 (cbOp 0), bfld 24 8 (cbOp 512), bfld 32 8 (cbOp 1024)]), { wQueue 7 (wRec 0x43 [bfld 16 8 (cbOp 0), bfld 24 8 (cbOp 512), bfld 32 8 (cbOp 1024)]) with cb := Memory.write [] 1024 (leBytes 4 1) }, by decide +kernel⟩,
   ⟨0, wQ (wRec 0x43 [bfld 16 8 (cbOp 0), bfld 24 8 (cbOp 512), bfld 32 8 (cbOp 1024)]), { wQueue 7 (wRec 0x43 [bfld 16 8 (cbOp 0), bfld 24 8 (cbOp 512), bfld 32 8 (cbOp 1024)]) with cb := Memory.write [] 1024 (leBytes 4 2) }, by decide +kernel⟩⟩

theorem witness_ScalarArithmetic :
    (∃ (k : Nat) (j : Nat) (fn : BitVec 11) (gd : BitVec 5) (ga : BitVec 5) (gb : BitVec 5) (v : W64) (u : State) (s : State), s.issues k j useR (wordR 0x00 gd ga gb fn) u ∧ ¬(5 ≤ fn.toNat ∧ fn.toNat ≤ 7 ∧ 64 ≤ (u.gpr k j gb).toNat) ∧ aluFn fn.toNat (u.gpr k j ga) (u.gpr k j gb) 0 = some v) ∧
    (∃ (k : Nat) (j : Nat) (fn : BitVec 11) (gd : BitVec 5) (ga : BitVec 5) (gb : BitVec 5) (u : State) (s : State), s.issues k j useR (wordR 0x00 gd ga gb fn) u ∧ 5 ≤ fn.toNat ∧ fn.toNat ≤ 7 ∧ 64 ≤ (u.gpr k j gb).toNat) ∧
    (∃ (k : Nat) (j : Nat) (fn : BitVec 11) (gd : BitVec 5) (ga : BitVec 5) (gb : BitVec 5) (u : State) (s : State), s.issues k j useR (wordR 0x00 gd ga gb fn) u ∧ 0x10 ≤ fn.toNat) ∧
    (∃ (k : Nat) (j : Nat) (gd : BitVec 5) (ga : BitVec 5) (imm : W16) (u : State) (s : State), s.issues k j useR (wordI 0x01 gd ga imm) u) ∧
    (∃ (k : Nat) (j : Nat) (gd : BitVec 5) (ga : BitVec 5) (imm : W16) (u : State) (s : State), s.issues k j useR (wordI 0x02 gd ga imm) u) ∧
    (∃ (k : Nat) (j : Nat) (gd : BitVec 5) (ga : BitVec 5) (imm : W16) (u : State) (s : State), s.issues k j useR (wordI 0x03 gd ga imm) u) ∧
    (∃ (k : Nat) (j : Nat) (gd : BitVec 5) (ga : BitVec 5) (imm : W16) (u : State) (s : State), s.issues k j useR (wordI 0x04 gd ga imm) u) ∧
    (∃ (k : Nat) (j : Nat) (gd : BitVec 5) (ga : BitVec 5) (imm : W16) (u : State) (s : State), s.issues k j useR (wordI 0x05 gd ga imm) u) ∧
    (∃ (k : Nat) (j : Nat) (gd : BitVec 5) (imm : W16) (u : State) (s : State), s.issues k j useDI (wordI 0x1F gd 0 imm) u ∧ imm.toNat ≤ 4) ∧
    (∃ (k : Nat) (j : Nat) (gd : BitVec 5) (imm : W16) (u : State) (s : State), s.issues k j useDI (wordI 0x1F gd 0 imm) u ∧ 4 < imm.toNat) :=
  ⟨⟨0, 0, 1, 1, 2, 3, (5 - 9), wU (wSc (wordR 0x0 1 2 3 1) [(2, 5), (3, 9)]), (wSc (wordR 0x0 1 2 3 1) [(2, 5), (3, 9)]), issues_intro (by decide +kernel), by decide +kernel, by decide +kernel⟩,
   ⟨0, 0, 5, 1, 2, 3, wU (wSc (wordR 0x0 1 2 3 5) [(2, 5), (3, 64)]), (wSc (wordR 0x0 1 2 3 5) [(2, 5), (3, 64)]), issues_intro (by decide +kernel), by decide +kernel, by decide +kernel, by decide +kernel⟩,
   ⟨0, 0, 0x10, 1, 2, 3, wU (wSc (wordR 0x0 1 2 3 16) [(2, 5), (3, 9)]), (wSc (wordR 0x0 1 2 3 16) [(2, 5), (3, 9)]), issues_intro (by decide +kernel), by decide +kernel⟩,
   ⟨0, 0, 1, 2, 0x8001, wU (wSc (wordI 0x1 1 2 0x8001) [(2, 0x800)]), (wSc (wordI 0x1 1 2 0x8001) [(2, 0x800)]), issues_intro (by decide +kernel)⟩,
   ⟨0, 0, 1, 2, 0x8001, wU (wSc (wordI 0x2 1 2 0x8001) [(2, 0x800)]), (wSc (wordI 0x2 1 2 0x8001) [(2, 0x800)]), issues_intro (by decide +kernel)⟩,
   ⟨0, 0, 1, 2, 0x8001, wU (wSc (wordI 0x3 1 2 0x8001) [(2, 0x800)]), (wSc (wordI 0x3 1 2 0x8001) [(2, 0x800)]), issues_intro (by decide +kernel)⟩,
   ⟨0, 0, 1, 2, 0x8001, wU (wSc (wordI 0x4 1 2 0x8001) [(2, 0x800)]), (wSc (wordI 0x4 1 2 0x8001) [(2, 0x800)]), issues_intro (by decide +kernel)⟩,
   ⟨0, 0, 1, 2, 0x8001, wU (wSc (wordI 0x5 1 2 0x8001) [(2, 0x800)]), (wSc (wordI 0x5 1 2 0x8001) [(2, 0x800)]), issues_intro (by decide +kernel)⟩,
   ⟨0, 0, 1, 4, wU (wSc (wordI 0x1f 1 0 4) [(2, 0x800)]), (wSc (wordI 0x1f 1 0 4) [(2, 0x800)]), issues_intro (by decide +kernel), by decide +kernel⟩,
   ⟨0, 0, 1, 5, wU (wSc (wordI 0x1f 1 0 5) [(2, 0x800)]), (wSc (wordI 0x1f 1 0 5) [(2, 0x800)]), issues_intro (by decide +kernel), by decide +kernel⟩⟩

theorem witness_ScalarIssue :
    (∃ (k : Nat) (j : Nat) (use : Nat) (w : Nat) (f : State → State) (s : State), s.scReady k j = false) ∧
    (∃ (k : Nat) (j : Nat) (use : Nat) (w : Nat) (f : State → State) (s : State), s.scReady k j = true ∧ (s.pipe k j).atBreak = true) ∧
    (∃ (k : Nat) (j : Nat) (use : Nat) (w : Nat) (x : Nat) (f : State → State) (u : State) (s : State), s.scReady k j = true ∧ (s.pipe k j).atBreak = false ∧ s.scFetch k j = (.ok x, u) ∧ x &&& use ≠ w &&& use) ∧
    (∃ (k : Nat) (j : Nat) (use : Nat) (w : Nat) (e : Flt) (f : State → State) (u : State) (s : State), s.scReady k j = true ∧ (s.pipe k j).atBreak = false ∧ s.scFetch k j = (.error e, u)) ∧
    (∃ (k : Nat) (j : Nat) (s : State), (s.pipe k j).pc % 4 ≠ 0) ∧
    (∃ (k : Nat) (j : Nat) (b : Bytes) (r : RdRes) (u : State) (s : State), (s.pipe k j).pc % 4 = 0 ∧ s.readVa .store true (s.scAcc k j) (s.pipe k j).pc 4 = (r, u) ∧ r.use (s.pipe k j).pc = .ok b) :=
  ⟨⟨0, 0, useR, wordI 0x01 1 2 1, (fun x => x), wJob, by decide +kernel⟩,
   ⟨0, 0, useR, wordI 0x01 1 2 1, (fun x => x), (((wSc (wordI 0x1 1 2 1) [(2, 0x800)])).modPipe 0 0 fun p => { p with bps := [(0, some 0x100)] }), by decide +kernel⟩,
   ⟨0, 0, useR, wordI 0x01 1 2 2, wordI 0x01 1 2 1, (fun x => x), wU (wSc (wordI 0x1 1 2 1) [(2, 0x800)]), (wSc (wordI 0x1 1 2 1) [(2, 0x800)]), by decide +kernel, by decide +kernel, samePair_eq _ _ (by decide +kernel) (by decide +kernel), by decide +kernel⟩,
   ⟨0, 0, useR, 0, ⟨errRuntime, 0x102⟩, (fun x => x), (((wSc (wordI 0x1 1 2 1) [(2, 0x800)])).modPipe 0 0 fun p => { p with pc := 0x102 }), (((wSc (wordI 0x1 1 2 1) [(2, 0x800)])).modPipe 0 0 fun p => { p with pc := 0x102 }), by decide +kernel, by decide +kernel, samePair_eq _ _ (by decide +kernel) (by decide +kernel)⟩,
   ⟨0, 0, (((wSc (wordI 0x1 1 2 1) [(2, 0x800)])).modPipe 0 0 fun p => { p with pc := 0x102 }), by decide +kernel⟩,
   ⟨0, 0, leBytes 4 (wordI 0x01 1 2 1), (((wSc (wordI 0x1 1 2 1) [(2, 0x800)])).readVa .store true (((wSc (wordI 0x1 1 2 1) [(2, 0x800)])).scAcc 0 0) 0x100 4).1, (((wSc (wordI 0x1 1 2 1) [(2, 0x800)])).readVa .store true (((wSc (wordI 0x1 1 2 1) [(2, 0x800)])).scAcc 0 0) 0x100 4).2, (wSc (wordI 0x1 1 2 1) [(2, 0x800)]), by decide +kernel, by decide +kernel, sameRes_eq _ _ (by decide +kernel)⟩⟩

theorem witness_ScalarMemoryAccess :
    (∃ (k : Nat) (j : Nat) (gd : BitVec 5) (ga : BitVec 5) (imm : W16) (ec : MemErr) (n : Nat) (u : State) (s : State) (b : _), ((n = 8 ∧ s.issues k j useR (wordI 0x08 gd ga imm) u) ∨ (n = 4 ∧ s.issues k j useR (wordI 0x09 gd ga imm) u)) ∧ u.remoteLeaf (u.scAcc k j) (u.ea k j ga imm) false = none ∧ ((match u.lookupFor .store (u.scAcc k j).part (u.scAcc k j).ctx (u.ea k j ga imm) false with | .ok _ pa => u.strike (.store (pa / 8) ec) | .bad _ => u).readVa .store true (u.scAcc k j) (u.ea k j ga imm) n).1.use (u.ea k j ga imm) = .ok b) ∧
    (∃ (k : Nat) (j : Nat) (gd : BitVec 5) (ga : BitVec 5) (imm : W16) (ec : MemErr) (n : Nat) (u : State) (s : State) (e : _), ((n = 8 ∧ s.issues k j useR (wordI 0x08 gd ga imm) u) ∨ (n = 4 ∧ s.issues k j useR (wordI 0x09 gd ga imm) u)) ∧ u.remoteLeaf (u.scAcc k j) (u.ea k j ga imm) false = none ∧ ((match u.lookupFor .store (u.scAcc k j).part (u.scAcc k j).ctx (u.ea k j ga imm) false with | .ok _ pa => u.strike (.store (pa / 8) ec) | .bad _ => u).readVa .store true (u.scAcc k j) (u.ea k j ga imm) n).1.use (u.ea k j ga imm) = .error e) ∧
    (∃ (k : Nat) (j : Nat) (gd : BitVec 5) (ga : BitVec 5) (imm : W16) (n : Nat) (u : State) (s : State), ((n = 8 ∧ s.issues k j useR (wordI 0x0A gd ga imm) u) ∨ (n = 4 ∧ s.issues k j useR (wordI 0x0B gd ga imm) u)) ∧ u.remoteLeaf (u.scAcc k j) (u.ea k j ga imm) true = none ∧ (u.writeVa .store true (u.scAcc k j) (u.ea k j ga imm) (leBytes n (u.gpr k j gd).toNat)).1 = none) ∧
    (∃ (k : Nat) (j : Nat) (gd : BitVec 5) (ga : BitVec 5) (imm : W16) (n : Nat) (u : State) (s : State) (e : _), ((n = 8 ∧ s.issues k j useR (wordI 0x0A gd ga imm) u) ∨ (n = 4 ∧ s.issues k j useR (wordI 0x0B gd ga imm) u)) ∧ u.remoteLeaf (u.scAcc k j) (u.ea k j ga imm) true = none ∧ (u.writeVa .store true (u.scAcc k j) (u.ea k j ga imm) (leBytes n (u.gpr k j gd).toNat)).1 = some e) ∧
    (∃ (k : Nat) (j : Nat) (gd : BitVec 5) (ga : BitVec 5) (imm : W16) (ec : MemErr) (n : Nat) (l : Leaf) (h : Nat) (u : State) (u2 : State) (s : State), ((n = 8 ∧ s.issues k j useR (wordI 0x08 gd ga imm) u) ∨ (n = 4 ∧ s.issues k j useR (wordI 0x09 gd ga imm) u)) ∧ u.remoteLeaf (u.scAcc k j) (u.ea k j ga imm) false = some (l, h) ∧ u.request (.port k none) j true (n == 4) (u.pipe k j).prog (u.scAcc k j).part l.module (.read h n) = (.sent, u2)) ∧
    (∃ (k : Nat) (j : Nat) (gd : BitVec 5) (ga : BitVec 5) (imm : W16) (ec : MemErr) (n : Nat) (l : Leaf) (h : Nat) (u : State) (u2 : State) (s : State) (e : _), ((n = 8 ∧ s.issues k j useR (wordI 0x08 gd ga imm) u) ∨ (n = 4 ∧ s.issues k j useR (wordI 0x09 gd ga imm) u)) ∧ u.remoteLeaf (u.scAcc k j) (u.ea k j ga imm) false = some (l, h) ∧ u.request (.port k none) j true (n == 4) (u.pipe k j).prog (u.scAcc k j).part l.module (.read h n) = (.lost e, u2)) ∧
    (∃ (k : Nat) (j : Nat) (gd : BitVec 5) (ga : BitVec 5) (imm : W16) (n : Nat) (l : Leaf) (h : Nat) (u : State) (u2 : State) (s : State), ((n = 8 ∧ s.issues k j useR (wordI 0x0A gd ga imm) u) ∨ (n = 4 ∧ s.issues k j useR (wordI 0x0B gd ga imm) u)) ∧ u.remoteLeaf (u.scAcc k j) (u.ea k j ga imm) true = some (l, h) ∧ u.request (.port k none) j false false (u.pipe k j).prog (u.scAcc k j).part l.module (.write h (leBytes n (u.gpr k j gd).toNat) []) = (.sent, u2)) ∧
    (∃ (k : Nat) (j : Nat) (gd : BitVec 5) (ga : BitVec 5) (imm : W16) (ec : MemErr) (n : Nat) (u : State) (s : State), ((n = 8 ∧ s.issues k j useR (wordI 0x0C gd ga imm) u) ∨ (n = 4 ∧ s.issues k j useR (wordI 0x0D gd ga imm) u)) ∧ (u.ea k j ga imm) + n ≤ 2 ^ 23 ∧ ((u.strike (.core k ((u.ea k j ga imm) / 8) ec)).cbGet k (u.ea k j ga imm) n).1.2 = []) ∧
    (∃ (k : Nat) (j : Nat) (gd : BitVec 5) (ga : BitVec 5) (imm : W16) (ec : MemErr) (n : Nat) (u : State) (s : State), ((n = 8 ∧ s.issues k j useR (wordI 0x0C gd ga imm) u) ∨ (n = 4 ∧ s.issues k j useR (wordI 0x0D gd ga imm) u)) ∧ (u.ea k j ga imm) + n ≤ 2 ^ 23 ∧ ((u.strike (.core k ((u.ea k j ga imm) / 8) ec)).cbGet k (u.ea k j ga imm) n).1.2 ≠ []) ∧
    (∃ (k : Nat) (j : Nat) (gd : BitVec 5) (ga : BitVec 5) (imm : W16) (ec : MemErr) (n : Nat) (u : State) (s : State), ((n = 8 ∧ s.issues k j useR (wordI 0x0C gd ga imm) u) ∨ (n = 4 ∧ s.issues k j useR (wordI 0x0D gd ga imm) u)) ∧ 2 ^ 23 < (u.ea k j ga imm) + n) ∧
    (∃ (k : Nat) (j : Nat) (gd : BitVec 5) (ga : BitVec 5) (imm : W16) (n : Nat) (u : State) (s : State), Memory.wf u.cb = true ∧ ((n = 8 ∧ s.issues k j useR (wordI 0x0E gd ga imm) u) ∨ (n = 4 ∧ s.issues k j useR (wordI 0x0F gd ga imm) u)) ∧ (u.ea k j ga imm) + n ≤ 2 ^ 23) ∧
    (∃ (k : Nat) (j : Nat) (gd : BitVec 5) (ga : BitVec 5) (imm : W16) (n : Nat) (u : State) (s : State), Memory.wf u.cb = true ∧ ((n = 8 ∧ s.issues k j useR (wordI 0x0E gd ga imm) u) ∨ (n = 4 ∧ s.issues k j useR (wordI 0x0F gd ga imm) u)) ∧ 2 ^ 23 < (u.ea k j ga imm) + n) :=
  ⟨⟨0, 0, 1, 2, 8, .clean, 8, wU (wSc (wordI 0x8 1 2 8) [(2, 0x800), (1, 77)]), (wSc (wordI 0x8 1 2 8) [(2, 0x800), (1, 77)]), (List.replicate 8 0 : Bytes), Or.inl ⟨rfl, issues_intro (by decide +kernel)⟩, by decide +kernel, sameRes_eq _ _ (by decide +kernel)⟩,
   ⟨0, 0, 1, 2, 8, .clean, 8, wU (wSc (wordI 0x8 1 2 8) [(2, 0x8000000000), (1, 77)]), (wSc (wordI 0x8 1 2 8) [(2, 0x8000000000), (1, 77)]), ((errOf ((((wU (wSc (wordI 0x8 1 2 8) [(2, 0x8000000000), (1, 77)])).readVa .store true ((wU (wSc (wordI 0x8 1 2 8) [(2, 0x8000000000), (1, 77)])).scAcc 0 0) ((wU (wSc (wordI 0x8 1 2 8) [(2, 0x8000000000), (1, 77)])).ea 0 0 2 8) 8)).1.use ((wU (wSc (wordI 0x8 1 2 8) [(2, 0x8000000000), (1, 77)])).ea 0 0 2 8))) : Flt), Or.inl ⟨rfl, issues_intro (by decide +kernel)⟩, by decide +kernel, sameRes_eq _ _ (by decide +kernel)⟩,
   ⟨0, 0, 1, 2, 8, 8, wU (wSc (wordI 0xa 1 2 8) [(2, 0x800), (1, 77)]), (wSc (wordI 0xa 1 2 8) [(2, 0x800), (1, 77)]), Or.inl ⟨rfl, issues_intro (by decide +kernel)⟩, by decide +kernel, by decide +kernel⟩,
   ⟨0, 0, 1, 2, 8, 8, wU (wSc (wordI 0xa 1 2 8) [(2, 0x8000000000), (1, 77)]), (wSc (wordI 0xa 1 2 8) [(2, 0x8000000000), (1, 77)]), (((((wU (wSc (wordI 0xa 1 2 8) [(2, 0x8000000000), (1, 77)])).writeVa .store true ((wU (wSc (wordI 0xa 1 2 8) [(2, 0x8000000000), (1, 77)])).scAcc 0 0) ((wU (wSc (wordI 0xa 1 2 8) [(2, 0x8000000000), (1, 77)])).ea 0 0 2 8) (leBytes 8 ((wU (wSc (wordI 0xa 1 2 8) [(2, 0x8000000000), (1, 77)])).gpr 0 0 1).toNat))).1).getD ⟨errOk, 0⟩ : Flt), Or.inl ⟨rfl, issues_intro (by decide +kernel)⟩, by decide +kernel, by decide +kernel⟩,
   ⟨0, 0, 1, 2, 8, .clean, 8, (⟨0, 0x800, 11, 4, 0x4000, 9, true, false⟩ : Leaf), 0x4008, wU ({ (wSc (wordI 0x8 1 2 8) [(2, 0x800)]) with mem := Memory.write ((wSc (wordI 0x8 1 2 8) [(2, 0x800)])).mem 18 [1], parts := [(0, { wPart with leaves := [⟨0, 0, 11, 0, 0, 0, true, false⟩, ⟨0, 0x800, 11, 4, 0x4000, 9, true, false⟩] })], ports := [(0, wPort)] }), _, ({ (wSc (wordI 0x8 1 2 8) [(2, 0x800)]) with mem := Memory.write ((wSc (wordI 0x8 1 2 8) [(2, 0x800)])).mem 18 [1], parts := [(0, { wPart with leaves := [⟨0, 0, 11, 0, 0, 0, true, false⟩, ⟨0, 0x800, 11, 4, 0x4000, 9, true, false⟩] })], ports := [(0, wPort)] }), Or.inl ⟨rfl, issues_intro (by decide +kernel)⟩, by decide +kernel, sentPair_eq _ (request_sent (e := 0) (by decide +kernel))⟩,
   ⟨0, 0, 1, 2, 8, .clean, 8, (⟨0, 0x800, 11, 4, 0x4000, 9, true, false⟩ : Leaf), 0x4008, wU ({ (wSc (wordI 0x8 1 2 8) [(2, 0x800)]) with mem := Memory.write ((wSc (wordI 0x8 1 2 8) [(2, 0x800)])).mem 18 [0], parts := [(0, { wPart with leaves := [⟨0, 0, 11, 0, 0, 0, true, false⟩, ⟨0, 0x800, 11, 4, 0x4000, 9, true, false⟩] })], ports := [(0, wPort)] }), ((wU ({ (wSc (wordI 0x8 1 2 8) [(2, 0x800)]) with mem := Memory.write ((wSc (wordI 0x8 1 2 8) [(2, 0x800)])).mem 18 [0], parts := [(0, { wPart with leaves := [⟨0, 0, 11, 0, 0, 0, true, false⟩, ⟨0, 0x800, 11, 4, 0x4000, 9, true, false⟩] })], ports := [(0, wPort)] })).request (.port 0 none) 0 true (8 == 4) ((wU ({ (wSc (wordI 0x8 1 2 8) [(2, 0x800)]) with mem := Memory.write ((wSc (wordI 0x8 1 2 8) [(2, 0x800)])).mem 18 [0], parts := [(0, { wPart with leaves := [⟨0, 0, 11, 0, 0, 0, true, false⟩, ⟨0, 0x800, 11, 4, 0x4000, 9, true, false⟩] })], ports := [(0, wPort)] })).pipe 0 0).prog ((wU ({ (wSc (wordI 0x8 1 2 8) [(2, 0x800)]) with mem := Memory.write ((wSc (wordI 0x8 1 2 8) [(2, 0x800)])).mem 18 [0], parts := [(0, { wPart with leaves := [⟨0, 0, 11, 0, 0, 0, true, false⟩, ⟨0, 0x800, 11, 4, 0x4000, 9, true, false⟩] })], ports := [(0, wPort)] })).scAcc 0 0).part 9 (.read 0x4008 8)).2, ({ (wSc (wordI 0x8 1 2 8) [(2, 0x800)]) with mem := Memory.write ((wSc (wordI 0x8 1 2 8) [(2, 0x800)])).mem 18 [0], parts := [(0, { wPart with leaves := [⟨0, 0, 11, 0, 0, 0, true, false⟩, ⟨0, 0x800, 11, 4, 0x4000, 9, true, false⟩] })], ports := [(0, wPort)] }), ((match (((wU ({ (wSc (wordI 0x8 1 2 8) [(2, 0x800)]) with mem := Memory.write ((wSc (wordI 0x8 1 2 8) [(2, 0x800)])).mem 18 [0], parts := [(0, { wPart with leaves := [⟨0, 0, 11, 0, 0, 0, true, false⟩, ⟨0, 0x800, 11, 4, 0x4000, 9, true, false⟩] })], ports := [(0, wPort)] })).request (.port 0 none) 0 true (8 == 4) ((wU ({ (wSc (wordI 0x8 1 2 8) [(2, 0x800)]) with mem := Memory.write ((wSc (wordI 0x8 1 2 8) [(2, 0x800)])).mem 18 [0], parts := [(0, { wPart with leaves := [⟨0, 0, 11, 0, 0, 0, true, false⟩, ⟨0, 0x800, 11, 4, 0x4000, 9, true, false⟩] })], ports := [(0, wPort)] })).pipe 0 0).prog ((wU ({ (wSc (wordI 0x8 1 2 8) [(2, 0x800)]) with mem := Memory.write ((wSc (wordI 0x8 1 2 8) [(2, 0x800)])).mem 18 [0], parts := [(0, { wPart with leaves := [⟨0, 0, 11, 0, 0, 0, true, false⟩, ⟨0, 0x800, 11, 4, 0x4000, 9, true, false⟩] })], ports := [(0, wPort)] })).scAcc 0 0).part 9 (.read 0x4008 8))).1 with | .lost e => e | _ => errOk) : Err), Or.inl ⟨rfl, issues_intro (by decide +kernel)⟩, by decide +kernel, by decide +kernel⟩,
   ⟨0, 0, 1, 2, 8, 8, (⟨0, 0x800, 11, 4, 0x4000, 9, true, false⟩ : Leaf), 0x4008, wU ({ (wSc (wordI 0xa 1 2 8) [(2, 0x800)]) with mem := Memory.write ((wSc (wordI 0xa 1 2 8) [(2, 0x800)])).mem 18 [1], parts := [(0, { wPart with leaves := [⟨0, 0, 11, 0, 0, 0, true, false⟩, ⟨0, 0x800, 11, 4, 0x4000, 9, true, false⟩] })], ports := [(0, wPort)] }), _, ({ (wSc (wordI 0xa 1 2 8) [(2, 0x800)]) with mem := Memory.write ((wSc (wordI 0xa 1 2 8) [(2, 0x800)])).mem 18 [1], parts := [(0, { wPart with leaves := [⟨0, 0, 11, 0, 0, 0, true, false⟩, ⟨0, 0x800, 11, 4, 0x4000, 9, true, false⟩] })], ports := [(0, wPort)] }), Or.inl ⟨rfl, issues_intro (by decide +kernel)⟩, by decide +kernel, sentPair_eq _ (request_sent (e := 0) (by decide +kernel))⟩,
   ⟨0, 0, 1, 2, 8, .clean, 8, wU (wSc (wordI 0xc 1 2 8) [(2, 0x800)]), (wSc (wordI 0xc 1 2 8) [(2, 0x800)]), Or.inl ⟨rfl, issues_intro (by decide +kernel)⟩, by decide +kernel, by decide +kernel⟩,
   ⟨0, 0, 1, 2, 8, .uncorr, 8, wU (wSc (wordI 0xc 1 2 8) [(2, 0x800)]), (wSc (wordI 0xc 1 2 8) [(2, 0x800)]), Or.inl ⟨rfl, issues_intro (by decide +kernel)⟩, by decide +kernel, by decide +kernel⟩,
   ⟨0, 0, 1, 2, 8, .clean, 8, wU (wSc (wordI 0xc 1 2 8) [(2, 0x7FFFF8)]), (wSc (wordI 0xc 1 2 8) [(2, 0x7FFFF8)]), Or.inl ⟨rfl, issues_intro (by decide +kernel)⟩, by decide +kernel⟩,
   ⟨0, 0, 1, 2, 8, 8, wU (wSc (wordI 0xe 1 2 8) [(2, 0x800), (1, 77)]), (wSc (wordI 0xe 1 2 8) [(2, 0x800), (1, 77)]), by decide +kernel, Or.inl ⟨rfl, issues_intro (by decide +kernel)⟩, by decide +kernel⟩,
   ⟨0, 0, 1, 2, 8, 8, wU (wSc (wordI 0xe 1 2 8) [(2, 0x7FFFF8)]), (wSc (wordI 0xe 1 2 8) [(2, 0x7FFFF8)]), by decide +kernel, Or.inl ⟨rfl, issues_intro (by decide +kernel)⟩, by decide +kernel⟩⟩

theorem witness_ScalarAtomicsAndWaits :
    (∃ (k : Nat) (j : Nat) (fn : BitVec 11) (gd : BitVec 5) (ga : BitVec 5) (gb : BitVec 5) (new : Option Nat) (ovf : Nat) (u : State) (s : State), s.issues k j useR (wordR 0x10 gd ga gb fn) u ∧ atomScope fn.toNat = 0 ∧ ((u.gpr k j ga).toNat) % ((atomW fn.toNat) / 8) = 0 ∧ ((u.gpr k j ga).toNat) + (atomW fn.toNat) / 8 ≤ 2 ^ 23 ∧ (u.cbGet k ((u.gpr k j ga).toNat) ((atomW fn.toNat) / 8)).1.2 = [] ∧ atomNew (fn.toNat % 16) (atomW fn.toNat) (ofLe (u.cbRead k ((u.gpr k j ga).toNat) ((atomW fn.toNat) / 8))) ((u.gpr k j gb).toNat % 2 ^ (atomW fn.toNat)) ((u.gpr k j gd).toNat % 2 ^ (atomW fn.toNat)) = some (new, ovf)) ∧
    (∃ (k : Nat) (j : Nat) (fn : BitVec 11) (gd : BitVec 5) (ga : BitVec 5) (gb : BitVec 5) (l : Leaf) (pa : Nat) (new : Option Nat) (ovf : Nat) (r : RdRes) (ob : Bytes) (u : State) (u2 : State) (u3 : State) (s : State), s.issues k j useR (wordR 0x10 gd ga gb fn) u ∧ atomScope fn.toNat ≠ 0 ∧ (atomScope fn.toNat = 3 → atomRel fn.toNat = true → (u.pipe k j).remote = 0) ∧ ((u.gpr k j ga).toNat) % ((atomW fn.toNat) / 8) = 0 ∧ u.remoteLeaf (u.scAcc k j) ((u.gpr k j ga).toNat) true = none ∧ u.lookupFor .store (u.scAcc k j).part (u.scAcc k j).ctx ((u.gpr k j ga).toNat) true = .ok l pa ∧ u.readVa .store false (u.scAcc k j) ((u.gpr k j ga).toNat) ((atomW fn.toNat) / 8) = (r, u2) ∧ r.use ((u.gpr k j ga).toNat) = .ok ob ∧ atomNew (fn.toNat % 16) (atomW fn.toNat) (ofLe ob) ((u.gpr k j gb).toNat % 2 ^ (atomW fn.toNat)) ((u.gpr k j gd).toNat % 2 ^ (atomW fn.toNat)) = some (new, ovf) ∧ (match new with | some v => (u2.bump (pk tSTORE (sliceOf pa)) 0x078 1).writeVa .store true (u.scAcc k j) ((u.gpr k j ga).toNat) (leBytes ((atomW fn.toNat) / 8) v) = (none, u3) | none => u2 = u3)) ∧
    (∃ (k : Nat) (j : Nat) (fn : BitVec 11) (gd : BitVec 5) (ga : BitVec 5) (gb : BitVec 5) (l : Leaf) (h : Nat) (u : State) (u2 : State) (s : State), s.issues k j useR (wordR 0x10 gd ga gb fn) u ∧ atomScope fn.toNat = 3 ∧ (atomRel fn.toNat = true → (u.pipe k j).remote = 0) ∧ (u.gpr k j ga).toNat % (atomW fn.toNat / 8) = 0 ∧ (atomNew (fn.toNat % 16) (atomW fn.toNat) 0 0 0).isSome = true ∧ u.remoteLeaf (u.scAcc k j) (u.gpr k j ga).toNat true = some (l, h) ∧ u.request (.port k none) j true (atomW fn.toNat == 32) (u.pipe k j).prog (u.scAcc k j).part l.module (.atom h fn (u.gpr k j gb) (u.gpr k j gd)) = (.sent, u2)) ∧
    (∃ (k : Nat) (j : Nat) (fn : BitVec 11) (gd : BitVec 5) (ga : BitVec 5) (gb : BitVec 5) (u : State) (s : State), s.issues k j useR (wordR 0x10 gd ga gb fn) u ∧ (u.gpr k j ga).toNat % (atomW fn.toNat / 8) = 0 ∧ (atomNew (fn.toNat % 16) (atomW fn.toNat) 0 0 0).isSome = true ∧ atomScope fn.toNat = 3 ∧ atomRel fn.toNat = true ∧ (u.pipe k j).remote ≠ 0) ∧
    (∃ (k : Nat) (j : Nat) (fn : BitVec 11) (gd : BitVec 5) (ga : BitVec 5) (gb : BitVec 5) (u : State) (s : State), s.issues k j useR (wordR 0x10 gd ga gb fn) u ∧ ((u.gpr k j ga).toNat % (atomW fn.toNat / 8) ≠ 0 ∨ 12 ≤ fn.toNat % 16 ∨ (10 ≤ fn.toNat % 16 ∧ atomW fn.toNat = 64))) ∧
    (∃ (k : Nat) (j : Nat) (ga : BitVec 5) (imm : W16) (u : State) (s : State), s.issues k j useAI (wordI 0x1C 0 ga imm) u ∧ (u.gpr k j ga).toNat ≤ u.dc k (imm.toNat % 64)) ∧
    (∃ (k : Nat) (j : Nat) (ga : BitVec 5) (imm : W16) (u : State) (s : State), s.issues k j useAI (wordI 0x1C 0 ga imm) u ∧ u.dc k (imm.toNat % 64) < (u.gpr k j ga).toNat) ∧
    (∃ (k : Nat) (j : Nat) (ga : BitVec 5) (gb : BitVec 5) (u : State) (s : State), s.issues k j useAB (wordR 0x1D 0 ga gb 0) u ∧ (u.scAcc k j).stale = false ∧ u.coreOwner (nbits (u.gpr k j gb).toNat 12 6) = u.coreOwner k) ∧
    (∃ (k : Nat) (j : Nat) (ga : BitVec 5) (gb : BitVec 5) (u : State) (s : State), s.issues k j useAB (wordR 0x1D 0 ga gb 0) u ∧ (u.scAcc k j).stale = false ∧ u.coreOwner (nbits (u.gpr k j gb).toNat 12 6) ≠ u.coreOwner k) ∧
    (∃ (k : Nat) (j : Nat) (gd : BitVec 5) (ga : BitVec 5) (gb : BitVec 5) (q : QRec) (r : (Nat × Nat) × State) (u : State) (s : State), s.issues k j useNoFn (wordR 0x1E gd ga gb 0) u ∧ (u.gpr k j ga).toNat + 64 ≤ 2 ^ 23 ∧ (u.gpr k j gb).toNat ≤ 2 ∧ u.scRec k j = some q ∧ (u.scAcc k j).stale = false ∧ (u.cbGet k (u.gpr k j ga).toNat 64).1.2 = [] ∧ (u.cbGet k (u.gpr k j ga).toNat 64).2.post (u.gpr k j gb).toNat k (some ((u.gpr k j gd).toNat % 256)) q (BitVec.ofNat 512 (ofLe (u.cbGet k (u.gpr k j ga).toNat 64).1.1)) = some r) ∧
    (∃ (k : Nat) (j : Nat) (imm : W16) (u : State) (s : State), s.issues k j useI (wordI 0x20 0 0 imm) u ∧ bits imm 1 0 ≠ 0 ∧ (bits imm 1 0 = 2 ∨ bits imm 3 2 ≠ 3 ∨ (u.pipe k j).remote = 0)) ∧
    (∃ (k : Nat) (j : Nat) (imm : W16) (u : State) (s : State), s.issues k j useI (wordI 0x20 0 0 imm) u ∧ bits imm 0 0 = 1 ∧ bits imm 3 2 = 3 ∧ (u.pipe k j).remote ≠ 0) ∧
    (∃ (k : Nat) (j : Nat) (u : State) (s : State), s.issues k j useOp (wordI 0x3F 0 0 0) u) ∧
    (∃ (k : Nat) (v : W64) (s : State), s.up = true ∧ k < 128 ∧ bitOf v 0 = true) :=
  ⟨⟨0, 0, 0, 1, 2, 3, some 5, 0, wU (wSc (wordR 0x10 1 2 3 0) [(2, 0x800), (3, 5), (1, 7)]), (wSc (wordR 0x10 1 2 3 0) [(2, 0x800), (3, 5), (1, 7)]), issues_intro (by decide +kernel), by decide +kernel, by decide +kernel, by decide +kernel, by decide +kernel, by decide +kernel⟩,
   ⟨0, 0, 32, 1, 2, 3, (⟨0, 0, 21, 0, 0, 0, true, false⟩ : Leaf), 0x800, some 5, 0, _, (List.replicate 4 0), wU (wSc (wordR 0x10 1 2 3 32) [(2, 0x800), (3, 5), (1, 7)]), _, _, (wSc (wordR 0x10 1 2 3 32) [(2, 0x800), (3, 5), (1, 7)]), issues_intro (by decide +kernel), by decide +kernel, by decide +kernel, by decide +kernel, by decide +kernel, by decide +kernel, pairEta _, sameRes_eq _ _ (by decide +kernel), by decide +kernel, nonePair_eq _ (by decide +kernel)⟩,
   ⟨0, 0, 96, 1, 2, 3, (⟨0, 0x800, 11, 4, 0x4000, 9, true, false⟩ : Leaf), 0x4000, wU ({ (wSc (wordR 0x10 1 2 3 96) [(2, 0x800), (3, 5), (1, 7)]) with mem := Memory.write ((wSc (wordR 0x10 1 2 3 96) [(2, 0x800), (3, 5), (1, 7)])).mem 18 [1], parts := [(0, { wPart with leaves := [⟨0, 0, 11, 0, 0, 0, true, false⟩, ⟨0, 0x800, 11, 4, 0x4000, 9, true, false⟩] })], ports := [(0, wPort)] }), _, ({ (wSc (wordR 0x10 1 2 3 96) [(2, 0x800), (3, 5), (1, 7)]) with mem := Memory.write ((wSc (wordR 0x10 1 2 3 96) [(2, 0x800), (3, 5), (1, 7)])).mem 18 [1], parts := [(0, { wPart with leaves := [⟨0, 0, 11, 0, 0, 0, true, false⟩, ⟨0, 0x800, 11, 4, 0x4000, 9, true, false⟩] })], ports := [(0, wPort)] }), issues_intro (by decide +kernel), by decide +kernel, by decide +kernel, by decide +kernel, by decide +kernel, by decide +kernel, sentPair_eq _ (request_sent (e := 0) (by decide +kernel))⟩,
   ⟨0, 0, 0x160, 1, 2, 3, wU (((wSc (wordR 0x10 1 2 3 352) [(2, 0x800), (3, 5), (1, 7)])).modPipe 0 0 fun p => { p with remote := 1 }), (((wSc (wordR 0x10 1 2 3 352) [(2, 0x800), (3, 5), (1, 7)])).modPipe 0 0 fun p => { p with remote := 1 }), issues_intro (by decide +kernel), by decide +kernel, by decide +kernel, by decide +kernel, by decide +kernel, by decide +kernel⟩,
   ⟨0, 0, 0, 1, 2, 3, wU (wSc (wordR 0x10 1 2 3 0) [(2, 0x802)]), (wSc (wordR 0x10 1 2 3 0) [(2, 0x802)]), issues_intro (by decide +kernel), by decide +kernel⟩,
   ⟨0, 0, 2, 3, wU (wSc (wordI 0x1c 0 2 3) []), (wSc (wordI 0x1c 0 2 3) []), issues_intro (by decide +kernel), by decide +kernel⟩,
   ⟨0, 0, 2, 3, wU (wSc (wordI 0x1c 0 2 3) [(2, 1)]), (wSc (wordI 0x1c 0 2 3) [(2, 1)]), issues_intro (by decide +kernel), by decide +kernel⟩,
   ⟨0, 0, 2, 3, wU (wSc (wordR 0x1d 0 2 3 0) [(2, 4), (3, 0x83)]), (wSc (wordR 0x1d 0 2 3 0) [(2, 4), (3, 0x83)]), issues_intro (by decide +kernel), by decide +kernel, by decide +kernel⟩,
   ⟨0, 0, 2, 3, wU (wSc (wordR 0x1d 0 2 3 0) [(2, 4), (3, 0x1FC3)]), (wSc (wordR 0x1d 0 2 3 0) [(2, 4), (3, 0x1FC3)]), issues_intro (by decide +kernel), by decide +kernel, by decide +kernel⟩,
   ⟨0, 0, 1, 2, 3, wQ (wRec 0x30 []), ((((wU (wSc (wordR 0x1e 1 2 3 0) [(2, 0x800)])).cbGet 0 0x800 64).2.post 0 0 (some 0) (wQ (wRec 0x30 [])) 0).getD ((0, 0), wJob)), wU (wSc (wordR 0x1e 1 2 3 0) [(2, 0x800)]), (wSc (wordR 0x1e 1 2 3 0) [(2, 0x800)]), issues_intro (by decide +kernel), by decide +kernel, by decide +kernel, by decide +kernel, by decide +kernel, by decide +kernel, by decide +kernel⟩,
   ⟨0, 0, 1, wU (wSc (wordI 0x20 0 0 1) [(2, 0x800)]), (wSc (wordI 0x20 0 0 1) [(2, 0x800)]), issues_intro (by decide +kernel), by decide +kernel, by decide +kernel⟩,
   ⟨0, 0, 13, wU (((wSc (wordI 0x20 0 0 13) [(2, 0x800)])).modPipe 0 0 fun p => { p with remote := 1 }), (((wSc (wordI 0x20 0 0 13) [(2, 0x800)])).modPipe 0 0 fun p => { p with remote := 1 }), issues_intro (by decide +kernel), by decide +kernel, by decide +kernel, by decide +kernel⟩,
   ⟨0, 0, wU (wSc (wordI 0x3f 0 0 0) [(2, 0x800)]), (wSc (wordI 0x3f 0 0 0) [(2, 0x800)]), issues_intro (by decide +kernel)⟩,
   ⟨127, 1, wUp, by decide +kernel⟩⟩

theorem witness_ScalarBranches :
    (∃ (k : Nat) (j : Nat) (gd : BitVec 5) (ga : BitVec 5) (imm : W16) (u : State) (s : State), s.issues k j useR (wordI 0x14 gd ga imm) u) ∧
    (∃ (k : Nat) (j : Nat) (gd : BitVec 5) (ga : BitVec 5) (imm : W16) (u : State) (s : State), s.issues k j useR (wordI 0x15 gd ga imm) u) ∧
    (∃ (k : Nat) (j : Nat) (gd : BitVec 5) (ga : BitVec 5) (imm : W16) (u : State) (s : State), s.issues k j useR (wordI 0x16 gd ga imm) u) ∧
    (∃ (k : Nat) (j : Nat) (gd : BitVec 5) (ga : BitVec 5) (imm : W16) (u : State) (s : State), s.issues k j useR (wordI 0x17 gd ga imm) u) ∧
    (∃ (k : Nat) (j : Nat) (gd : BitVec 5) (ga : BitVec 5) (imm : W16) (u : State) (s : State), s.issues k j useDI (wordI 0x18 gd 0 imm) u) ∧
    (∃ (k : Nat) (j : Nat) (gd : BitVec 5) (ga : BitVec 5) (imm : W16) (u : State) (s : State), s.issues k j useDA (wordI 0x19 gd ga 0) u) :=
  ⟨⟨0, 0, 1, 2, 0xFFFF, wU (wSc (wordI 0x14 1 2 0xFFFF) [(2, 0x800)]), (wSc (wordI 0x14 1 2 0xFFFF) [(2, 0x800)]), issues_intro (by decide +kernel)⟩,
   ⟨0, 0, 1, 2, 0xFFFF, wU (wSc (wordI 0x15 1 2 0xFFFF) [(2, 0x800)]), (wSc (wordI 0x15 1 2 0xFFFF) [(2, 0x800)]), issues_intro (by decide +kernel)⟩,
   ⟨0, 0, 1, 2, 0xFFFF, wU (wSc (wordI 0x16 1 2 0xFFFF) [(2, 0x800)]), (wSc (wordI 0x16 1 2 0xFFFF) [(2, 0x800)]), issues_intro (by decide +kernel)⟩,
   ⟨0, 0, 1, 2, 0xFFFF, wU (wSc (wordI 0x17 1 2 0xFFFF) [(2, 0x800)]), (wSc (wordI 0x17 1 2 0xFFFF) [(2, 0x800)]), issues_intro (by decide +kernel)⟩,
   ⟨0, 0, 1, 2, 0xFFFF, wU (wSc (wordI 0x18 1 0 0xFFFF) [(2, 0x800)]), (wSc (wordI 0x18 1 0 0xFFFF) [(2, 0x800)]), issues_intro (by decide +kernel)⟩,
   ⟨0, 0, 1, 2, 0, wU (wSc (wordI 0x19 1 2 0) [(2, 0x800)]), (wSc (wordI 0x19 1 2 0) [(2, 0x800)]), issues_intro (by decide +kernel)⟩⟩

theorem witness_StoreScrubAndErrors :
    (∃ (t : Nat) (s : State), s.up = true ∧ t < 8 ∧ bitOf (s.rg (pk tSTORE t) 0x210) 0 = true ∧ s.sage.fatal = none ∧ ((s.slice t).scrubOff) % 8 = 0 ∧ ((s.slice t).scrubOff) < 2 ^ 32 ∧ s.noUpset (t * 2 ^ 32 + ((s.slice t).scrubOff)) 8) ∧
    (∃ (t : Nat) (s : State), s.up = true ∧ t < 8 ∧ bitOf (s.rg (pk tSTORE t) 0x210) 0 = true ∧ s.sage.fatal = none ∧ ((s.slice t).scrubOff) % 8 = 0 ∧ ((s.slice t).scrubOff) < 2 ^ 32 ∧ s.noUpset (t * 2 ^ 32 + ((s.slice t).scrubOff)) 8) ∧
    (∃ (c : SliceSt), c.scrubOff + 8 < 2 ^ 32) ∧
    (∃ (c : SliceSt), 2 ^ 32 ≤ c.scrubOff + 8) ∧
    (∃ (t : Nat) (e : MemErr) (s : State), bitOf (s.rg (pk tSTORE t) 0x210) 0 = false) ∧
    (∃ (t : Nat) (v : W64) (s : State), s.up = true ∧ t < 8) :=
  ⟨⟨7, wUp, by decide +kernel, by decide +kernel, by decide +kernel, by decide +kernel, by decide +kernel, by decide +kernel, ⟨by decide +kernel, by decide +kernel⟩⟩,
   ⟨0, wUp, by decide +kernel, by decide +kernel, by decide +kernel, by decide +kernel, by decide +kernel, by decide +kernel, ⟨by decide +kernel, by decide +kernel⟩⟩,
   ⟨SliceSt.zero, by decide +kernel⟩,
   ⟨{ SliceSt.zero with scrubOff := 2 ^ 32 - 8 }, by decide +kernel⟩,
   ⟨0, .clean, wUp.setRg (pk tSTORE 0) 0x210 0, by decide +kernel⟩,
   ⟨7, 1, wUp, by decide +kernel⟩⟩

theorem witness_MoverDescriptorsStart :
    (∃ (t : Nat) (id : Nat) (op : Nat) (i : Instr) (d : MDesc) (s : State), (op, i) ∈ mvCmds t id ∧ s.running = true ∧ s.mdesc t id = some d ∧ (mvOf d.raw).op = op ∧ d.st ≠ .reading ∧ s.mvMay t d = true ∧ mvBad d.src d.raw = false) ∧
    (∃ (t : Nat) (id : Nat) (op : Nat) (i : Instr) (d : MDesc) (s : State), (op, i) ∈ mvCmds t id ∧ s.running = true ∧ s.mdesc t id = some d ∧ (mvOf d.raw).op = op ∧ d.st = .reading ∧ s.mvStale d = false) ∧
    (∃ (t : Nat) (id : Nat) (op : Nat) (i : Instr) (d : MDesc) (s : State), (op, i) ∈ mvCmds t id ∧ s.running = true ∧ s.mdesc t id = some d ∧ (mvOf d.raw).op = op ∧ s.mvMay t d = true ∧ mvBad d.src d.raw = true ∧ d.id = id ∧ d.err = none) ∧
    (∃ (t : Nat) (id : Nat) (op : Nat) (i : Instr) (d : MDesc) (s : State), (op, i) ∈ mvCmds t id ∧ s.running = true ∧ s.mdesc t id = some d ∧ ((mvOf d.raw).op ≠ op ∨ (d.st ≠ .reading ∧ s.mvMay t d = false))) ∧
    (∃ (t : Nat) (id : Nat) (k : Nat) (d : MDesc) (s : State), s.mvTurn t id k d ∧ s.upsets = [] ∧ (mvOf d.raw).rows = 1 ∧ (mvOf d.raw).len ≤ 4096 ∧ aoSpace (mvOf d.raw).dst = 2 ∧ (aoAddr (mvOf d.raw).dst) + (mvOf d.raw).len ≤ 2 ^ 23 ∧ (mvOf d.raw).op = 1 ∧ aoSpace (mvOf d.raw).src = 2 ∧ (aoAddr (mvOf d.raw).src) + (mvOf d.raw).len ≤ 2 ^ 23) ∧
    (∃ (t : Nat) (id : Nat) (k : Nat) (d : MDesc) (s : State), s.mvTurn t id k d ∧ s.upsets = [] ∧ (mvOf d.raw).rows = 1 ∧ (mvOf d.raw).len ≤ 4096 ∧ aoSpace (mvOf d.raw).dst = 2 ∧ (aoAddr (mvOf d.raw).dst) + (mvOf d.raw).len ≤ 2 ^ 23 ∧ (mvOf d.raw).op = 5) ∧
    (∃ (t : Nat) (id : Nat) (k : Nat) (d : MDesc) (s : State), s.mvTurn t id k d ∧ s.upsets = [] ∧ (mvOf d.raw).rows = 1 ∧ (mvOf d.raw).len ≤ 4096 ∧ aoSpace (mvOf d.raw).dst = 2 ∧ (aoAddr (mvOf d.raw).dst) + (mvOf d.raw).len ≤ 2 ^ 23 ∧ (mvOf d.raw).op = 2 ∧ aoSpace (mvOf d.raw).src = 2 ∧ aoSpace (mvOf d.raw).aux = 2 ∧ aoAddr (mvOf d.raw).aux + 4 ≤ 2 ^ 23 ∧ (ofLe (s.cbRead k (aoAddr (mvOf d.raw).aux) 4)) = 0xFFFFFFFF) ∧
    (∃ (t : Nat) (id : Nat) (k : Nat) (d : MDesc) (s : State), s.mvTurn t id k d ∧ s.upsets = [] ∧ (mvOf d.raw).rows = 1 ∧ (mvOf d.raw).len ≤ 4096 ∧ aoSpace (mvOf d.raw).dst = 2 ∧ (aoAddr (mvOf d.raw).dst) + (mvOf d.raw).len ≤ 2 ^ 23 ∧ (mvOf d.raw).op = 2 ∧ aoSpace (mvOf d.raw).src = 2 ∧ aoSpace (mvOf d.raw).aux = 2 ∧ aoAddr (mvOf d.raw).aux + 4 ≤ 2 ^ 23 ∧ (ofLe (s.cbRead k (aoAddr (mvOf d.raw).aux) 4)) ≠ 0xFFFFFFFF ∧ (aoAddr (mvOf d.raw).src) + (ofLe (s.cbRead k (aoAddr (mvOf d.raw).aux) 4)) * (mvOf d.raw).ss + (mvOf d.raw).len ≤ 2 ^ 23 ∧ ((aoAddr (mvOf d.raw).src) + (ofLe (s.cbRead k (aoAddr (mvOf d.raw).aux) 4)) * (mvOf d.raw).ss + (mvOf d.raw).len ≤ (aoAddr (mvOf d.raw).dst) ∨ (aoAddr (mvOf d.raw).dst) + (mvOf d.raw).len ≤ (aoAddr (mvOf d.raw).src) + (ofLe (s.cbRead k (aoAddr (mvOf d.raw).aux) 4)) * (mvOf d.raw).ss)) ∧
    (∃ (t : Nat) (id : Nat) (k : Nat) (d : MDesc) (s : State), s.mvTurn t id k d ∧ s.upsets = [] ∧ (mvOf d.raw).rows = 1 ∧ (mvOf d.raw).len ≤ 4096 ∧ aoSpace (mvOf d.raw).dst = 2 ∧ (aoAddr (mvOf d.raw).dst) + (mvOf d.raw).len ≤ 2 ^ 23 ∧ (mvOf d.raw).op = 3 ∧ aoSpace (mvOf d.raw).src = 2 ∧ aoSpace (mvOf d.raw).aux = 2 ∧ aoAddr (mvOf d.raw).aux + 4 ≤ 2 ^ 23 ∧ (ofLe (s.cbRead k (aoAddr (mvOf d.raw).aux) 4)) = 0xFFFFFFFF) ∧
    (∃ (t : Nat) (id : Nat) (k : Nat) (d : MDesc) (s : State), s.mvTurn t id k d ∧ s.upsets = [] ∧ (mvOf d.raw).rows = 1 ∧ (mvOf d.raw).len ≤ 4096 ∧ aoSpace (mvOf d.raw).dst = 2 ∧ (aoAddr (mvOf d.raw).dst) + (mvOf d.raw).len ≤ 2 ^ 23 ∧ (mvOf d.raw).op = 3 ∧ aoSpace (mvOf d.raw).src = 2 ∧ aoSpace (mvOf d.raw).aux = 2 ∧ aoAddr (mvOf d.raw).aux + 4 ≤ 2 ^ 23 ∧ (ofLe (s.cbRead k (aoAddr (mvOf d.raw).aux) 4)) ≠ 0xFFFFFFFF ∧ (aoAddr (mvOf d.raw).src) + (mvOf d.raw).len ≤ 2 ^ 23 ∧ (aoAddr (mvOf d.raw).dst) + (ofLe (s.cbRead k (aoAddr (mvOf d.raw).aux) 4)) * (mvOf d.raw).ds + (mvOf d.raw).len ≤ 2 ^ 23 ∧ ((aoAddr (mvOf d.raw).src) + (mvOf d.raw).len ≤ (aoAddr (mvOf d.raw).dst) + (ofLe (s.cbRead k (aoAddr (mvOf d.raw).aux) 4)) * (mvOf d.raw).ds ∨ (aoAddr (mvOf d.raw).dst) + (ofLe (s.cbRead k (aoAddr (mvOf d.raw).aux) 4)) * (mvOf d.raw).ds + (mvOf d.raw).len ≤ (aoAddr (mvOf d.raw).src))) ∧
    (∃ (t : Nat) (id : Nat) (k : Nat) (d : MDesc) (s : State), s.mvTurn t id k d ∧ s.upsets = [] ∧ Memory.wf s.cb = true ∧ (mvOf d.raw).op = 4 ∧ (mvOf d.raw).rows = 1 ∧ (mvOf d.raw).len * (2 ^ (mvOf d.raw).esize) ≤ 4096 ∧ aoSpace (mvOf d.raw).src = 2 ∧ aoSpace (mvOf d.raw).dst = 2 ∧ (2 ^ (mvOf d.raw).esize) ≤ (mvOf d.raw).ds ∧ (aoAddr (mvOf d.raw).src) + (mvOf d.raw).len * (2 ^ (mvOf d.raw).esize) ≤ 2 ^ 23 ∧ (aoAddr (mvOf d.raw).dst) + (mvOf d.raw).len * (mvOf d.raw).ds ≤ 2 ^ 23 ∧ ((aoAddr (mvOf d.raw).src) + (mvOf d.raw).len * (2 ^ (mvOf d.raw).esize) ≤ (aoAddr (mvOf d.raw).dst) ∨ (aoAddr (mvOf d.raw).dst) + (mvOf d.raw).len * (mvOf d.raw).ds ≤ (aoAddr (mvOf d.raw).src))) ∧
    (∃ (t : Nat) (id : Nat) (d : MDesc) (s : State), s.running = true ∧ s.mdesc t id = some d ∧ d.id = id ∧ isSteward d = true ∧ s.mvMay t d = true ∧ mvBad d.src d.raw = false ∧ s.mvOutstanding t id = false ∧ d.phase = 0 ∧ d.pos = 0 ∧ d.buf = [] ∧ d.err = none ∧ (mvOf d.raw).op = 6 ∧ (mvOf d.raw).rows = 1 ∧ (mvOf d.raw).len ≤ 4096 ∧ (aoAddr (mvOf d.raw).dst) % 8 = 0 ∧ (mvOf d.raw).len % 8 = 0 ∧ (aoAddr (mvOf d.raw).dst) + (mvOf d.raw).len ≤ 2 ^ 35 ∧ s.noUpset (aoAddr (mvOf d.raw).dst) (mvOf d.raw).len ∧ (∀ w, w ∈ s.poison → w % 8 = 0)) :=
  ⟨⟨0, 3, 1, (.copy 0 3), (wDesc (wMv 1 [bfld 8 8 (cbOp 0), bfld 16 8 (cbOp 4096), bfld 24 8 (0), bfld 32 4 64]) .accepted), wMover ((wDesc (wMv 1 [bfld 8 8 (cbOp 0), bfld 16 8 (cbOp 4096), bfld 24 8 (0), bfld 32 4 64]) .accepted)), by decide +kernel⟩,
   ⟨0, 3, 1, (.copy 0 3), { ((wDesc (wMv 1 [bfld 8 8 (cbOp 0), bfld 16 8 (cbOp 4096), bfld 24 8 (0), bfld 32 4 64]) .accepted) : MDesc) with st := .reading }, wMover ({ ((wDesc (wMv 1 [bfld 8 8 (cbOp 0), bfld 16 8 (cbOp 4096), bfld 24 8 (0), bfld 32 4 64]) .accepted) : MDesc) with st := .reading }), by decide +kernel⟩,
   ⟨0, 3, 1, (.copy 0 3), (wDesc (wMv 1 [bfld 8 8 (cbOp 0), bfld 16 8 (cbOp 4096), bfld 24 8 (0), bfld 32 4 0]) .accepted), wMover ((wDesc (wMv 1 [bfld 8 8 (cbOp 0), bfld 16 8 (cbOp 4096), bfld 24 8 (0), bfld 32 4 0]) .accepted)), by decide +kernel⟩,
   ⟨0, 3, 2, (.gather 0 3), (wDesc (wMv 1 [bfld 8 8 (cbOp 0), bfld 16 8 (cbOp 4096), bfld 24 8 (0), bfld 32 4 64]) .accepted), wMover ((wDesc (wMv 1 [bfld 8 8 (cbOp 0), bfld 16 8 (cbOp 4096), bfld 24 8 (0), bfld 32 4 64]) .accepted)), by decide +kernel⟩,
   ⟨0, 3, 0, (wDesc (wMv 1 [bfld 8 8 (cbOp 0), bfld 16 8 (cbOp 4096), bfld 24 8 (0), bfld 32 4 64]) .accepted), wMover ((wDesc (wMv 1 [bfld 8 8 (cbOp 0), bfld 16 8 (cbOp 4096), bfld 24 8 (0), bfld 32 4 64]) .accepted)), ⟨by decide +kernel, by decide +kernel, by decide +kernel, ⟨_, rfl⟩, by decide +kernel, by decide +kernel, by decide +kernel, by decide +kernel, by decide +kernel, by decide +kernel, by decide +kernel, by decide +kernel⟩, by decide +kernel, by decide +kernel, by decide +kernel, by decide +kernel, by decide +kernel, by decide +kernel, by decide +kernel, by decide +kernel⟩,
   ⟨0, 3, 0, (wDesc (wMv 5 [bfld 8 8 (0), bfld 16 8 (cbOp 4096), bfld 24 8 (0), bfld 32 4 64]) .accepted), wMover ((wDesc (wMv 5 [bfld 8 8 (0), bfld 16 8 (cbOp 4096), bfld 24 8 (0), bfld 32 4 64]) .accepted)), ⟨by decide +kernel, by decide +kernel, by decide +kernel, ⟨_, rfl⟩, by decide +kernel, by decide +kernel, by decide +kernel, by decide +kernel, by decide +kernel, by decide +kernel, by decide +kernel, by decide +kernel⟩, by decide +kernel, by decide +kernel, by decide +kernel, by decide +kernel, by decide +kernel, by decide +kernel⟩,
   ⟨0, 3, 0, (wDesc (wMv 2 [bfld 8 8 (cbOp 0), bfld 16 8 (cbOp 4096), bfld 24 8 (cbOp 8192), bfld 32 4 64, bfld 36 4 128]) .accepted), ({ wMover ((wDesc (wMv 2 [bfld 8 8 (cbOp 0), bfld 16 8 (cbOp 4096), bfld 24 8 (cbOp 8192), bfld 32 4 64, bfld 36 4 128]) .accepted)) with cb := Memory.write [] 8192 (leBytes 4 0xFFFFFFFF) }), ⟨by decide +kernel, by decide +kernel, by decide +kernel, ⟨_, rfl⟩, by decide +kernel, by decide +kernel, by decide +kernel, by decide +kernel, by decide +kernel, by decide +kernel, by decide +kernel, by decide +kernel⟩, by decide +kernel, by decide +kernel, by decide +kernel, by decide +kernel, by decide +kernel, by decide +kernel, by decide +kernel, by decide +kernel, by decide +kernel, by decide +kernel⟩,
   ⟨0, 3, 0, (wDesc (wMv 2 [bfld 8 8 (cbOp 0), bfld 16 8 (cbOp 4096), bfld 24 8 (cbOp 8192), bfld 32 4 64, bfld 36 4 128]) .accepted), ({ wMover ((wDesc (wMv 2 [bfld 8 8 (cbOp 0), bfld 16 8 (cbOp 4096), bfld 24 8 (cbOp 8192), bfld 32 4 64, bfld 36 4 128]) .accepted)) with cb := Memory.write [] 8192 (leBytes 4 2) }), ⟨by decide +kernel, by decide +kernel, by decide +kernel, ⟨_, rfl⟩, by decide +kernel, by decide +kernel, by decide +kernel, by decide +kernel, by decide +kernel, by decide +kernel, by decide +kernel, by decide +kernel⟩, by decide +kernel, by decide +kernel, by decide +kernel, by decide +kernel, by decide +kernel, by decide +kernel, by decide +kernel, by decide +kernel, by decide +kernel, by decide +kernel, by decide +kernel, by decide +kernel⟩,
   ⟨0, 3, 0, (wDesc (wMv 3 [bfld 8 8 (cbOp 0), bfld 16 8 (cbOp 4096), bfld 24 8 (cbOp 8192), bfld 32 4 64, bfld 40 4 128]) .accepted), ({ wMover ((wDesc (wMv 3 [bfld 8 8 (cbOp 0), bfld 16 8 (cbOp 4096), bfld 24 8 (cbOp 8192), bfld 32 4 64, bfld 40 4 128]) .accepted)) with cb := Memory.write [] 8192 (leBytes 4 0xFFFFFFFF) }), ⟨by decide +kernel, by decide +kernel, by decide +kernel, ⟨_, rfl⟩, by decide +kernel, by decide +kernel, by decide +kernel, by decide +kernel, by decide +kernel, by decide +kernel, by decide +kernel, by decide +kernel⟩, by decide +kernel, by decide +kernel, by decide +kernel, by decide +kernel, by decide +kernel, by decide +kernel, by decide +kernel, by decide +kernel, by decide +kernel, by decide +kernel⟩,
   ⟨0, 3, 0, (wDesc (wMv 3 [bfld 8 8 (cbOp 0), bfld 16 8 (cbOp 4096), bfld 24 8 (cbOp 8192), bfld 32 4 64, bfld 40 4 128]) .accepted), ({ wMover ((wDesc (wMv 3 [bfld 8 8 (cbOp 0), bfld 16 8 (cbOp 4096), bfld 24 8 (cbOp 8192), bfld 32 4 64, bfld 40 4 128]) .accepted)) with cb := Memory.write [] 8192 (leBytes 4 2) }), ⟨by decide +kernel, by decide +kernel, by decide +kernel, ⟨_, rfl⟩, by decide +kernel, by decide +kernel, by decide +kernel, by decide +kernel, by decide +kernel, by decide +kernel, by decide +kernel, by decide +kernel⟩, by decide +kernel, by decide +kernel, by decide +kernel, by decide +kernel, by decide +kernel, by decide +kernel, by decide +kernel, by decide +kernel, by decide +kernel, by decide +kernel, by decide +kernel, by decide +kernel, by decide +kernel⟩,
   ⟨0, 3, 0, (wDesc (wMv 4 [bfld 8 8 (cbOp 0), bfld 16 8 (cbOp 4096), bfld 24 8 (0), bfld 32 4 8, bfld 40 4 64]) .accepted), wMover ((wDesc (wMv 4 [bfld 8 8 (cbOp 0), bfld 16 8 (cbOp 4096), bfld 24 8 (0), bfld 32 4 8, bfld 40 4 64]) .accepted)), ⟨by decide +kernel, by decide +kernel, by decide +kernel, ⟨_, rfl⟩, by decide +kernel, by decide +kernel, by decide +kernel, by decide +kernel, by decide +kernel, by decide +kernel, by decide +kernel, by decide +kernel⟩, by decide +kernel, by decide +kernel, by decide +kernel, by decide +kernel, by decide +kernel, by decide +kernel, by decide +kernel, by decide +kernel, by decide +kernel, by decide +kernel, by decide +kernel⟩,
   ⟨0, 3, { (wDesc (wMv 6 [bfld 8 8 (0), bfld 16 8 (vaOp 0x2000), bfld 24 8 (0), bfld 32 4 64]) .accepted) with src := .steward }, wMover ({ (wDesc (wMv 6 [bfld 8 8 (0), bfld 16 8 (vaOp 0x2000), bfld 24 8 (0), bfld 32 4 64]) .accepted) with src := .steward }), by decide +kernel, by decide +kernel, by decide +kernel, by decide +kernel, by decide +kernel, by decide +kernel, by decide +kernel, by decide +kernel, by decide +kernel, by decide +kernel, by decide +kernel, by decide +kernel, by decide +kernel, by decide +kernel, by decide +kernel, by decide +kernel, by decide +kernel, ⟨by decide +kernel, by decide +kernel⟩, by decide +kernel⟩⟩

theorem witness_MoverEffects :
    (∃ (t : Nat) (id : Nat) (r : TRep) (d : MDesc) (s : State), s.up = true ∧ (s.mover t).replies.find? (fun x => x.desc == id) = some r ∧ s.mdesc t id = some d ∧ s.mvStale d = false) ∧
    (∃ (t : Nat) (id : Nat) (r : TRep) (d : MDesc) (s : State), s.up = true ∧ (s.mover t).replies.find? (fun x => x.desc == id) = some r ∧ s.mdesc t id = some d ∧ s.mvStale d = true) ∧
    (∃ (d : MDesc) (r : TRep) (b : Bytes), d.err = none ∧ r.data = some b) ∧
    (∃ (d : MDesc) (r : TRep) (b : Bytes), d.err = none ∧ r.data = none) ∧
    (∃ (d : MDesc) (r : TRep) (b : Bytes), d.err = none ∧ r.down = true) ∧
    (∃ (d : MDesc) (r : TRep) (b : Bytes), d.err = none ∧ r.down = false ∧ r.bad ≠ [] ∧ (mvOf d.raw).op ≠ 7) ∧
    (∃ (d : MDesc) (r : TRep) (b : Bytes), d.err = none ∧ r.down = false ∧ r.bad = []) ∧
    (∃ (t : Nat) (id : Nat) (d : MDesc) (s : State), s.mdesc t id = some d ∧ s.up = true ∧ d.id = id ∧ d.st = .done ∧ s.mvOutstanding t id = false ∧ d.err = none ∧ (mvOf d.raw).op ≠ 7) ∧
    (∃ (t : Nat) (id : Nat) (d : MDesc) (s : State), s.mdesc t id = some d ∧ s.up = true ∧ d.id = id ∧ d.st = .done ∧ s.mvOutstanding t id = false ∧ d.err = none ∧ (mvOf d.raw).op = 7 ∧ d.src = .steward) ∧
    (∃ (t : Nat) (v : W64) (s : State), bits (s.rg (pk tMOVER t) 0x298) 12 0 ≤ bits v 12 0) ∧
    (∃ (t : Nat) (v : W64) (s : State), s.up = true ∧ t < 8 ∧ bits v 12 0 < bits (s.rg (pk tMOVER t) 0x298) 12 0 ∧ (∀ d, d ∈ (s.mover t).descs → d.id < (s.mover t).nextId)) :=
  ⟨⟨0, 3, (⟨3, 0, some [1, 2], [], false, 1⟩ : TRep), { ((wDesc (wMv 1 [bfld 8 8 (vaOp 0x10000), bfld 16 8 (cbOp 4096), bfld 24 8 (0), bfld 32 4 64]) .reading) : MDesc) with step := 0 }, ({ wJob with movers := [(0, { MoverSt.zero with descs := [{ ((wDesc (wMv 1 [bfld 8 8 (vaOp 0x10000), bfld 16 8 (cbOp 4096), bfld 24 8 (0), bfld 32 4 64]) .reading) : MDesc) with step := 0 }], replies := [(⟨3, 0, some [1, 2], [], false, 1⟩ : TRep)] })] }), by decide +kernel⟩,
   ⟨0, 3, (⟨3, 0, some [1, 2], [], false, 1⟩ : TRep), { ({ ((wDesc (wMv 1 [bfld 8 8 (vaOp 0x10000), bfld 16 8 (cbOp 4096), bfld 24 8 (0), bfld 32 4 64]) .reading) : MDesc) with step := 0 }) with gen := 1 }, ({ wJob with movers := [(0, { MoverSt.zero with descs := [{ ({ ((wDesc (wMv 1 [bfld 8 8 (vaOp 0x10000), bfld 16 8 (cbOp 4096), bfld 24 8 (0), bfld 32 4 64]) .reading) : MDesc) with step := 0 }) with gen := 1 }], replies := [(⟨3, 0, some [1, 2], [], false, 1⟩ : TRep)] })] }), by decide +kernel⟩,
   ⟨(wDesc (wMv 1 [bfld 8 8 (cbOp 0), bfld 16 8 (cbOp 4096), bfld 24 8 (0), bfld 32 4 64]) .accepted), (⟨3, 0, some [1, 2], [], false, 1⟩ : TRep), [1, 2], by decide +kernel⟩,
   ⟨(wDesc (wMv 1 [bfld 8 8 (cbOp 0), bfld 16 8 (cbOp 4096), bfld 24 8 (0), bfld 32 4 64]) .accepted), (⟨3, 0, none, [], true, 1⟩ : TRep), [], by decide +kernel⟩,
   ⟨(wDesc (wMv 1 [bfld 8 8 (cbOp 0), bfld 16 8 (cbOp 4096), bfld 24 8 (0), bfld 32 4 64]) .accepted), (⟨3, 0, none, [], true, 1⟩ : TRep), [], by decide +kernel⟩,
   ⟨(wDesc (wMv 1 [bfld 8 8 (cbOp 0), bfld 16 8 (cbOp 4096), bfld 24 8 (0), bfld 32 4 64]) .accepted), (⟨3, 0, some [1, 2], [0], false, 1⟩ : TRep), [1, 2], by decide +kernel⟩,
   ⟨(wDesc (wMv 1 [bfld 8 8 (cbOp 0), bfld 16 8 (cbOp 4096), bfld 24 8 (0), bfld 32 4 64]) .accepted), (⟨3, 0, some [1, 2], [], false, 1⟩ : TRep), [1, 2], by decide +kernel⟩,
   ⟨0, 3, ({ (wDesc (wMv 1 [bfld 8 8 (cbOp 0), bfld 16 8 (cbOp 4096), bfld 24 8 (0), bfld 32 4 64]) .accepted) with st := .done, src := .port 0 (some 5) }), wMover ({ (wDesc (wMv 1 [bfld 8 8 (cbOp 0), bfld 16 8 (cbOp 4096), bfld 24 8 (0), bfld 32 4 64]) .accepted) with st := .done, src := .port 0 (some 5) }), by decide +kernel⟩,
   ⟨0, 3, ({ { (wDesc (wMv 7 [bfld 8 8 (vaOp 0x10000000000), bfld 16 8 (vaOp 0x10000010000), bfld 24 8 (0), bfld 32 4 64]) .accepted) with src := .steward } with st := .done }), wMover ({ { (wDesc (wMv 7 [bfld 8 8 (vaOp 0x10000000000), bfld 16 8 (vaOp 0x10000010000), bfld 24 8 (0), bfld 32 4 64]) .accepted) with src := .steward } with st := .done }), by decide +kernel⟩,
   ⟨0, 8, wUp.setRg (pk tMOVER 0) 0x298 8, by decide +kernel⟩,
   ⟨0, 7, wUp.setRg (pk tMOVER 0) 0x298 8, by decide +kernel⟩⟩

theorem witness_TierRequests :
    (∃ (u : TierUnit) (r : TReq) (s : State) (b : _), s.up = true ∧ s.sage.fatal = none ∧ unitOk u = true ∧ (s.tier (unitKey u)).selfRefresh = false ∧ s.nextBurst (unitKey u) = some r ∧ r.wr = some b ∧ r.bad = [] ∧ s.noUpset (unitBase (unitKey u) + r.off) b.length) ∧
    (∃ (u : TierUnit) (r : TReq) (s : State), s.up = true ∧ s.sage.fatal = none ∧ unitOk u = true ∧ (s.tier (unitKey u)).selfRefresh = false ∧ s.nextBurst (unitKey u) = some r ∧ r.wr = none ∧ s.noUpset (unitBase (unitKey u) + r.off) r.len ∧ s.poisonIn (unitBase (unitKey u) + r.off) r.len = []) ∧
    (∃ (u : TierUnit) (r : TReq) (s : State) (e : _), s.up = true ∧ s.sage.fatal = none ∧ unitOk u = true ∧ (s.tier (unitKey u)).selfRefresh = false ∧ s.nextBurst (unitKey u) = some r ∧ r.wr = none ∧ s.noUpset (unitBase (unitKey u) + r.off) r.len ∧ 1 ≤ r.len ∧ inTier ((unitBase (unitKey u) + r.off) / 64 * 64) = true ∧ e.dies ≠ [] ∧ cwDecode (s.tier (unitKey u)).die e = .uncorrectable ∧ tierKeyOf ((unitBase (unitKey u) + r.off) / 64 * 64) = (unitKey u) ∧ Tbl.get cwGood s.cwUpsets ((unitBase (unitKey u) + r.off) / 64) = cwGood) ∧
    (∃ (b : Nat) (rank : Nat) (r : TReq) (s : State) (w : _), s.up = true ∧ s.sage.fatal = none ∧ b < 8 ∧ s.nextCrumb b = some (16 + 8 * rank + b, r) ∧ (s.tier (16 + 8 * rank + b)).selfRefresh = false ∧ r.wr = some w ∧ r.bad = [] ∧ s.noUpset (unitBase (16 + 8 * rank + b) + r.off) w.length) ∧
    (∃ (b : Nat) (rank : Nat) (r : TReq) (s : State), s.up = true ∧ s.sage.fatal = none ∧ b < 8 ∧ s.nextCrumb b = some (16 + 8 * rank + b, r) ∧ (s.tier (16 + 8 * rank + b)).selfRefresh = false ∧ r.wr = none ∧ s.noUpset (unitBase (16 + 8 * rank + b) + r.off) r.len ∧ s.poisonIn (unitBase (16 + 8 * rank + b) + r.off) r.len = []) ∧
    (∃ (u : TierUnit) (off : Nat) (len : Nat) (stream : Nat) (wr : Bool) (e : CwErr) (s : State), (s.nextBurst (unitKey u) = none ∨ (s.tier (unitKey u)).selfRefresh = true ∨ (∃ r, s.nextBurst (unitKey u) = some r ∧ r.named off len wr stream = false))) ∧
    (∃ (b : Nat) (rank : Nat) (off : Nat) (len : Nat) (stream : Nat) (wr : Bool) (e : CwErr) (s : State), (s.nextCrumb b = none ∨ (∃ k r, s.nextCrumb b = some (k, r) ∧ (k ≠ 16 + 8 * rank + b ∨ (s.tier k).selfRefresh = true ∨ r.named off len wr stream = false)))) :=
  ⟨⟨.near 15, (⟨0, 3, 2, 1, 5, 4096, 4, some [1, 2, 3, 4], [], false, none⟩ : TReq), { wRun with tiers := [(15, { TierSt.zero with reqs := [(⟨0, 3, 2, 1, 5, 4096, 4, some [1, 2, 3, 4], [], false, none⟩ : TReq)] })] }, ([1, 2, 3, 4] : Bytes), by decide +kernel, by decide +kernel, by decide +kernel, by decide +kernel, by decide +kernel, by decide +kernel, by decide +kernel, ⟨by decide +kernel, by decide +kernel⟩⟩,
   ⟨.near 15, (⟨0, 3, 2, 1, 5, 4096, 64, none, [], false, none⟩ : TReq), { wRun with tiers := [(15, { TierSt.zero with reqs := [(⟨0, 3, 2, 1, 5, 4096, 64, none, [], false, none⟩ : TReq)] })] }, by decide +kernel, by decide +kernel, by decide +kernel, by decide +kernel, by decide +kernel, by decide +kernel, ⟨by decide +kernel, by decide +kernel⟩, by decide +kernel⟩,
   ⟨.near 15, (⟨0, 3, 2, 1, 5, 4096, 64, none, [], false, none⟩ : TReq), { wRun with tiers := [(15, { TierSt.zero with reqs := [(⟨0, 3, 2, 1, 5, 4096, 64, none, [], false, none⟩ : TReq)] })] }, (⟨[0, 1, 2], false, 0⟩ : CwErr), by decide +kernel, by decide +kernel, by decide +kernel, by decide +kernel, by decide +kernel, by decide +kernel, ⟨by decide +kernel, by decide +kernel⟩, by decide +kernel, by decide +kernel, by decide +kernel, by decide +kernel, by decide +kernel, by decide +kernel⟩,
   ⟨2, 0, (⟨0, 3, 2, 1, 5, 4096, 4, some [1, 2, 3, 4], [], true, none⟩ : TReq), { wRun with tiers := [(18, { TierSt.zero with reqs := [(⟨0, 3, 2, 1, 5, 4096, 4, some [1, 2, 3, 4], [], true, none⟩ : TReq)] })] }, ([1, 2, 3, 4] : Bytes), by decide +kernel, by decide +kernel, by decide +kernel, by decide +kernel, by decide +kernel, by decide +kernel, by decide +kernel, ⟨by decide +kernel, by decide +kernel⟩⟩,
   ⟨2, 0, (⟨0, 3, 2, 1, 5, 4096, 32, none, [], true, none⟩ : TReq), { wRun with tiers := [(18, { TierSt.zero with reqs := [(⟨0, 3, 2, 1, 5, 4096, 32, none, [], true, none⟩ : TReq)] })] }, by decide +kernel, by decide +kernel, by decide +kernel, by decide +kernel, by decide +kernel, by decide +kernel, ⟨by decide +kernel, by decide +kernel⟩, by decide +kernel⟩,
   ⟨.near 0, 0, 64, 1, false, cwGood, wRun, Or.inl (by decide +kernel)⟩,
   ⟨0, 0, 0, 32, 1, false, cwGood, wRun, Or.inl (by decide +kernel)⟩⟩

theorem witness_TierMaintenance :
    (∃ (u : TierUnit) (s : State), s.up = true ∧ s.sage.fatal = none ∧ unitOk u = true ∧ bitOf (s.rg (tierPage (unitKey u)) 0x210) 0 = true ∧ s.linkDownOf (unitKey u) = false ∧ (s.tier (unitKey u)).selfRefresh = false ∧ s.noUpset (unitBase (unitKey u) + ((s.tier (unitKey u)).scrubOff)) 64 ∧ Tbl.get cwGood s.cwUpsets ((unitBase (unitKey u) + ((s.tier (unitKey u)).scrubOff)) / 64) = cwGood) ∧
    (∃ (u : TierUnit) (row : Nat) (rest : List Nat) (s : State), s.up = true ∧ (s.tier (unitKey u)).repairing = row :: rest) ∧
    (∃ (u : TierUnit) (pg : Nat) (s : State), s.up = true ∧ unitOk u = true ∧ pg < unitPages (unitKey u) ∧ (s.tier (unitKey u)).retired.contains pg = false) ∧
    (∃ (u : TierUnit) (pg : Nat) (s : State), (s.up = false ∨ unitOk u = false ∨ unitPages (unitKey u) ≤ pg ∨ (s.tier (unitKey u)).retired.contains pg = true)) ∧
    (∃ (u : TierUnit) (row : Nat) (rest : List Nat) (s : State), s.running = true ∧ unitOk u = true ∧ (s.tier (unitKey u)).retireReq = row :: rest ∧ s.pageSteward (unitKey u) (row / 1024) = false ∧ (s.back (backKey (unitKey u) (row / 1024))).owner = none ∧ (s.tier (unitKey u)).retired.contains (row / 1024) = false) ∧
    (∃ (u : TierUnit) (row : Nat) (rest : List Nat) (s : State) (p : _) (f : _), s.running = true ∧ unitOk u = true ∧ (s.tier (unitKey u)).retireReq = row :: rest ∧ s.pageSteward (unitKey u) (row / 1024) = false ∧ (s.back (backKey (unitKey u) (row / 1024))).owner = some p ∧ (s.part p).state ≠ .tearingDown ∧ (s.part p).state ≠ .scrubbing ∧ s.freePage (unitKey u) = some f ∧ s.migrations < 8 ∧ (s.mover (tierTile (unitKey u))).descs.length < 1024) ∧
    (∃ (e : Nat × Nat) (rest : List (Nat × Nat)) (s : State), s.up = true ∧ s.boot.retireQueue = e :: rest) ∧
    (∃ (u : TierUnit) (v : W64) (s : State), s.up = true ∧ unitOk u = true) ∧
    (∃ (b : Nat) (s : State), s.up = true ∧ b < 8 ∧ (s.bridge b).linkUp = true) ∧
    (∃ (s : State), s.up = true ∧ s.boot.code = 0x03) ∧
    (∃ (u : TierUnit) (hot : Bool) (s : State), s.up = true ∧ unitOk u = true) :=
  ⟨⟨.near 0, wUp, by decide +kernel, by decide +kernel, by decide +kernel, by decide +kernel, by decide +kernel, by decide +kernel, ⟨by decide +kernel, by decide +kernel⟩, by decide +kernel⟩,
   ⟨.near 0, 7, [], { wRun with tiers := [(0, { TierSt.zero with repairing := [7] })] }, by decide +kernel⟩,
   ⟨.near 0, 5, wUp, by decide +kernel⟩,
   ⟨.near 0, 32768, wUp, by decide +kernel⟩,
   ⟨.near 0, 102400, [], { wRun with tiers := [(0, { TierSt.zero with retireReq := [102400] })] }, by decide +kernel⟩,
   ⟨.near 0, 102400, [], { { wJob with tiers := [(0, { TierSt.zero with retireReq := [102400] })] } with backing := [(backKey 0 100, ⟨some 0, none, 0⟩)] }, 0, 0, by decide +kernel⟩,
   ⟨(3, 4), [], { wUp with boot := { wUp.boot with retireQueue := [(3, 4)] } }, by decide +kernel⟩,
   ⟨.near 0, 1, wUp, by decide +kernel⟩,
   ⟨7, { wUp with bridges := [(7, { BridgeSt.zero with linkUp := true })] }, by decide +kernel⟩,
   ⟨{ wUp with boot := { wUp.boot with code := 3 } }, by decide +kernel⟩,
   ⟨.near 0, true, wUp, by decide +kernel⟩⟩

theorem witness_QueueControl :
    (∃ (fn : Fn) (q : Nat) (s : State), s.up = true ∧ qOk fn q = true ∧ (s.sq (qKey fn q)).state = .disabled ∧ 16 ≤ s.sqEntries fn q ∧ s.sqEntries fn q ≤ 4096 ∧ qOk fn (s.sqCq fn q) = true ∧ (s.cq (qKey fn (s.sqCq fn q))).enabled = true) ∧
    (∃ (fn : Fn) (q : Nat) (s : State), s.up = true ∧ qOk fn q = true ∧ (s.sq (qKey fn q)).state = .disabled ∧ (s.sqEntries fn q < 16 ∨ 4096 < s.sqEntries fn q ∨ qOk fn (s.sqCq fn q) = false ∨ (s.cq (qKey fn (s.sqCq fn q))).enabled = false)) ∧
    (∃ (fn : Fn) (q : Nat) (s : State), s.up = true ∧ qOk fn q = true ∧ (s.sq (qKey fn q)).state ≠ .disabled) ∧
    (∃ (fn : Fn) (q : Nat) (s : State), s.up = true ∧ qOk fn q = true ∧ (s.sq (qKey fn q)).draining = true ∧ (∀ e, e ∈ s.ents → ¬(e.fn = fn ∧ e.sq = q))) ∧
    (∃ (fn : Fn) (q : Nat) (s : State) (e : _), s.up = true ∧ qOk fn q = true ∧ (s.sq (qKey fn q)).draining = true ∧ e ∈ s.ents ∧ e.fn = fn ∧ e.sq = q) ∧
    (∃ (fn : Fn) (q : Nat) (s : State), s.up = true ∧ qOk fn q = true ∧ ((s.sq (qKey fn q)).state = .failed ∨ (s.sq (qKey fn q)).state = .broken)) ∧
    (∃ (fn : Fn) (q : Nat) (s : State), s.up = true ∧ qOk fn q = true ∧ (s.cq (qKey fn q)).enabled = false ∧ 16 ≤ s.cqEntries fn q ∧ s.cqEntries fn q ≤ 4096 ∧ (s.trEntries fn q = 0 ∨ (16 ≤ s.trEntries fn q ∧ s.trEntries fn q ≤ 1048576))) ∧
    (∃ (fn : Fn) (q : Nat) (s : State), s.up = true ∧ qOk fn q = true ∧ (s.cq (qKey fn q)).enabled = false ∧ (s.cqEntries fn q < 16 ∨ 4096 < s.cqEntries fn q ∨ (s.trEntries fn q ≠ 0 ∧ (s.trEntries fn q < 16 ∨ 1048576 < s.trEntries fn q)))) ∧
    (∃ (fn : Fn) (q : Nat) (s : State), s.up = true ∧ qOk fn q = true ∧ (s.cq (qKey fn q)).enabled = true ∧ s.cqBound fn q = false) ∧
    (∃ (fn : Fn) (q : Nat) (s : State), s.up = true ∧ qOk fn q = true ∧ (s.cq (qKey fn q)).enabled = true ∧ s.cqBound fn q = true) ∧
    (∃ (v : W64) (s : State), s.up = true) :=
  ⟨⟨.vf 0, 0, (wSq SqSt.zero wCqN []), by decide +kernel⟩,
   ⟨.vf 0, 0, wSq SqSt.zero CqSt.zero [], by decide +kernel⟩,
   ⟨.vf 0, 0, wSq wQN wCqN [], by decide +kernel⟩,
   ⟨.vf 0, 0, wSq { wQN with draining := true } wCqN [], by decide +kernel⟩,
   ⟨.vf 0, 0, wSq { wQN with draining := true } wCqN [wEnt], wEnt, by decide +kernel⟩,
   ⟨.vf 0, 0, wSq { wQN with state := .failed } wCqN [], by decide +kernel⟩,
   ⟨.vf 0, 0, wSq SqSt.zero CqSt.zero [], by decide +kernel⟩,
   ⟨.vf 0, 0, (wSq SqSt.zero CqSt.zero []).setRg (pk tVFCQ 0) 0x208 15, by decide +kernel⟩,
   ⟨.vf 0, 0, wSq SqSt.zero wCqN [], by decide +kernel⟩,
   ⟨.vf 0, 0, wSq wQN wCqN [], by decide +kernel⟩,
   ⟨0x85, wUp, by decide +kernel⟩⟩

theorem witness_Doorbells :
    (∃ (fn : Fn) (q : Nat) (v : W64) (s : State), s.up = true ∧ qOk fn q = true ∧ (s.sq (qKey fn q)).state ≠ .disabled ∧ bits v 12 0 < s.sqEntries fn q) ∧
    (∃ (fn : Fn) (q : Nat) (v : W64) (s : State), s.up = true ∧ qOk fn q = true ∧ ((s.sq (qKey fn q)).state = .disabled ∨ s.sqEntries fn q ≤ bits v 12 0)) ∧
    (∃ (fn : Fn) (q : Nat) (d : Nat) (v : W64) (s : State), s.up = true ∧ qOk fn q = true ∧ (s.cq (qKey fn q)).enabled = true ∧ freedBy (s.cqEntries fn q) (s.cq (qKey fn q)).used (s.cq (qKey fn q)).head (bits v 12 0) = some d) ∧
    (∃ (fn : Fn) (q : Nat) (d : Nat) (v : W64) (s : State), s.up = true ∧ qOk fn q = true ∧ (s.cq (qKey fn q)).enabled = true ∧ freedBy (s.trEntries fn q) (s.cq (qKey fn q)).trUsed (s.cq (qKey fn q)).trHead (bits v 19 0) = some d) ∧
    (∃ (fn : Fn) (q : Nat) (v : W64) (s : State), s.up = true ∧ qOk fn q = true ∧ ((s.cq (qKey fn q)).enabled = false ∨ freedBy (s.cqEntries fn q) (s.cq (qKey fn q)).used (s.cq (qKey fn q)).head (bits v 12 0) = none)) ∧
    (∃ (fn : Fn) (q : Nat) (v : W64) (s : State), s.up = true ∧ qOk fn q = true ∧ ((s.cq (qKey fn q)).enabled = false ∨ freedBy (s.trEntries fn q) (s.cq (qKey fn q)).trUsed (s.cq (qKey fn q)).trHead (bits v 19 0) = none)) ∧
    (∃ (n : Nat) (used : Nat) (head : Nat) (v : Nat) (d : Nat), head < n ∧ used ≤ n ∧ freedBy n used head v = some d) :=
  ⟨⟨.vf 0, 0, 15, wSq wQN wCqN [], by decide +kernel⟩,
   ⟨.vf 0, 0, 16, wSq wQN wCqN [], by decide +kernel⟩,
   ⟨.vf 0, 0, 3, 3, wSq wQN { wCqN with used := 3, tail := 3 } [], by decide +kernel⟩,
   ⟨.vf 0, 0, 2, 2, wSq wQN { wCqN with trUsed := 2, trTail := 2 } [], by decide +kernel⟩,
   ⟨.vf 0, 0, 0, wSq wQN CqSt.zero [], by decide +kernel⟩,
   ⟨.vf 0, 0, 0, wSq wQN CqSt.zero [], by decide +kernel⟩,
   ⟨16, 3, 15, 1, 2, by decide +kernel⟩⟩

theorem witness_EntriesAreFetchedAndSignalled :
    (∃ (fn : Fn) (q : Nat) (b : Bytes) (s : State), s.mayFetch fn q = true ∧ entOk fn ((BitVec.ofNat 512 (ofLe (b.take 64)) : Desc)) = true) ∧
    (∃ (fn : Fn) (q : Nat) (b : Bytes) (s : State), s.mayFetch fn q = true ∧ entOk fn ((BitVec.ofNat 512 (ofLe (b.take 64)) : Desc)) = false ∧ (∀ y, y ∈ s.ents → y.uid < s.gfe.nextUid)) ∧
    (∃ (fn : Fn) (q : Nat) (s : State), s.mayFetch fn q = true) ∧
    (∃ (fn : Fn) (q : Nat) (r : HostRd) (s : State), s.mayFetch fn q = false) ∧
    (∃ (fn : Fn) (q : Nat) (e : Entry) (s : State), s.entsDistinct = true ∧ s.toPlace fn q = some e ∧ (entOpc e.raw = 0 ∨ entOpc e.raw = 2)) ∧
    (∃ (fn : Fn) (q : Nat) (s : State), s.toPlace fn q = none) ∧
    (∃ (p : Nat) (c : Nat) (i : Nat) (v : Nat) (s : State), v < 2 ^ 46) :=
  ⟨⟨.vf 0, 0, (List.replicate 64 0), wSq wQN wCqN [], by decide +kernel⟩,
   ⟨.vf 0, 0, (List.replicate 64 0xFF), wSq wQN wCqN [wEnt], by decide +kernel⟩,
   ⟨.vf 0, 0, wSq wQN wCqN [], by decide +kernel⟩,
   ⟨.vf 0, 0, .refused, wUp, by decide +kernel⟩,
   ⟨.vf 0, 0, wFetched 2, wHead 2, by decide +kernel⟩,
   ⟨.vf 0, 1, wHead 2, by decide +kernel⟩,
   ⟨0, 0, 9, 77, wUp, by decide +kernel⟩⟩

theorem witness_EntriesCompleteOrDeadlock :
    (∃ (fn : Fn) (q : Nat) (e : Entry) (s : State), s.up = true ∧ s.sage.fatal = none ∧ qOk fn q = true ∧ (s.cq (qKey fn q)).enabled = true ∧ (s.cq (qKey fn q)).broken = false ∧ s.doneOf fn q = some e ∧ s.writeFaults fn false = false) ∧
    (∃ (fn : Fn) (q : Nat) (e : Entry) (s : State), s.up = true ∧ s.sage.fatal = none ∧ qOk fn q = true ∧ (s.cq (qKey fn q)).enabled = true ∧ (s.cq (qKey fn q)).broken = false ∧ s.doneOf fn q = some e ∧ s.atsOn fn = true) ∧
    (∃ (fn : Fn) (q : Nat) (e : Entry) (s : State), s.up = true ∧ s.sage.fatal = none ∧ qOk fn q = true ∧ (s.cq (qKey fn q)).enabled = true ∧ (s.cq (qKey fn q)).broken = false ∧ s.doneOf fn q = some e ∧ s.atsOn fn = true ∧ s.relOf e.uid ≠ []) ∧
    (∃ (fn : Fn) (q : Nat) (s : State), s.up = true ∧ qOk fn q = true ∧ (s.cq (qKey fn q)).broken = true ∧ s.writeFaults fn false = false) ∧
    (∃ (fn : Fn) (q : Nat) (e : Entry) (s : State), s.up = true ∧ qOk fn q = true ∧ (s.cq (qKey fn q)).broken = true ∧ s.atsOn fn = true ∧ s.doneOf fn q = some e) ∧
    (∃ (fn : Fn) (q : Nat) (f : Option Nat) (s : State), (s.cq (qKey fn q)).broken = false) ∧
    (∃ (p : Nat) (s : State), s.running = true ∧ s.served p = true ∧ s.partHalted p = false ∧ s.sage.stewardRst = false ∧ s.walkDue p = true ∧ s.entsDistinct = true ∧ s.deadlocked p = []) ∧
    (∃ (p : Nat) (s : State), s.running = true ∧ s.served p = true ∧ s.partHalted p = false ∧ s.sage.stewardRst = false ∧ s.walkDue p = true ∧ s.entsDistinct = true ∧ s.deadlocked p ≠ []) ∧
    (∃ (fn : Fn) (q : Nat) (s : State), s.up = true ∧ qOk fn q = true ∧ (s.sq (qKey fn q)).state = .failed) :=
  ⟨⟨.vf 0, 0, { wEnt with st := .done }, wSq wQN wCqN [{ wEnt with st := .done }], by decide +kernel⟩,
   ⟨.vf 0, 0, { wEnt with st := .done }, { wSq wQN wCqN [{ wEnt with st := .done }] with pcie := { wJob.pcie with ats := [(1, true)] } }, by decide +kernel⟩,
   ⟨.vf 0, 0, { wEnt with st := .done }, { wSq wQN wCqN [{ wEnt with st := .done }] with pcie := { wJob.pcie with ats := [(1, true)] }, emit := ⟨[], [⟨0, 7, 0, 0, 0⟩], [], false⟩ }, by decide +kernel⟩,
   ⟨.vf 0, 0, wSq wQN { wCqN with broken := true } [], by decide +kernel⟩,
   ⟨.vf 0, 0, { wEnt with st := .done }, { wSq wQN { wCqN with broken := true } [{ wEnt with st := .done }] with pcie := { wJob.pcie with ats := [(1, true)] } }, by decide +kernel⟩,
   ⟨.vf 0, 0, none, wSq wQN wCqN [], by decide +kernel⟩,
   ⟨0, wHead 2, by decide +kernel⟩,
   ⟨0, wHead (pack 512 [bfld 0 1 2, ⟨18, 16, 1⟩, ⟨20, 19, 1⟩, bfld 16 8 5, bfld 24 8 5]), by decide +kernel⟩,
   ⟨.vf 0, 0, wSq { wQN with state := .failed } wCqN [wEnt], by decide +kernel⟩⟩

theorem witness_PlansLoadAndUnload :
    (∃ (fn : Fn) (q : Nat) (h : Nat) (e : Entry) (r : RdRes) (u : State) (s : State) (f : _), s.toPlace fn q = some e ∧ entOpc e.raw = 4 ∧ s.freeHandle e.part = some h ∧ (s.takeHead fn q e).readVa .store false (entAcc e) (entOperand e.raw 0 % 2 ^ 49) 256 = (r, u) ∧ r.use (entOperand e.raw 0 % 2 ^ 49) = .error f) ∧
    (∃ (fn : Fn) (q : Nat) (h : Nat) (e : Entry) (r : RdRes) (u : State) (s : State) (hd : _), s.toPlace fn q = some e ∧ entOpc e.raw = 4 ∧ s.freeHandle e.part = some h ∧ (s.takeHead fn q e).readVa .store false (entAcc e) (entOperand e.raw 0 % 2 ^ 49) 256 = (r, u) ∧ r.use (entOperand e.raw 0 % 2 ^ 49) = .ok hd ∧ (hdrImageOk hd = false ∨ aligned (entOperand e.raw 0 % 2 ^ 49) 64 = false)) ∧
    (∃ (fn : Fn) (q : Nat) (h : Nat) (e : Entry) (r : RdRes) (u : State) (s : State) (hd : Bytes) (b : Bytes) (r2 : RdRes) (u2 : State) (sub : _), s.toPlace fn q = some e ∧ entOpc e.raw = 4 ∧ s.freeHandle e.part = some h ∧ (s.takeHead fn q e).readVa .store false (entAcc e) (entOperand e.raw 0 % 2 ^ 49) 256 = (r, u) ∧ r.use (entOperand e.raw 0 % 2 ^ 49) = .ok hd ∧ hdrImageOk hd = true ∧ aligned (entOperand e.raw 0 % 2 ^ 49) 64 = true ∧ u.readVa .store false (entAcc e) (entOperand e.raw 0 % 2 ^ 49) (fld hd 40 8) = (r2, u2) ∧ r2.use (entOperand e.raw 0 % 2 ^ 49) = .ok b ∧ u2.loadFail e.part (entOperand e.raw 0 % 2 ^ 49) b (planAt e.part e.ctx h (entOperand e.raw 0 % 2 ^ 49) b) = some sub) ∧
    (∃ (fn : Fn) (q : Nat) (e : Entry) (s : State) (pl : _), s.toPlace fn q = some e ∧ entOpc e.raw = 5 ∧ s.namedPlan e = some pl) ∧
    (∃ (fn : Fn) (q : Nat) (e : Entry) (s : State), s.toPlace fn q = some e ∧ entOpc e.raw = 5 ∧ s.namedPlan e = none) ∧
    (∃ (p : Nat) (h : Nat) (q : Plan) (s : State), s.entsDistinct = true ∧ s.planOf p h = some q ∧ s.running = true ∧ q.unloading = true ∧ s.planInUse p h = false) ∧
    (∃ (p : Nat) (h : Nat) (s : State), s.planInUse p h = true) ∧
    (∃ (q : Nat) (e : Entry) (pl : Plan) (t0 : PatchPt) (s : State), s.toPlace .pf q = some e ∧ entOpc e.raw = 6 ∧ s.namedPlan e = some pl ∧ pl.patches.find? (fun x => x.id == byteFld e.raw 6 2) = some t0 ∧ patchLenOk t0.kind (BitVec.ofNat 64 (byteFld e.raw 8 8)) = true ∧ s.planRuns e.part pl.handle = true ∧ s.ent e.uid = some e) ∧
    (∃ (q : Nat) (e : Entry) (pl : Plan) (t0 : PatchPt) (s : State), s.toPlace .pf q = some e ∧ entOpc e.raw = 6 ∧ s.namedPlan e = some pl ∧ pl.patches.find? (fun x => x.id == byteFld e.raw 6 2) = some t0 ∧ patchLenOk t0.kind (BitVec.ofNat 64 (byteFld e.raw 8 8)) = true ∧ s.planRuns e.part pl.handle = false) ∧
    (∃ (q : Nat) (e : Entry) (s : State), s.toPlace .pf q = some e ∧ entOpc e.raw = 6 ∧ s.namedPlan e = none) ∧
    (∃ (q : Nat) (e : Entry) (s : State) (pl : _), s.toPlace .pf q = some e ∧ entOpc e.raw = 6 ∧ s.namedPlan e = some pl ∧ (∀ t0, pl.patches.find? (fun x => x.id == byteFld e.raw 6 2) = some t0 → patchLenOk t0.kind (BitVec.ofNat 64 (byteFld e.raw 8 8)) = false)) ∧
    (∃ (p : Nat) (q : Nat) (e : Entry) (s : State), s.toPlace (.vf p) q = some e ∧ entOpc e.raw = 6) ∧
    (∃ (v : W64) (s : State), s.up = true ∧ s.gfe.level = 2 ∧ bits v 1 0 = 1 ∧ s.plans = [] ∧ s.gfe.placedAny = false) ∧
    (∃ (v : W64) (s : State), s.up = true ∧ (s.gfe.level ≠ 2 ∨ bits v 1 0 ≠ 1 ∨ s.plans ≠ [] ∨ s.gfe.placedAny = true)) :=
  ⟨⟨.vf 0, 0, 0, wFetched (pack 512 [bfld 0 1 4, bfld 16 8 0x100000000]), _, _, wHead (pack 512 [bfld 0 1 4, bfld 16 8 0x100000000]), _, by decide +kernel, by decide +kernel, by decide +kernel, pairEta _, errOf_eq _ (by decide +kernel)⟩,
   ⟨.vf 0, 0, 0, wFetched (pack 512 [bfld 0 1 4, bfld 16 8 0x1000]), ((((wHead (pack 512 [bfld 0 1 4, bfld 16 8 0x1000]))).takeHead (.vf 0) 0 (wFetched (pack 512 [bfld 0 1 4, bfld 16 8 0x1000]))).readVa .store false (entAcc (wFetched (pack 512 [bfld 0 1 4, bfld 16 8 0x1000]))) 0x1000 256).1, ((((wHead (pack 512 [bfld 0 1 4, bfld 16 8 0x1000]))).takeHead (.vf 0) 0 (wFetched (pack 512 [bfld 0 1 4, bfld 16 8 0x1000]))).readVa .store false (entAcc (wFetched (pack 512 [bfld 0 1 4, bfld 16 8 0x1000]))) 0x1000 256).2, wHead (pack 512 [bfld 0 1 4, bfld 16 8 0x1000]), (List.replicate 256 0 : Bytes), by decide +kernel, by decide +kernel, by decide +kernel, by decide +kernel, sameRes_eq _ _ (by decide +kernel), by decide +kernel⟩,
   ⟨.vf 0, 0, 0, wFetched (pack 512 [bfld 0 1 4, bfld 16 8 0x1000]), ((({ wHead (pack 512 [bfld 0 1 4, bfld 16 8 0x1000]) with mem := Memory.write [] 0x1000 (leBytes 256 (0x4B424C48 + 0x0840 * 2 ^ 32 + 2 ^ 48 + 256 * 2 ^ 320)) }).takeHead (.vf 0) 0 (wFetched (pack 512 [bfld 0 1 4, bfld 16 8 0x1000]))).readVa .store false (entAcc (wFetched (pack 512 [bfld 0 1 4, bfld 16 8 0x1000]))) 0x1000 256).1, ((({ wHead (pack 512 [bfld 0 1 4, bfld 16 8 0x1000]) with mem := Memory.write [] 0x1000 (leBytes 256 (0x4B424C48 + 0x0840 * 2 ^ 32 + 2 ^ 48 + 256 * 2 ^ 320)) }).takeHead (.vf 0) 0 (wFetched (pack 512 [bfld 0 1 4, bfld 16 8 0x1000]))).readVa .store false (entAcc (wFetched (pack 512 [bfld 0 1 4, bfld 16 8 0x1000]))) 0x1000 256).2, { wHead (pack 512 [bfld 0 1 4, bfld 16 8 0x1000]) with mem := Memory.write [] 0x1000 (leBytes 256 (0x4B424C48 + 0x0840 * 2 ^ 32 + 2 ^ 48 + 256 * 2 ^ 320)) }, (leBytes 256 (0x4B424C48 + 0x0840 * 2 ^ 32 + 2 ^ 48 + 256 * 2 ^ 320)), (leBytes 256 (0x4B424C48 + 0x0840 * 2 ^ 32 + 2 ^ 48 + 256 * 2 ^ 320)), ((((({ wHead (pack 512 [bfld 0 1 4, bfld 16 8 0x1000]) with mem := Memory.write [] 0x1000 (leBytes 256 (0x4B424C48 + 0x0840 * 2 ^ 32 + 2 ^ 48 + 256 * 2 ^ 320)) }).takeHead (.vf 0) 0 (wFetched (pack 512 [bfld 0 1 4, bfld 16 8 0x1000]))).readVa .store false (entAcc (wFetched (pack 512 [bfld 0 1 4, bfld 16 8 0x1000]))) 0x1000 256)).2.readVa .store false (entAcc (wFetched (pack 512 [bfld 0 1 4, bfld 16 8 0x1000]))) 0x1000 256).1, ((((({ wHead (pack 512 [bfld 0 1 4, bfld 16 8 0x1000]) with mem := Memory.write [] 0x1000 (leBytes 256 (0x4B424C48 + 0x0840 * 2 ^ 32 + 2 ^ 48 + 256 * 2 ^ 320)) }).takeHead (.vf 0) 0 (wFetched (pack 512 [bfld 0 1 4, bfld 16 8 0x1000]))).readVa .store false (entAcc (wFetched (pack 512 [bfld 0 1 4, bfld 16 8 0x1000]))) 0x1000 256)).2.readVa .store false (entAcc (wFetched (pack 512 [bfld 0 1 4, bfld 16 8 0x1000]))) 0x1000 256).2, 2, by decide +kernel, by decide +kernel, by decide +kernel, by decide +kernel, sameRes_eq _ _ (by decide +kernel), by decide +kernel, by decide +kernel, by decide +kernel, sameRes_eq _ _ (by decide +kernel), by decide +kernel⟩,
   ⟨.vf 0, 0, wFetched (pack 512 [bfld 0 1 5, bfld 4 2 1]), wHead (pack 512 [bfld 0 1 5, bfld 4 2 1]), wPlan, by decide +kernel⟩,
   ⟨.vf 0, 0, wFetched (pack 512 [bfld 0 1 5, bfld 4 2 2]), wHead (pack 512 [bfld 0 1 5, bfld 4 2 2]), by decide +kernel⟩,
   ⟨0, 1, { wPlan with unloading := true }, { wJob with ents := [], plans := [{ wPlan with unloading := true }] }, by decide +kernel⟩,
   ⟨0, 1, wJob, by decide +kernel⟩,
   ⟨0, { wFetched (pack 512 [bfld 0 1 6, bfld 4 2 1, bfld 6 2 9]) with fn := .pf, uid := 8 }, { wPlan with patches := [⟨9, 0, 0, 64⟩] }, ⟨9, 0, 0, 64⟩, ({ (((wJob.setRg (pk tPFSQ 0) 0x208 16).setRg (pk tPFCQ 0) 0x208 16)) with plans := [{ wPlan with patches := [⟨9, 0, 0, 64⟩] }], ents := [wEnt, { wFetched (pack 512 [bfld 0 1 6, bfld 4 2 1, bfld 6 2 9]) with fn := .pf, uid := 8 }], sqs := [(0, wQN)], cqs := [(0, wCqN)] }), by decide +kernel⟩,
   ⟨0, { wFetched (pack 512 [bfld 0 1 6, bfld 4 2 1, bfld 6 2 9]) with fn := .pf, uid := 8 }, { wPlan with patches := [⟨9, 0, 0, 64⟩] }, ⟨9, 0, 0, 64⟩, ({ (((wJob.setRg (pk tPFSQ 0) 0x208 16).setRg (pk tPFCQ 0) 0x208 16)) with plans := [{ wPlan with patches := [⟨9, 0, 0, 64⟩] }], ents := [{ wFetched (pack 512 [bfld 0 1 6, bfld 4 2 1, bfld 6 2 9]) with fn := .pf, uid := 8 }], sqs := [(0, wQN)], cqs := [(0, wCqN)] }), by decide +kernel⟩,
   ⟨0, { wFetched (pack 512 [bfld 0 1 6, bfld 4 2 2, bfld 6 2 9]) with fn := .pf, uid := 8 }, ({ (((wJob.setRg (pk tPFSQ 0) 0x208 16).setRg (pk tPFCQ 0) 0x208 16)) with plans := [{ wPlan with patches := [⟨9, 0, 0, 64⟩] }], ents := [wEnt, { wFetched (pack 512 [bfld 0 1 6, bfld 4 2 2, bfld 6 2 9]) with fn := .pf, uid := 8 }], sqs := [(0, wQN)], cqs := [(0, wCqN)] }), by decide +kernel⟩,
   ⟨0, { wFetched (pack 512 [bfld 0 1 6, bfld 4 2 1, bfld 6 2 8]) with fn := .pf, uid := 8 }, ({ (((wJob.setRg (pk tPFSQ 0) 0x208 16).setRg (pk tPFCQ 0) 0x208 16)) with plans := [{ wPlan with patches := [⟨9, 0, 0, 64⟩] }], ents := [wEnt, { wFetched (pack 512 [bfld 0 1 6, bfld 4 2 1, bfld 6 2 8]) with fn := .pf, uid := 8 }], sqs := [(0, wQN)], cqs := [(0, wCqN)] }), ({ wPlan with patches := [⟨9, 0, 0, 64⟩] } : Plan), by decide +kernel⟩,
   ⟨0, 0, wFetched (pack 512 [bfld 0 1 6, bfld 4 2 1, bfld 6 2 9]), wHead (pack 512 [bfld 0 1 6, bfld 4 2 1, bfld 6 2 9]), by decide +kernel⟩,
   ⟨1, wUp, by decide +kernel⟩,
   ⟨2, wUp, by decide +kernel⟩⟩

theorem witness_LaunchesArePlaced :
    (∃ (fn : Fn) (q : Nat) (b : Nat) (e : Entry) (pl : Plan) (s : State), s.toPlace fn q = some e ∧ entOpc e.raw = 1 ∧ s.namedPlan e = some pl ∧ s.launchCheck e pl = .ok b) ∧
    (∃ (fn : Fn) (q : Nat) (e : Entry) (s : State), s.toPlace fn q = some e ∧ entOpc e.raw = 1 ∧ s.ent e.uid = some e ∧ s.namedPlan e = none) ∧
    (∃ (fn : Fn) (q : Nat) (e : Entry) (s : State) (pl : _) (er : _), s.toPlace fn q = some e ∧ entOpc e.raw = 1 ∧ s.ent e.uid = some e ∧ s.namedPlan e = some pl ∧ s.launchCheck e pl = .error er) ∧
    (∃ (fn : Fn) (q : Nat) (s : State), s.toPlace fn q = none) ∧
    (∃ (p : Nat) (s : State), s.running = true ∧ s.served p = true ∧ (∀ e, e ∈ s.ents → e.part = p → e.st ≠ .placed ∧ e.st ≠ .running) ∧ (s.sliceDone p = true ∨ ((∀ x, x ∈ sqsFor p → s.launchHead x.1 x.2 = none) ∧ s.otherWaits p = true))) ∧
    (∃ (p : Nat) (s : State), (s.running = false ∨ s.served p = false ∨ (∃ e, e ∈ s.ents ∧ e.part = p ∧ (e.st = .placed ∨ e.st = .running)) ∨ (s.sliceDone p = false ∧ s.otherWaits p = false))) :=
  ⟨⟨.vf 0, 0, (match (({ wHead (pack 512 [bfld 0 1 1, bfld 4 2 1, bfld 12 2 1, bfld 14 2 4]) with plans := [wPlan] }).launchCheck (wFetched (pack 512 [bfld 0 1 1, bfld 4 2 1, bfld 12 2 1, bfld 14 2 4])) wPlan) with | .ok x => x | .error _ => 99), wFetched (pack 512 [bfld 0 1 1, bfld 4 2 1, bfld 12 2 1, bfld 14 2 4]), wPlan, ({ wHead (pack 512 [bfld 0 1 1, bfld 4 2 1, bfld 12 2 1, bfld 14 2 4]) with plans := [wPlan] }), by decide +kernel, by decide +kernel, by decide +kernel, sameRes_eq _ _ (by decide +kernel)⟩,
   ⟨.vf 0, 0, wFetched (pack 512 [bfld 0 1 1, bfld 4 2 2, bfld 12 2 1, bfld 14 2 4]), ({ wHead (pack 512 [bfld 0 1 1, bfld 4 2 2, bfld 12 2 1, bfld 14 2 4]) with plans := [wPlan] }), by decide +kernel⟩,
   ⟨.vf 0, 0, wFetched (pack 512 [bfld 0 1 1, bfld 4 2 1, bfld 12 2 1, bfld 14 2 4]), ({ wHead (pack 512 [bfld 0 1 1, bfld 4 2 1, bfld 12 2 1, bfld 14 2 4]) with plans := [{ wPlan with unloading := true }] }), ({ wPlan with unloading := true } : Plan), (errPlan 0x0B), by decide +kernel, by decide +kernel, by decide +kernel, by decide +kernel, sameRes_eq _ _ (by decide +kernel)⟩,
   ⟨.vf 0, 0, wJob, by decide +kernel⟩,
   ⟨0, (((({ wSq wQN wCqN [wFetched 0] with sqs := [(64, wQN), (65, wQN)] }).setRg (pk tVFSQ 0) 0x228 0x1000010).setRg (pk tVFCQ 0) 0x208 16).modCtx 0 fun c => { c with slicePlaced := 100000000 }), by decide +kernel⟩,
   ⟨0, wUp, by decide +kernel⟩⟩

theorem witness_HostCopies :
    (∃ (fn : Fn) (q : Nat) (e : Entry) (s : State) (x : _), s.toPlace fn q = some e ∧ entOpc e.raw = 3 ∧ x ∈ ((s.takeHead fn q e).modEnt e.uid fun x => { x with busy := true, start := s.time.now }).ents ∧ x.uid = e.uid) ∧
    (∃ (fn : Fn) (q : Nat) (e : Entry) (s : State) (b : Bytes) (u : State), s.toPlace fn q = some e ∧ entOpc e.raw = 3 ∧ entFlag e.raw 0 = false ∧ b.length = (byteFld e.raw 4 4) ∧ ((((s.takeHead fn q e).modEnt e.uid fun x => { x with busy := true, start := s.time.now }).hostGet fn (entOperand e.raw 0) (byteFld e.raw 4 4)).writeVa .store false (entAcc e) (entOperand e.raw 1 % 2 ^ 49) b) = (none, u)) ∧
    (∃ (fn : Fn) (q : Nat) (e : Entry) (s : State) (b : Bytes) (u : State) (f : _), s.toPlace fn q = some e ∧ entOpc e.raw = 3 ∧ entFlag e.raw 0 = false ∧ b.length = (byteFld e.raw 4 4) ∧ ((((s.takeHead fn q e).modEnt e.uid fun x => { x with busy := true, start := s.time.now }).hostGet fn (entOperand e.raw 0) (byteFld e.raw 4 4)).writeVa .store false (entAcc e) (entOperand e.raw 1 % 2 ^ 49) b) = (some f, u)) ∧
    (∃ (fn : Fn) (q : Nat) (e : Entry) (s : State), s.toPlace fn q = some e ∧ entOpc e.raw = 3 ∧ entFlag e.raw 0 = false) ∧
    (∃ (fn : Fn) (q : Nat) (e : Entry) (s : State) (rd : HostRd) (r : RdRes) (u : State) (b : _), s.toPlace fn q = some e ∧ entOpc e.raw = 3 ∧ entFlag e.raw 0 = true ∧ ((s.takeHead fn q e).modEnt e.uid fun x => { x with busy := true, start := s.time.now }).readVa .store false (entAcc e) (entOperand e.raw 1 % 2 ^ 49) (byteFld e.raw 4 4) = (r, u) ∧ r.use (entOperand e.raw 1 % 2 ^ 49) = .ok b ∧ u.writeFaults fn false = false ∧ u.bme fn = true) ∧
    (∃ (fn : Fn) (q : Nat) (e : Entry) (s : State) (rd : HostRd) (r : RdRes) (u : State) (b : _), s.toPlace fn q = some e ∧ entOpc e.raw = 3 ∧ entFlag e.raw 0 = true ∧ ((s.takeHead fn q e).modEnt e.uid fun x => { x with busy := true, start := s.time.now }).readVa .store false (entAcc e) (entOperand e.raw 1 % 2 ^ 49) (byteFld e.raw 4 4) = (r, u) ∧ r.use (entOperand e.raw 1 % 2 ^ 49) = .ok b ∧ u.writeFaults fn false = true) ∧
    (∃ (fn : Fn) (q : Nat) (e : Entry) (s : State) (rd : HostRd) (r : RdRes) (u : State) (f : _), s.toPlace fn q = some e ∧ entOpc e.raw = 3 ∧ entFlag e.raw 0 = true ∧ ((s.takeHead fn q e).modEnt e.uid fun x => { x with busy := true, start := s.time.now }).readVa .store false (entAcc e) (entOperand e.raw 1 % 2 ^ 49) (byteFld e.raw 4 4) = (r, u) ∧ r.use (entOperand e.raw 1 % 2 ^ 49) = .error f) ∧
    (∃ (fn : Fn) (q : Nat) (s : State) (rd : HostRd), s.toPlace fn q = none) ∧
    (∃ (fn : Fn) (q : Nat) (e : Entry) (f : Bool) (s : State), s.entsDistinct = true ∧ s.copying fn q = some e ∧ s.running = true ∧ (entFlag e.raw 0 && (e.wrFault || (f && s.atsOn fn))) = false) ∧
    (∃ (fn : Fn) (q : Nat) (e : Entry) (f : Bool) (s : State), s.entsDistinct = true ∧ s.copying fn q = some e ∧ s.running = true ∧ (entFlag e.raw 0 && (e.wrFault || (f && s.atsOn fn))) = true) ∧
    (∃ (fn : Fn) (q : Nat) (f : Bool) (s : State), s.copying fn q = none) :=
  ⟨⟨.vf 0, 0, wFetched (pack 512 [bfld 0 1 3, bfld 4 4 8, bfld 16 8 0x9000, bfld 24 8 0x800]), wHead (pack 512 [bfld 0 1 3, bfld 4 4 8, bfld 16 8 0x9000, bfld 24 8 0x800]), ({ wFetched (pack 512 [bfld 0 1 3, bfld 4 4 8, bfld 16 8 0x9000, bfld 24 8 0x800]) with busy := true, start := wJob.time.now } : Entry), by decide +kernel⟩,
   ⟨.vf 0, 0, wFetched (pack 512 [bfld 0 1 3, bfld 4 4 8, bfld 16 8 0x9000, bfld 24 8 0x800]), wHead (pack 512 [bfld 0 1 3, bfld 4 4 8, bfld 16 8 0x9000, bfld 24 8 0x800]), [1, 2, 3, 4, 5, 6, 7, 8], ((((((wHead (pack 512 [bfld 0 1 3, bfld 4 4 8, bfld 16 8 0x9000, bfld 24 8 0x800])).takeHead (.vf 0) 0 (wFetched (pack 512 [bfld 0 1 3, bfld 4 4 8, bfld 16 8 0x9000, bfld 24 8 0x800]))).modEnt 7 fun x => { x with busy := true, start := wJob.time.now }).bump64 (pk tPCIE 0) 0x048 8).writeVa .store false (entAcc (wFetched (pack 512 [bfld 0 1 3, bfld 4 4 8, bfld 16 8 0x9000, bfld 24 8 0x800]))) 2048 [1, 2, 3, 4, 5, 6, 7, 8])).2, by decide +kernel⟩,
   ⟨.vf 0, 0, wFetched (pack 512 [bfld 0 1 3, bfld 4 4 8, bfld 16 8 0x9000, bfld 24 8 0x100000000]), wHead (pack 512 [bfld 0 1 3, bfld 4 4 8, bfld 16 8 0x9000, bfld 24 8 0x100000000]), [1, 2, 3, 4, 5, 6, 7, 8], _, _, by decide +kernel, by decide +kernel, by decide +kernel, by decide +kernel, somePair_eq _ ⟨errOk, 0⟩ (by decide +kernel)⟩,
   ⟨.vf 0, 0, wFetched (pack 512 [bfld 0 1 3, bfld 4 4 8, bfld 16 8 0x9000, bfld 24 8 0x800]), wHead (pack 512 [bfld 0 1 3, bfld 4 4 8, bfld 16 8 0x9000, bfld 24 8 0x800]), by decide +kernel⟩,
   ⟨.vf 0, 0, wFetched (pack 512 [bfld 0 1 3, bfld 1 1 1, bfld 4 4 8, bfld 16 8 0x9000, bfld 24 8 0x800]), wHead (pack 512 [bfld 0 1 3, bfld 1 1 1, bfld 4 4 8, bfld 16 8 0x9000, bfld 24 8 0x800]), .refused, (((((wHead (pack 512 [bfld 0 1 3, bfld 1 1 1, bfld 4 4 8, bfld 16 8 0x9000, bfld 24 8 0x800])).takeHead (.vf 0) 0 (wFetched (pack 512 [bfld 0 1 3, bfld 1 1 1, bfld 4 4 8, bfld 16 8 0x9000, bfld 24 8 0x800]))).modEnt 7 fun x => { x with busy := true, start := wJob.time.now }).readVa .store false (entAcc (wFetched (pack 512 [bfld 0 1 3, bfld 1 1 1, bfld 4 4 8, bfld 16 8 0x9000, bfld 24 8 0x800]))) 2048 8)).1, (((((wHead (pack 512 [bfld 0 1 3, bfld 1 1 1, bfld 4 4 8, bfld 16 8 0x9000, bfld 24 8 0x800])).takeHead (.vf 0) 0 (wFetched (pack 512 [bfld 0 1 3, bfld 1 1 1, bfld 4 4 8, bfld 16 8 0x9000, bfld 24 8 0x800]))).modEnt 7 fun x => { x with busy := true, start := wJob.time.now }).readVa .store false (entAcc (wFetched (pack 512 [bfld 0 1 3, bfld 1 1 1, bfld 4 4 8, bfld 16 8 0x9000, bfld 24 8 0x800]))) 2048 8)).2, (List.replicate 8 0 : Bytes), by decide +kernel, by decide +kernel, by decide +kernel, by decide +kernel, sameRes_eq _ _ (by decide +kernel), by decide +kernel, by decide +kernel⟩,
   ⟨.vf 0, 0, wFetched (pack 512 [bfld 0 1 3, bfld 1 1 1, bfld 4 4 8, bfld 16 8 0x9000, bfld 24 8 0x800]), { wHead (pack 512 [bfld 0 1 3, bfld 1 1 1, bfld 4 4 8, bfld 16 8 0x9000, bfld 24 8 0x800]) with pcie := { wJob.pcie with ats := [(1, true)], refused := [(1, true)] } }, .refused, ((((({ wHead (pack 512 [bfld 0 1 3, bfld 1 1 1, bfld 4 4 8, bfld 16 8 0x9000, bfld 24 8 0x800]) with pcie := { wJob.pcie with ats := [(1, true)], refused := [(1, true)] } }).takeHead (.vf 0) 0 (wFetched (pack 512 [bfld 0 1 3, bfld 1 1 1, bfld 4 4 8, bfld 16 8 0x9000, bfld 24 8 0x800]))).modEnt 7 fun x => { x with busy := true, start := wJob.time.now }).readVa .store false (entAcc (wFetched (pack 512 [bfld 0 1 3, bfld 1 1 1, bfld 4 4 8, bfld 16 8 0x9000, bfld 24 8 0x800]))) 2048 8)).1, ((((({ wHead (pack 512 [bfld 0 1 3, bfld 1 1 1, bfld 4 4 8, bfld 16 8 0x9000, bfld 24 8 0x800]) with pcie := { wJob.pcie with ats := [(1, true)], refused := [(1, true)] } }).takeHead (.vf 0) 0 (wFetched (pack 512 [bfld 0 1 3, bfld 1 1 1, bfld 4 4 8, bfld 16 8 0x9000, bfld 24 8 0x800]))).modEnt 7 fun x => { x with busy := true, start := wJob.time.now }).readVa .store false (entAcc (wFetched (pack 512 [bfld 0 1 3, bfld 1 1 1, bfld 4 4 8, bfld 16 8 0x9000, bfld 24 8 0x800]))) 2048 8)).2, (List.replicate 8 0 : Bytes), by decide +kernel, by decide +kernel, by decide +kernel, by decide +kernel, sameRes_eq _ _ (by decide +kernel), by decide +kernel⟩,
   ⟨.vf 0, 0, wFetched (pack 512 [bfld 0 1 3, bfld 1 1 1, bfld 4 4 8, bfld 16 8 0x9000, bfld 24 8 0x100000000]), wHead (pack 512 [bfld 0 1 3, bfld 1 1 1, bfld 4 4 8, bfld 16 8 0x9000, bfld 24 8 0x100000000]), .refused, _, _, _, by decide +kernel, by decide +kernel, by decide +kernel, pairEta _, errOf_eq _ (by decide +kernel)⟩,
   ⟨.vf 0, 0, wJob, (.refused : HostRd), by decide +kernel⟩,
   ⟨.vf 0, 0, { wFetched (pack 512 [bfld 0 1 3, bfld 4 4 8, bfld 16 8 0x9000, bfld 24 8 0x800]) with busy := true }, true, wSq wQN wCqN [{ wFetched (pack 512 [bfld 0 1 3, bfld 4 4 8, bfld 16 8 0x9000, bfld 24 8 0x800]) with busy := true }], by decide +kernel⟩,
   ⟨.vf 0, 0, { wFetched (pack 512 [bfld 0 1 3, bfld 1 1 1, bfld 4 4 8, bfld 16 8 0x9000, bfld 24 8 0x800]) with busy := true }, true, { wSq wQN wCqN [{ wFetched (pack 512 [bfld 0 1 3, bfld 1 1 1, bfld 4 4 8, bfld 16 8 0x9000, bfld 24 8 0x800]) with busy := true }] with pcie := { wJob.pcie with ats := [(1, true)] } }, by decide +kernel⟩,
   ⟨.vf 0, 0, true, wJob, by decide +kernel⟩⟩

theorem witness_KpmOperations :
    (∃ (tile : Nat) (id : Nat) (op : Nat) (c : Instr) (o : KOp) (f : Flt) (s : State), (op, c) ∈ kpmCmds tile id ∧ s.kTurn tile id op o ∧ s.kBody tile o = .error f) ∧
    (∃ (tile : Nat) (id : Nat) (op : Nat) (c : Instr) (o : KOp) (u : State) (s : State), (op, c) ∈ kpmCmds tile id ∧ s.kTurn tile id op o ∧ s.kBody tile o = .ok (.done u)) ∧
    (∃ (tile : Nat) (id : Nat) (op : Nat) (c : Instr) (o : KOp) (u : State) (s : State), (op, c) ∈ kpmCmds tile id ∧ s.kTurn tile id op o ∧ s.kBody tile o = .ok (.copying u)) ∧
    (∃ (tile : Nat) (id : Nat) (op : Nat) (c : Instr) (o : KOp) (s : State), (op, c) ∈ kpmCmds tile id ∧ s.kTurn tile id op o ∧ s.kBody tile o = .ok .wait) ∧
    (∃ (tile : Nat) (id : Nat) (op : Nat) (c : Instr) (o : KOp) (s : State), (op, c) ∈ kpmCmds tile id ∧ s.running = true ∧ s.kop tile id = some o ∧ (kpOf o.raw).op = op ∧ s.kMay tile o = true ∧ s.genLive o.part o.gen = false) ∧
    (∃ (tile : Nat) (id : Nat) (op : Nat) (c : Instr) (o : KOp) (s : State), (op, c) ∈ kpmCmds tile id ∧ s.kop tile id = some o ∧ s.kMay tile o = false) ∧
    (∃ (tile : Nat) (id : Nat) (o : KOp) (s : State), s.up = true ∧ s.sage.fatal = none ∧ s.kop tile id = some o ∧ o.st = .done) ∧
    (∃ (tile : Nat) (id : Nat) (o : KOp) (s : State), s.up = true ∧ s.sage.fatal = none ∧ s.kop tile id = some o ∧ o.st = .accepted ∧ s.kMay tile o = true ∧ ((kpOf o.raw).op = 0 ∨ 12 < (kpOf o.raw).op)) ∧
    (∃ (tile : Nat) (id : Nat) (o : KOp) (s : State), s.kop tile id = some o ∧ o.st = .reading ∧ (kpOf o.raw).op ≠ 9) ∧
    (∃ (tile : Nat) (id : Nat) (o : KOp) (u : State) (s : State), s.kTurn tile id 1 o ∧ s.kOpen tile o = .ok (.done u) ∧ s.kstream tile o.part (kpOf o.raw).stream = none) ∧
    (∃ (tile : Nat) (id : Nat) (o : KOp) (k0 : KStream) (u : State) (s : State), s.kTurn tile id 2 o ∧ s.kOn tile o k0 ∧ s.kClose tile o = .ok (.done u)) ∧
    (∃ (tile : Nat) (id : Nat) (o : KOp) (k : KStream) (u : State) (s : State), s.kTurn tile id 3 o ∧ s.kOn tile o k ∧ k.basePos ≤ (kpOf o.raw).pos ∧ k.covers (kpOf o.raw).pos = true ∧ k.entry (kpOf o.raw).pos = none ∧ s.kAlloc tile o k = .ok (.done u)) ∧
    (∃ (tile : Nat) (id : Nat) (o : KOp) (k : KStream) (s : State), s.kTurn tile id 3 o ∧ s.kOn tile o k ∧ k.basePos ≤ (kpOf o.raw).pos ∧ (k.entry (kpOf o.raw).pos).isSome = true) ∧
    (∃ (tile : Nat) (id : Nat) (o : KOp) (k : KStream) (src : KStream) (u : State) (s : State), s.kTurn tile id 4 o ∧ s.kOn tile o k ∧ s.kstream tile o.part (BitVec.ofNat 32 (byteFld o.raw 48 4)) = some src ∧ s.kShare tile o k = .ok (.done u)) ∧
    (∃ (tile : Nat) (id : Nat) (o : KOp) (k : KStream) (d : Nat) (u : State) (s : State), s.kTurn tile id 5 o ∧ s.kOn tile o k ∧ k.page (kpOf o.raw).pos ≠ k.page k.commit ∧ k.entry (kpOf o.raw).pos = some d ∧ s.kFree tile o k = .ok (.done u)) ∧
    (∃ (tile : Nat) (id : Nat) (o : KOp) (k : KStream) (s : State), s.kTurn tile id 6 o ∧ s.kOn tile o k ∧ k.basePos ≤ (kpOf o.raw).pos ∧ (k.entry (kpOf o.raw).pos).isSome = true ∧ s.needsCow tile o k (kpOf o.raw).pos = none) ∧
    (∃ (tile : Nat) (id : Nat) (d : Nat) (o : KOp) (k : KStream) (u : State) (s : State), s.kTurn tile id 6 o ∧ s.kOn tile o k ∧ k.basePos ≤ (kpOf o.raw).pos ∧ s.needsCow tile o k (kpOf o.raw).pos = some d ∧ s.cowStart tile o k (k.page (kpOf o.raw).pos) d = .ok (.copying u)) ∧
    (∃ (tile : Nat) (id : Nat) (o : KOp) (k : KStream) (u : State) (s : State), s.kTurn tile id 7 o ∧ s.kOn tile o k ∧ s.kReserve tile o k = .ok (.done u)) ∧
    (∃ (tile : Nat) (id : Nat) (o : KOp) (k : KStream) (u : State) (s : State), s.kTurn tile id 8 o ∧ s.kOn tile o k ∧ s.kAccept tile o k = .ok (.done u)) ∧
    (∃ (tile : Nat) (id : Nat) (o : KOp) (k : KStream) (u : State) (s : State), s.kTurn tile id 9 o ∧ s.kOn tile o k ∧ (s.kSpan tile o k = .ok (.done u) ∨ s.kSpan tile o k = .ok (.copying u))) ∧
    (∃ (tile : Nat) (id : Nat) (o : KOp) (k : KStream) (u : State) (s : State), s.kTurn tile id 10 o ∧ s.kOn tile o k ∧ s.kPin tile o k = .ok (.done u)) ∧
    (∃ (tile : Nat) (id : Nat) (d : Nat) (o : KOp) (k : KStream) (u : State) (s : State), s.kTurn tile id 11 o ∧ s.kOn tile o k ∧ k.entry (kpOf o.raw).pos = some d ∧ s.kMove tile o k = .ok (.copying u)) ∧
    (∃ (tile : Nat) (id : Nat) (o : KOp) (k : KStream) (u : State) (s : State), s.kTurn tile id 12 o ∧ s.kOn tile o k ∧ s.kPattern tile o k = .ok (.done u)) ∧
    (∃ (tile : Nat) (id : Nat) (o : KOp) (k : KStream) (c : Cow) (s : State) (u : _), s.running = true ∧ s.kop tile id = some o ∧ s.kstream tile o.part (kpOf o.raw).stream = some k ∧ k.cow = some c ∧ c.op = id ∧ o.st = .reading ∧ s.copiesOut tile id = false ∧ o.cut = false ∧ o.err = none ∧ s.cowInstall tile o k c = .ok u) ∧
    (∃ (tile : Nat) (id : Nat) (o : KOp) (k : KStream) (c : Cow) (s : State), s.running = true ∧ s.kop tile id = some o ∧ s.kstream tile o.part (kpOf o.raw).stream = some k ∧ k.cow = some c ∧ c.op = id ∧ o.st = .reading ∧ s.copiesOut tile id = false ∧ (o.cut = true ∨ o.err.isSome = true)) ∧
    (∃ (tile : Nat) (id : Nat) (o : KOp) (s : State), s.kop tile id = some o ∧ s.copiesOut tile id = true) ∧
    (∃ (tile : Nat) (v : W64) (s : State), s.up = true ∧ tile < 8) :=
  ⟨⟨0, 2, 5, .free 0 2, (wKop (wKRaw 5 8 1 [])), (errOf ((wKpm [wStream] 1 (wKop (wKRaw 5 8 1 []))).kBody 0 (wKop (wKRaw 5 8 1 [])))), (wKpm [wStream] 1 (wKop (wKRaw 5 8 1 []))), by decide +kernel, ⟨by decide +kernel, by decide +kernel, by decide +kernel, by decide +kernel, by decide +kernel, by decide +kernel⟩, sameRes_eq _ _ (by decide +kernel)⟩,
   ⟨0, 2, 3, .alloc 0 2, (wKop (wKRaw 3 8 1 [])), (kOf ((wKpm [wStream] 1 (wKop (wKRaw 3 8 1 []))).kBody 0 (wKop (wKRaw 3 8 1 [])))), (wKpm [wStream] 1 (wKop (wKRaw 3 8 1 []))), by decide +kernel, ⟨by decide +kernel, by decide +kernel, by decide +kernel, by decide +kernel, by decide +kernel, by decide +kernel⟩, kOf_done _ (by decide +kernel)⟩,
   ⟨0, 2, 11, .move 0 2, (wKop (wKRaw 11 0 1 [bfld 48 1 1])), (kOf ((wKpm [wStream] 1 (wKop (wKRaw 11 0 1 [bfld 48 1 1]))).kBody 0 (wKop (wKRaw 11 0 1 [bfld 48 1 1])))), (wKpm [wStream] 1 (wKop (wKRaw 11 0 1 [bfld 48 1 1]))), by decide +kernel, ⟨by decide +kernel, by decide +kernel, by decide +kernel, by decide +kernel, by decide +kernel, by decide +kernel⟩, kOf_copying _ (by decide +kernel)⟩,
   ⟨0, 2, 7, .reserve 0 2, { (wKop (wKRaw 7 8 1 [bfld 16 8 (cbOp 0)])) with step := 1 }, (wKpm [{ wStream with resvs := [⟨0, 0, 8, 1, true, none, []⟩] }] 1 { (wKop (wKRaw 7 8 1 [bfld 16 8 (cbOp 0)])) with step := 1 }), by decide +kernel, ⟨by decide +kernel, by decide +kernel, by decide +kernel, by decide +kernel, by decide +kernel, by decide +kernel⟩, sameRes_eq _ _ (by decide +kernel)⟩,
   ⟨0, 2, 3, .alloc 0 2, { (wKop (wKRaw 3 8 1 [])) with gen := 1 }, (wKpm [wStream] 1 { (wKop (wKRaw 3 8 1 [])) with gen := 1 }), by decide +kernel⟩,
   ⟨0, 2, 3, .alloc 0 2, { (wKop (wKRaw 3 8 1 [])) with st := .done }, (wKpm [wStream] 1 { (wKop (wKRaw 3 8 1 [])) with st := .done }), by decide +kernel⟩,
   ⟨0, 2, { (wKop (wKRaw 3 8 1 [])) with st := .done }, (wKpm [wStream] 1 { (wKop (wKRaw 3 8 1 [])) with st := .done }), by decide +kernel⟩,
   ⟨0, 2, (wKop (wKRaw 13 8 1 [])), (wKpm [wStream] 1 (wKop (wKRaw 13 8 1 []))), by decide +kernel⟩,
   ⟨0, 2, { (wKop (wKRaw 3 8 1 [])) with st := .reading }, (wKpm [wStream] 1 { (wKop (wKRaw 3 8 1 [])) with st := .reading }), by decide +kernel⟩,
   ⟨0, 2, (wKop (wKRaw 1 0 0 [bfld 16 8 (vaOp 0x1000), bfld 24 8 (vaOp 0x2000), bfld 49 1 3, bfld 51 1 6, bfld 52 2 64])), (kOf ((wKpm [] 1 (wKop (wKRaw 1 0 0 [bfld 16 8 (vaOp 0x1000), bfld 24 8 (vaOp 0x2000), bfld 49 1 3, bfld 51 1 6, bfld 52 2 64]))).kOpen 0 (wKop (wKRaw 1 0 0 [bfld 16 8 (vaOp 0x1000), bfld 24 8 (vaOp 0x2000), bfld 49 1 3, bfld 51 1 6, bfld 52 2 64])))), (wKpm [] 1 (wKop (wKRaw 1 0 0 [bfld 16 8 (vaOp 0x1000), bfld 24 8 (vaOp 0x2000), bfld 49 1 3, bfld 51 1 6, bfld 52 2 64]))), ⟨by decide +kernel, by decide +kernel, by decide +kernel, by decide +kernel, by decide +kernel, by decide +kernel⟩, kOf_done _ (by decide +kernel), by decide +kernel⟩,
   ⟨0, 2, (wKop (wKRaw 2 0 1 [])), wStream, (kOf ((wKpm [wStream] 1 (wKop (wKRaw 2 0 1 []))).kClose 0 (wKop (wKRaw 2 0 1 [])))), (wKpm [wStream] 1 (wKop (wKRaw 2 0 1 []))), ⟨by decide +kernel, by decide +kernel, by decide +kernel, by decide +kernel, by decide +kernel, by decide +kernel⟩, ⟨by decide +kernel, by decide +kernel⟩, kOf_done _ (by decide +kernel)⟩,
   ⟨0, 2, (wKop (wKRaw 3 8 1 [])), wStream, (kOf ((wKpm [wStream] 1 (wKop (wKRaw 3 8 1 []))).kAlloc 0 (wKop (wKRaw 3 8 1 [])) wStream)), (wKpm [wStream] 1 (wKop (wKRaw 3 8 1 []))), ⟨by decide +kernel, by decide +kernel, by decide +kernel, by decide +kernel, by decide +kernel, by decide +kernel⟩, ⟨by decide +kernel, by decide +kernel⟩, by decide +kernel, by decide +kernel, by decide +kernel, kOf_done _ (by decide +kernel)⟩,
   ⟨0, 2, (wKop (wKRaw 3 0 1 [])), wStream, (wKpm [wStream] 1 (wKop (wKRaw 3 0 1 []))), ⟨by decide +kernel, by decide +kernel, by decide +kernel, by decide +kernel, by decide +kernel, by decide +kernel⟩, ⟨by decide +kernel, by decide +kernel⟩, by decide +kernel, by decide +kernel⟩,
   ⟨0, 2, (wKop (wKRaw 4 0 1 [bfld 48 4 9])), ({ wStream with commit := 0, ring := [] }), ({ wStream with id := 9 }), (kOf ((wKpm [{ wStream with commit := 0, ring := [] }, { wStream with id := 9 }] 1 (wKop (wKRaw 4 0 1 [bfld 48 4 9]))).kShare 0 (wKop (wKRaw 4 0 1 [bfld 48 4 9])) ({ wStream with commit := 0, ring := [] }))), (wKpm [{ wStream with commit := 0, ring := [] }, { wStream with id := 9 }] 1 (wKop (wKRaw 4 0 1 [bfld 48 4 9]))), ⟨by decide +kernel, by decide +kernel, by decide +kernel, by decide +kernel, by decide +kernel, by decide +kernel⟩, ⟨by decide +kernel, by decide +kernel⟩, by decide +kernel, kOf_done _ (by decide +kernel)⟩,
   ⟨0, 2, (wKop (wKRaw 5 0 1 [])), wStream, 0, (kOf ((wKpm [wStream] 1 (wKop (wKRaw 5 0 1 []))).kFree 0 (wKop (wKRaw 5 0 1 [])) wStream)), (wKpm [wStream] 1 (wKop (wKRaw 5 0 1 []))), ⟨by decide +kernel, by decide +kernel, by decide +kernel, by decide +kernel, by decide +kernel, by decide +kernel⟩, ⟨by decide +kernel, by decide +kernel⟩, by decide +kernel, by decide +kernel, kOf_done _ (by decide +kernel)⟩,
   ⟨0, 2, (wKop (wKRaw 6 0 1 [])), wStream, (wKpm [wStream] 1 (wKop (wKRaw 6 0 1 []))), ⟨by decide +kernel, by decide +kernel, by decide +kernel, by decide +kernel, by decide +kernel, by decide +kernel⟩, ⟨by decide +kernel, by decide +kernel⟩, by decide +kernel, by decide +kernel, by decide +kernel⟩,
   ⟨0, 2, 0, (wKop (wKRaw 6 0 1 [])), wStream, (kOf ((wKpm [wStream] 2 (wKop (wKRaw 6 0 1 []))).cowStart 0 (wKop (wKRaw 6 0 1 [])) wStream (wStream.page (kpOf (wKop (wKRaw 6 0 1 [])).raw).pos) 0)), (wKpm [wStream] 2 (wKop (wKRaw 6 0 1 []))), ⟨by decide +kernel, by decide +kernel, by decide +kernel, by decide +kernel, by decide +kernel, by decide +kernel⟩, ⟨by decide +kernel, by decide +kernel⟩, by decide +kernel, by decide +kernel, kOf_copying _ (by decide +kernel)⟩,
   ⟨0, 2, { (wKop (wKRaw 7 8 1 [bfld 16 8 (cbOp 0)])) with stale := false }, wStream, (kOf ((wKpm [wStream] 1 { (wKop (wKRaw 7 8 1 [bfld 16 8 (cbOp 0)])) with stale := false }).kReserve 0 { (wKop (wKRaw 7 8 1 [bfld 16 8 (cbOp 0)])) with stale := false } wStream)), (wKpm [wStream] 1 { (wKop (wKRaw 7 8 1 [bfld 16 8 (cbOp 0)])) with stale := false }), ⟨by decide +kernel, by decide +kernel, by decide +kernel, by decide +kernel, by decide +kernel, by decide +kernel⟩, ⟨by decide +kernel, by decide +kernel⟩, kOf_done _ (by decide +kernel)⟩,
   ⟨0, 2, (wKop (wKRaw 8 0 1 [bfld 16 8 (cbOp 0)])), ({ wStream with resvs := [⟨0, 0, 8, 1, true, none, []⟩] }), (kOf ((wKpm [{ wStream with resvs := [⟨0, 0, 8, 1, true, none, []⟩] }] 1 (wKop (wKRaw 8 0 1 [bfld 16 8 (cbOp 0)]))).kAccept 0 (wKop (wKRaw 8 0 1 [bfld 16 8 (cbOp 0)])) ({ wStream with resvs := [⟨0, 0, 8, 1, true, none, []⟩] }))), (wKpm [{ wStream with resvs := [⟨0, 0, 8, 1, true, none, []⟩] }] 1 (wKop (wKRaw 8 0 1 [bfld 16 8 (cbOp 0)]))), ⟨by decide +kernel, by decide +kernel, by decide +kernel, by decide +kernel, by decide +kernel, by decide +kernel⟩, ⟨by decide +kernel, by decide +kernel⟩, kOf_done _ (by decide +kernel)⟩,
   ⟨0, 2, (wKop (wKRaw 9 0 8 [bfld 16 8 (cbOp 0), bfld 40 8 (cbOp 64), bfld 48 4 1])), wStream, (kOf ((wKpm [wStream] 1 (wKop (wKRaw 9 0 8 [bfld 16 8 (cbOp 0), bfld 40 8 (cbOp 64), bfld 48 4 1]))).kSpan 0 (wKop (wKRaw 9 0 8 [bfld 16 8 (cbOp 0), bfld 40 8 (cbOp 64), bfld 48 4 1])) wStream)), (wKpm [wStream] 1 (wKop (wKRaw 9 0 8 [bfld 16 8 (cbOp 0), bfld 40 8 (cbOp 64), bfld 48 4 1]))), ⟨by decide +kernel, by decide +kernel, by decide +kernel, by decide +kernel, by decide +kernel, by decide +kernel⟩, ⟨by decide +kernel, by decide +kernel⟩, Or.inl (kOf_done _ (by decide +kernel))⟩,
   ⟨0, 2, (wKop (wKRaw 10 0 1 [bfld 48 6 0])), wStream, (kOf ((wKpm [wStream] 1 (wKop (wKRaw 10 0 1 [bfld 48 6 0]))).kPin 0 (wKop (wKRaw 10 0 1 [bfld 48 6 0])) wStream)), (wKpm [wStream] 1 (wKop (wKRaw 10 0 1 [bfld 48 6 0]))), ⟨by decide +kernel, by decide +kernel, by decide +kernel, by decide +kernel, by decide +kernel, by decide +kernel⟩, ⟨by decide +kernel, by decide +kernel⟩, kOf_done _ (by decide +kernel)⟩,
   ⟨0, 2, 0, (wKop (wKRaw 11 0 1 [bfld 48 1 1])), wStream, (kOf ((wKpm [wStream] 1 (wKop (wKRaw 11 0 1 [bfld 48 1 1]))).kMove 0 (wKop (wKRaw 11 0 1 [bfld 48 1 1])) wStream)), (wKpm [wStream] 1 (wKop (wKRaw 11 0 1 [bfld 48 1 1]))), ⟨by decide +kernel, by decide +kernel, by decide +kernel, by decide +kernel, by decide +kernel, by decide +kernel⟩, ⟨by decide +kernel, by decide +kernel⟩, by decide +kernel, kOf_copying _ (by decide +kernel)⟩,
   ⟨0, 2, (wKop (wKRaw 12 0 1 [bfld 54 1 1, bfld 56 4 2])), wStream, (kOf ((wKpm [wStream] 1 (wKop (wKRaw 12 0 1 [bfld 54 1 1, bfld 56 4 2]))).kPattern 0 (wKop (wKRaw 12 0 1 [bfld 54 1 1, bfld 56 4 2])) wStream)), (wKpm [wStream] 1 (wKop (wKRaw 12 0 1 [bfld 54 1 1, bfld 56 4 2]))), ⟨by decide +kernel, by decide +kernel, by decide +kernel, by decide +kernel, by decide +kernel, by decide +kernel⟩, ⟨by decide +kernel, by decide +kernel⟩, kOf_done _ (by decide +kernel)⟩,
   ⟨0, 2, { (wKop (wKRaw 6 0 1 [])) with st := .reading }, ({ wStream with cow := some ⟨2, 0, 1, 0, none⟩ }), ⟨2, 0, 1, 0, none⟩, (wKpm [{ wStream with cow := some ⟨2, 0, 1, 0, none⟩ }] 2 { (wKop (wKRaw 6 0 1 [])) with st := .reading }), ((okOf wUp (((wKpm [{ wStream with cow := some ⟨2, 0, 1, 0, none⟩ }] 2 { (wKop (wKRaw 6 0 1 [])) with st := .reading })).cowInstall 0 { (wKop (wKRaw 6 0 1 [])) with st := .reading } ({ wStream with cow := some ⟨2, 0, 1, 0, none⟩ }) ⟨2, 0, 1, 0, none⟩)) : State), by decide +kernel, by decide +kernel, by decide +kernel, by decide +kernel, by decide +kernel, by decide +kernel, by decide +kernel, by decide +kernel, by decide +kernel, okOf_eq _ _ (by decide +kernel)⟩,
   ⟨0, 2, { (wKop (wKRaw 6 0 1 [])) with st := .reading, cut := true }, ({ wStream with cow := some ⟨2, 0, 1, 0, none⟩ }), ⟨2, 0, 1, 0, none⟩, (wKpm [{ wStream with cow := some ⟨2, 0, 1, 0, none⟩ }] 2 { (wKop (wKRaw 6 0 1 [])) with st := .reading, cut := true }), by decide +kernel⟩,
   ⟨0, 2, { (wKop (wKRaw 6 0 1 [])) with st := .reading }, { (wKpm [{ wStream with cow := some ⟨2, 0, 1, 0, none⟩ }] 2 { (wKop (wKRaw 6 0 1 [])) with st := .reading }) with movers := [(0, { MoverSt.zero with descs := [{ wDesc 0 .accepted with src := .kpm 0 2 }] })] }, by decide +kernel⟩,
   ⟨7, 2, wUp, by decide +kernel⟩⟩

theorem witness_TxuOperations :
    (∃ (c : Nat) (id : Nat) (op : Nat) (o : TOp) (i : Instr) (s : State), (op, i) ∈ [(1, Instr.slots c id), (2, .dispatch c id), (3, .passDone c id)] ∧ s.topMay c id op = some o ∧ tpOk o.raw = false) ∧
    (∃ (c : Nat) (id : Nat) (op : Nat) (o : TOp) (i : Instr) (s : State), (op, i) ∈ [(1, Instr.slots c id), (2, .dispatch c id), (3, .passDone c id)] ∧ s.topMay c id op = none) ∧
    (∃ (c : Nat) (id : Nat) (o : TOp) (s : State), s.running = true ∧ s.topOp c id = some o ∧ o.st = .accepted ∧ ((tpOf o.raw).op = 0 ∨ 3 < (tpOf o.raw).op)) ∧
    (∃ (c : Nat) (id : Nat) (o : TOp) (b : Bytes) (u : State) (s : State), s.topMay c id 1 = some o ∧ tpOk o.raw = true ∧ (∀ g, s.tstage c (tpOf o.raw).stage o.step = some g → g.op = none) ∧ s.topRead c o (tpOf o.raw).a0 0 (32 * (tpOf o.raw).n) = (.ok b, u) ∧ u.txus = s.txus ∧ (((tableAt b 0 (tpOf o.raw).n 32).map fun x => BitVec.ofNat 256 (ofLe x) : List (BitVec 256))).all (slOk c) = true ∧ ((((tableAt b 0 (tpOf o.raw).n 32).map fun x => BitVec.ofNat 256 (ofLe x) : List (BitVec 256))).map slCap).sum ≤ 32768) ∧
    (∃ (c : Nat) (id : Nat) (o : TOp) (b : Bytes) (u : State) (s : State), s.topMay c id 1 = some o ∧ tpOk o.raw = true ∧ (∀ g, s.tstage c (tpOf o.raw).stage o.step = some g → g.op = none) ∧ s.topRead c o (tpOf o.raw).a0 0 (32 * (tpOf o.raw).n) = (.ok b, u) ∧ u.txus = s.txus ∧ ((((tableAt b 0 (tpOf o.raw).n 32).map fun x => BitVec.ofNat 256 (ofLe x) : List (BitVec 256))).all (slOk c) = false ∨ 32768 < ((((tableAt b 0 (tpOf o.raw).n 32).map fun x => BitVec.ofNat 256 (ofLe x) : List (BitVec 256))).map slCap).sum)) ∧
    (∃ (c : Nat) (id : Nat) (o : TOp) (g : TStage) (s : State), s.topMay c id 1 = some o ∧ s.tstage c (tpOf o.raw).stage o.step = some g ∧ g.op.isSome = true) ∧
    (∃ (c : Nat) (id : Nat) (o : TOp) (mb : Bytes) (u : State) (v : State) (w : State) (s : State), s.topMay c id 2 = some o ∧ tpOk o.raw = true ∧ s.sendTokens c o (s.nextTok c o) ((tpOf o.raw).n - s.nextTok c o) = (.ok, u) ∧ u.topRead c o (tpOf o.raw).a2 0 (8 * (tpOf o.raw).mapCount) = (.ok mb, v) ∧ v.sendEnds c o ((mapHosts mb (tpOf o.raw).mapCount).drop o.sent) = (.ok, w)) ∧
    (∃ (c : Nat) (id : Nat) (o : TOp) (s : State), s.topMay c id 2 = some o ∧ tpOk o.raw = true ∧ s.nextTok c o < (tpOf o.raw).n ∧ ((s.txu c).toks.any fun w => w.op == o.id && w.tok == s.nextTok c o) = false ∧ (s.txu c).room (tpOf o.raw).k = false) ∧
    (∃ (c : Nat) (id : Nat) (o : TOp) (e : Err) (u : State) (s : State), s.topMay c id 2 = some o ∧ tpOk o.raw = true ∧ s.sendTokens c o (s.nextTok c o) ((tpOf o.raw).n - s.nextTok c o) = (.fail e, u)) ∧
    (∃ (c : Nat) (o : TOp) (w : TokWait) (ch : Nat) (x : Nat) (gate : Nat) (row : Bytes) (s : State), (tpOf o.raw).mapCount ≤ x) ∧
    (∃ (c : Nat) (o : TOp) (w : TokWait) (ch : Nat) (x : Nat) (gate : Nat) (row : Bytes) (s : State) (mb : Bytes) (u : State), x < (tpOf o.raw).mapCount ∧ s.topRead c o (tpOf o.raw).a2 (8 * x) 8 = (.ok mb, u) ∧ (ofLe mb).testBit 31 = false) ∧
    (∃ (c : Nat) (id : Nat) (o : TOp) (g : TStage) (x : ESlot) (p : Pass) (s : State) (u : State) (y : TOp), s.topMay c id 3 = some o ∧ tpOk o.raw = true ∧ s.tstage c (tpOf o.raw).stage o.step = some g ∧ g.slots[(tpOf o.raw).eslot]? = some x ∧ x.passes[(tpOf o.raw).pass]? = some p ∧ p.closed = true ∧ p.done = false ∧ s.sendResults c o x o.sent (p.rows.drop o.sent) = (.ok, u) ∧ u.topOp c id = some y ∧ p.rows.length ≤ y.acked) ∧
    (∃ (c : Nat) (id : Nat) (o : TOp) (g : TStage) (x : ESlot) (p : Pass) (s : State) (u : State) (y : TOp), s.topMay c id 3 = some o ∧ tpOk o.raw = true ∧ s.tstage c (tpOf o.raw).stage o.step = some g ∧ g.slots[(tpOf o.raw).eslot]? = some x ∧ x.passes[(tpOf o.raw).pass]? = some p ∧ p.closed = true ∧ p.done = false ∧ s.sendResults c o x o.sent (p.rows.drop o.sent) = (.ok, u) ∧ u.topOp c id = some y ∧ y.acked < p.rows.length) ∧
    (∃ (c : Nat) (id : Nat) (o : TOp) (g : TStage) (x : ESlot) (p : Pass) (s : State), s.topMay c id 3 = some o ∧ tpOk o.raw = true ∧ s.tstage c (tpOf o.raw).stage o.step = some g ∧ g.slots[(tpOf o.raw).eslot]? = some x ∧ x.passes[(tpOf o.raw).pass]? = some p ∧ (p.closed = false ∨ p.done = true)) :=
  ⟨⟨0, 0, 1, (wTop (pack 512 [bfld 0 1 1])), Instr.slots 0 0, wTxu (wTop (pack 512 [bfld 0 1 1])) (fun t => t), by decide +kernel⟩,
   ⟨0, 0, 1, wTop 0, Instr.slots 0 0, wJob, by decide +kernel⟩,
   ⟨0, 0, (wTop (pack 512 [bfld 0 1 4])), wTxu (wTop (pack 512 [bfld 0 1 4])) (fun t => t), by decide +kernel⟩,
   ⟨0, 0, wTop wTslots, (okOf [] (((withMem (wTxu (wTop wTslots) (fun t => t)) 0x1000 (leBytes 32 (wSlotRaw 8).toNat)).topRead 0 (wTop wTslots) (vaOp 0x1000) 0 32).1)), ((withMem (wTxu (wTop wTslots) (fun t => t)) 0x1000 (leBytes 32 (wSlotRaw 8).toNat)).topRead 0 (wTop wTslots) (vaOp 0x1000) 0 32).2, (withMem (wTxu (wTop wTslots) (fun t => t)) 0x1000 (leBytes 32 (wSlotRaw 8).toNat)), by decide +kernel, by decide +kernel, by decide +kernel, samePair_eq _ _ (by decide +kernel) (by decide +kernel), by decide +kernel, by decide +kernel, by decide +kernel⟩,
   ⟨0, 0, wTop wTslots, (okOf [] (((withMem (wTxu (wTop wTslots) (fun t => t)) 0x1000 (leBytes 32 (wSlotRaw 32769).toNat)).topRead 0 (wTop wTslots) (vaOp 0x1000) 0 32).1)), ((withMem (wTxu (wTop wTslots) (fun t => t)) 0x1000 (leBytes 32 (wSlotRaw 32769).toNat)).topRead 0 (wTop wTslots) (vaOp 0x1000) 0 32).2, (withMem (wTxu (wTop wTslots) (fun t => t)) 0x1000 (leBytes 32 (wSlotRaw 32769).toNat)), by decide +kernel, by decide +kernel, by decide +kernel, samePair_eq _ _ (by decide +kernel) (by decide +kernel), by decide +kernel, by decide +kernel⟩,
   ⟨0, 0, wTop wTslots, { wStage 8 [] with op := some 9 }, wTxu (wTop wTslots) (fun t => { t with stages := [{ wStage 8 [] with op := some 9 }] }), by decide +kernel⟩,
   ⟨0, 0, (wTop wTdisp), (okOf [] ((((withMem (wTxu (wTop wTdisp) (fun t => t)) 0x1200 (leBytes 8 0x80000000)).sendTokens 0 (wTop wTdisp) ((withMem (wTxu (wTop wTdisp) (fun t => t)) 0x1200 (leBytes 8 0x80000000)).nextTok 0 (wTop wTdisp)) ((tpOf (wTop wTdisp).raw).n - (withMem (wTxu (wTop wTdisp) (fun t => t)) 0x1200 (leBytes 8 0x80000000)).nextTok 0 (wTop wTdisp))).2.topRead 0 (wTop wTdisp) (tpOf (wTop wTdisp).raw).a2 0 (8 * (tpOf (wTop wTdisp).raw).mapCount)).1)), ((withMem (wTxu (wTop wTdisp) (fun t => t)) 0x1200 (leBytes 8 0x80000000)).sendTokens 0 (wTop wTdisp) ((withMem (wTxu (wTop wTdisp) (fun t => t)) 0x1200 (leBytes 8 0x80000000)).nextTok 0 (wTop wTdisp)) ((tpOf (wTop wTdisp).raw).n - (withMem (wTxu (wTop wTdisp) (fun t => t)) 0x1200 (leBytes 8 0x80000000)).nextTok 0 (wTop wTdisp))).2, (((withMem (wTxu (wTop wTdisp) (fun t => t)) 0x1200 (leBytes 8 0x80000000)).sendTokens 0 (wTop wTdisp) ((withMem (wTxu (wTop wTdisp) (fun t => t)) 0x1200 (leBytes 8 0x80000000)).nextTok 0 (wTop wTdisp)) ((tpOf (wTop wTdisp).raw).n - (withMem (wTxu (wTop wTdisp) (fun t => t)) 0x1200 (leBytes 8 0x80000000)).nextTok 0 (wTop wTdisp))).2.topRead 0 (wTop wTdisp) (tpOf (wTop wTdisp).raw).a2 0 (8 * (tpOf (wTop wTdisp).raw).mapCount)).2, ((((withMem (wTxu (wTop wTdisp) (fun t => t)) 0x1200 (leBytes 8 0x80000000)).sendTokens 0 (wTop wTdisp) ((withMem (wTxu (wTop wTdisp) (fun t => t)) 0x1200 (leBytes 8 0x80000000)).nextTok 0 (wTop wTdisp)) ((tpOf (wTop wTdisp).raw).n - (withMem (wTxu (wTop wTdisp) (fun t => t)) 0x1200 (leBytes 8 0x80000000)).nextTok 0 (wTop wTdisp))).2.topRead 0 (wTop wTdisp) (tpOf (wTop wTdisp).raw).a2 0 (8 * (tpOf (wTop wTdisp).raw).mapCount)).2.sendEnds 0 (wTop wTdisp) ((mapHosts (okOf [] ((((withMem (wTxu (wTop wTdisp) (fun t => t)) 0x1200 (leBytes 8 0x80000000)).sendTokens 0 (wTop wTdisp) ((withMem (wTxu (wTop wTdisp) (fun t => t)) 0x1200 (leBytes 8 0x80000000)).nextTok 0 (wTop wTdisp)) ((tpOf (wTop wTdisp).raw).n - (withMem (wTxu (wTop wTdisp) (fun t => t)) 0x1200 (leBytes 8 0x80000000)).nextTok 0 (wTop wTdisp))).2.topRead 0 (wTop wTdisp) (tpOf (wTop wTdisp).raw).a2 0 (8 * (tpOf (wTop wTdisp).raw).mapCount)).1)) (tpOf (wTop wTdisp).raw).mapCount).drop ((wTop wTdisp)).sent)).2, (withMem (wTxu (wTop wTdisp) (fun t => t)) 0x1200 (leBytes 8 0x80000000)), by decide +kernel, by decide +kernel, by decide +kernel, samePair_eq _ _ (by decide +kernel) (by decide +kernel), by decide +kernel⟩,
   ⟨0, 0, (wTop wTdisp), wTxu (wTop wTdisp) (fun t => { t with toks := [⟨9, 0, 0, [], 65536, 0, false⟩] }), by decide +kernel⟩,
   ⟨0, 0, (wTop wTdisp), errRuntime, ((wTxu (wTop wTdisp) (fun t => t)).sendTokens 0 (wTop wTdisp) ((wTxu (wTop wTdisp) (fun t => t)).nextTok 0 (wTop wTdisp)) ((tpOf (wTop wTdisp).raw).n - (wTxu (wTop wTdisp) (fun t => t)).nextTok 0 (wTop wTdisp))).2, (wTxu (wTop wTdisp) (fun t => t)), by decide +kernel⟩,
   ⟨0, (wTop wTdisp), ⟨0, 0, 0, [], 1, 0, false⟩, 0, 1, 0, [], wJob, by decide +kernel⟩,
   ⟨0, (wTop wTdisp), ⟨0, 0, 0, [], 1, 0, false⟩, 0, 0, 0, [], (wTxu (wTop wTdisp) (fun t => t)), (List.replicate 8 0 : Bytes), (((wTxu (wTop wTdisp) (fun t => t)).topRead 0 (wTop wTdisp) (tpOf (wTop wTdisp).raw).a2 (8 * 0) 8).2 : State), by decide +kernel, samePair_eq _ _ (by decide +kernel) (by decide +kernel), by decide +kernel⟩,
   ⟨0, 0, ({ wTop wTpass with acked := 1, sent := 1 }), wStage 8 [⟨[0], true, false⟩], ⟨wSlotRaw 8, [⟨[0], true, false⟩], []⟩, ⟨[0], true, false⟩, (wTxu ({ wTop wTpass with acked := 1, sent := 1 }) (fun t => { t with stages := [wStage 8 [⟨[0], true, false⟩]] })), (((wTxu ({ wTop wTpass with acked := 1, sent := 1 }) (fun t => { t with stages := [wStage 8 [⟨[0], true, false⟩]] })).sendResults 0 ({ wTop wTpass with acked := 1, sent := 1 }) ⟨wSlotRaw 8, [⟨[0], true, false⟩], []⟩ ({ wTop wTpass with acked := 1, sent := 1 }).sent ([0].drop ({ wTop wTpass with acked := 1, sent := 1 }).sent)).2 : State), ((((((wTxu ({ wTop wTpass with acked := 1, sent := 1 }) (fun t => { t with stages := [wStage 8 [⟨[0], true, false⟩]] })).sendResults 0 ({ wTop wTpass with acked := 1, sent := 1 }) ⟨wSlotRaw 8, [⟨[0], true, false⟩], []⟩ ({ wTop wTpass with acked := 1, sent := 1 }).sent ([0].drop ({ wTop wTpass with acked := 1, sent := 1 }).sent)).2 : State)).topOp 0 0).getD (wTop 0) : TOp), by decide +kernel⟩,
   ⟨0, 0, ({ wTop wTpass with sent := 1 }), wStage 8 [⟨[0], true, false⟩], ⟨wSlotRaw 8, [⟨[0], true, false⟩], []⟩, ⟨[0], true, false⟩, (wTxu ({ wTop wTpass with sent := 1 }) (fun t => { t with stages := [wStage 8 [⟨[0], true, false⟩]] })), (((wTxu ({ wTop wTpass with sent := 1 }) (fun t => { t with stages := [wStage 8 [⟨[0], true, false⟩]] })).sendResults 0 ({ wTop wTpass with sent := 1 }) ⟨wSlotRaw 8, [⟨[0], true, false⟩], []⟩ ({ wTop wTpass with sent := 1 }).sent ([0].drop ({ wTop wTpass with sent := 1 }).sent)).2 : State), ((((((wTxu ({ wTop wTpass with sent := 1 }) (fun t => { t with stages := [wStage 8 [⟨[0], true, false⟩]] })).sendResults 0 ({ wTop wTpass with sent := 1 }) ⟨wSlotRaw 8, [⟨[0], true, false⟩], []⟩ ({ wTop wTpass with sent := 1 }).sent ([0].drop ({ wTop wTpass with sent := 1 }).sent)).2 : State)).topOp 0 0).getD (wTop 0) : TOp), by decide +kernel⟩,
   ⟨0, 0, (wTop wTpass), wStage 8 [⟨[0], false, false⟩], ⟨wSlotRaw 8, [⟨[0], false, false⟩], []⟩, ⟨[0], false, false⟩, (wTxu (wTop wTpass) (fun t => { t with stages := [wStage 8 [⟨[0], false, false⟩]] })), by decide +kernel⟩⟩

theorem witness_TxuRecords :
    (∃ (e : Nat) (c : Nat) (num : Nat) (m : W16) (h : BitVec 128) (tag : BitVec 128) (row : Bytes) (s : State), s.running = true ∧ e < 16 ∧ s.portUp e = true ∧ c < 32 ∧ rhKind h = 1 ∧ s.refuses e (rhPart h) = true) ∧
    (∃ (e : Nat) (c : Nat) (num : Nat) (m : W16) (h : BitVec 128) (tag : BitVec 128) (row : Bytes) (s : State), s.running = true ∧ e < 16 ∧ s.portUp e = true ∧ c < 32 ∧ rhKind h = 1 ∧ s.refuses e (rhPart h) = false ∧ (s.ownerOf c ≠ some (rhPart h) ∨ s.recordStep (rhPart h) h = none)) ∧
    (∃ (e : Nat) (c : Nat) (num : Nat) (m : W16) (h : BitVec 128) (tag : BitVec 128) (row : Bytes) (s : State) (step : _), s.running = true ∧ e < 16 ∧ s.portUp e = true ∧ c < 32 ∧ rhKind h = 1 ∧ s.refuses e (rhPart h) = false ∧ s.ownerOf c = some (rhPart h) ∧ s.recordStep (rhPart h) h = some step ∧ (s.txu c).room 1 = false) ∧
    (∃ (e : Nat) (c : Nat) (num : Nat) (m : W16) (h : BitVec 128) (tag : BitVec 128) (row : Bytes) (s : State) (step : _), s.running = true ∧ e < 16 ∧ s.portUp e = true ∧ c < 32 ∧ rhKind h = 1 ∧ s.refuses e (rhPart h) = false ∧ s.ownerOf c = some (rhPart h) ∧ s.recordStep (rhPart h) h = some step ∧ (s.txu c).room 1 = true) ∧
    (∃ (c : Nat) (stage : Nat) (step : Nat) (i : Nat) (r : TEarly) (g : TStage) (x : ESlot) (p : Pass) (u : State) (s : State), s.tstage c stage step = some g ∧ g.slots[rhEslot r.hdr]? = some x ∧ (x.passes.findIdx? fun p => !p.closed && decide (p.rows.length < slCap x.raw)) = some i ∧ x.passes[i]? = some p ∧ (if i = 0 then s else s.bumpEv (pgTXU c) (0x600 + 4 * rhEslot r.hdr) 1).writeOp ⟨rhPart r.hdr, s.activeCtx (rhPart r.hdr), some step, c / 4, 4 * c, false⟩ (slIn x.raw) ((i * slCap x.raw + p.rows.length) * (rhH r.hdr * elemBytes (rhDfmt r.hdr))) ((r.row ++ List.replicate ((rhH r.hdr * elemBytes (rhDfmt r.hdr)) - r.row.length) 0).take (rhH r.hdr * elemBytes (rhDfmt r.hdr))) = (none, u)) ∧
    (∃ (c : Nat) (stage : Nat) (step : Nat) (r : TEarly) (g : TStage) (x : ESlot) (s : State), s.tstage c stage step = some g ∧ g.slots[rhEslot r.hdr]? = some x ∧ (∀ p, p ∈ x.passes → p.closed = true ∨ slCap x.raw ≤ p.rows.length)) ∧
    (∃ (e : Nat) (c : Nat) (k : Nat) (num : Nat) (m : W16) (h : BitVec 128) (s : State) (step : _), s.running = true ∧ e < 16 ∧ s.portUp e = true ∧ c < 32 ∧ rhKind h = 3 ∧ s.refuses e (rhPart h) = false ∧ s.ownerOf c = some (rhPart h) ∧ s.recordStep (rhPart h) h = some step) ∧
    (∃ (e : Nat) (c : Nat) (k : Nat) (num : Nat) (m : W16) (h : BitVec 128) (s : State), s.running = true ∧ e < 16 ∧ s.portUp e = true ∧ c < 32 ∧ rhKind h = 3 ∧ s.refuses e (rhPart h) = false ∧ (s.ownerOf c ≠ some (rhPart h) ∨ s.recordStep (rhPart h) h = none)) ∧
    (∃ (c : Nat) (step : Nat) (h : BitVec 128) (tag : BitVec 128) (row : Bytes) (w : TokWait) (o : TOp) (u : State) (s : State), s.running = true ∧ c < 32 ∧ rhKind h = 2 ∧ s.ownerOf c = some (rhPart h) ∧ s.recordStep (rhPart h) h = some step ∧ ((s.txu c).toks.find? fun w => w.oslot == tagSlot tag && !w.combined) = some w ∧ s.topOp c w.op = some o ∧ o.step = step ∧ tagChoice tag < w.k ∧ w.results.any (fun x => x.1 == tagChoice tag) = false ∧ ((((s.resultHeard c ⟨h, tag, row⟩).bumpHi (pgTXU c) 0x050 1).progress (pgTXU c) 1).writeOp (s.topAcc c o) (tpOf o.raw).a3 ((w.tok * (tpOf o.raw).k + tagChoice tag) * (tpOf o.raw).h * 4) ((row ++ List.replicate ((4 * (tpOf o.raw).h) - row.length) 0).take (4 * (tpOf o.raw).h))) = (none, u) ∧ w.results.length + 1 ≠ (tpOf o.raw).k) ∧
    (∃ (c : Nat) (step : Nat) (h : BitVec 128) (tag : BitVec 128) (row : Bytes) (w : TokWait) (o : TOp) (u : State) (s : State), s.running = true ∧ c < 32 ∧ rhKind h = 2 ∧ s.ownerOf c = some (rhPart h) ∧ s.recordStep (rhPart h) h = some step ∧ ((s.txu c).toks.find? fun w => w.oslot == tagSlot tag && !w.combined) = some w ∧ s.topOp c w.op = some o ∧ o.step = step ∧ tagChoice tag < w.k ∧ w.results.any (fun x => x.1 == tagChoice tag) = false ∧ ((((s.resultHeard c ⟨h, tag, row⟩).bumpHi (pgTXU c) 0x050 1).progress (pgTXU c) 1).writeOp (s.topAcc c o) (tpOf o.raw).a3 ((w.tok * (tpOf o.raw).k + tagChoice tag) * (tpOf o.raw).h * 4) ((row ++ List.replicate ((4 * (tpOf o.raw).h) - row.length) 0).take (4 * (tpOf o.raw).h))) = (none, u) ∧ w.results.length + 1 = (tpOf o.raw).k) ∧
    (∃ (c : Nat) (h : BitVec 128) (tag : BitVec 128) (row : Bytes) (s : State), s.running = true ∧ c < 32 ∧ rhKind h = 2 ∧ ((s.txu c).toks.find? fun w => w.oslot == tagSlot tag && !w.combined) = none) :=
  ⟨⟨0, 0, 0, 5, (recHdr 1 0 0 1 0 0 0 0 15), 0, [], withPort wJob, by decide +kernel⟩,
   ⟨0, 1, 0, 5, (recHdr 1 0 0 0 0 0 0 0 15), 0, [], withPort wJob, by decide +kernel⟩,
   ⟨0, 0, 0, 5, (recHdr 1 0 0 0 0 0 0 0 15), 0, [], ((withPort wJob).modTxu 0 fun t => { t with toks := [⟨9, 0, 0, [], 65536, 0, false⟩] }), (0 : Nat), by decide +kernel⟩,
   ⟨0, 0, 0, 5, (recHdr 1 0 0 0 0 0 0 0 15), 0, [], withPort wJob, (0 : Nat), by decide +kernel⟩,
   ⟨0, 0, 0, 0, ⟨(recHdr 1 0 0 0 0 0 0 0 15), 0, []⟩, wStage 8 [⟨[], false, false⟩], ⟨wSlotRaw 8, [⟨[], false, false⟩], []⟩, ⟨[], false, false⟩, ((wTxu (wTop wTslots) (fun t => { t with stages := [wStage 8 [⟨[], false, false⟩]] })).writeOp ⟨0, (wTxu (wTop wTslots) (fun t => { t with stages := [wStage 8 [⟨[], false, false⟩]] })).activeCtx 0, some 0, 0, 0, false⟩ (vaOp 0x2000) 0 (List.replicate 64 0)).2, (wTxu (wTop wTslots) (fun t => { t with stages := [wStage 8 [⟨[], false, false⟩]] })), by decide +kernel⟩,
   ⟨0, 0, 0, ⟨(recHdr 1 0 0 0 0 0 0 0 15), 0, []⟩, wStage 1 [⟨[0], false, false⟩], ⟨wSlotRaw 1, [⟨[0], false, false⟩], []⟩, (wTxu (wTop wTslots) (fun t => { t with stages := [wStage 1 [⟨[0], false, false⟩]] })), by decide +kernel⟩,
   ⟨0, 0, 0, 0, 5, (recHdr 3 0 0 0 0 0 0 0 0), withPort wJob, (0 : Nat), by decide +kernel⟩,
   ⟨0, 1, 0, 0, 5, (recHdr 3 0 0 0 0 0 0 0 0), withPort wJob, by decide +kernel⟩,
   ⟨0, 0, (recHdr 2 0 0 0 0 0 0 0 15), 0, [], (⟨0, 0, 0, [], 2, 2, false⟩ : TokWait), (wTop (wTdisp ^^^ pack 512 [bfld 50 1 3])), ((((((wTxu (wTop (wTdisp ^^^ pack 512 [bfld 50 1 3])) (fun t => { t with toks := [(⟨0, 0, 0, [], 2, 2, false⟩ : TokWait)] })).resultHeard 0 ⟨(recHdr 2 0 0 0 0 0 0 0 15), 0, []⟩).bumpHi (pgTXU 0) 0x050 1).progress (pgTXU 0) 1).writeOp ((wTxu (wTop (wTdisp ^^^ pack 512 [bfld 50 1 3])) (fun t => { t with toks := [(⟨0, 0, 0, [], 2, 2, false⟩ : TokWait)] })).topAcc 0 (wTop (wTdisp ^^^ pack 512 [bfld 50 1 3]))) (vaOp 0x1300) (64 * 0) (List.replicate 64 0)).2), (wTxu (wTop (wTdisp ^^^ pack 512 [bfld 50 1 3])) (fun t => { t with toks := [(⟨0, 0, 0, [], 2, 2, false⟩ : TokWait)] })), by decide +kernel⟩,
   ⟨0, 0, (recHdr 2 0 0 0 0 0 0 0 15), 0, [], (⟨0, 0, 0, [], 1, 1, false⟩ : TokWait), (wTop (wTdisp ^^^ pack 512 [bfld 50 1 0])), ((((((wTxu (wTop (wTdisp ^^^ pack 512 [bfld 50 1 0])) (fun t => { t with toks := [(⟨0, 0, 0, [], 1, 1, false⟩ : TokWait)] })).resultHeard 0 ⟨(recHdr 2 0 0 0 0 0 0 0 15), 0, []⟩).bumpHi (pgTXU 0) 0x050 1).progress (pgTXU 0) 1).writeOp ((wTxu (wTop (wTdisp ^^^ pack 512 [bfld 50 1 0])) (fun t => { t with toks := [(⟨0, 0, 0, [], 1, 1, false⟩ : TokWait)] })).topAcc 0 (wTop (wTdisp ^^^ pack 512 [bfld 50 1 0]))) (vaOp 0x1300) (64 * 0) (List.replicate 64 0)).2), (wTxu (wTop (wTdisp ^^^ pack 512 [bfld 50 1 0])) (fun t => { t with toks := [(⟨0, 0, 0, [], 1, 1, false⟩ : TokWait)] })), by decide +kernel⟩,
   ⟨0, (recHdr 2 0 0 0 0 0 0 0 15), 0, [], wJob, by decide +kernel⟩⟩

theorem witness_RewindsAndNumericEvents :
    (∃ (p : Nat) (layer : Nat) (n : Nat) (l : LayerEnt) (s : State), s.running = true ∧ (s.ctx p).running = true ∧ (s.ctx p).frozen = false ∧ ([(s.ctx p).cur, (s.ctx p).cur + 1, (s.ctx p).cur + 2].find? fun n => s.mayMark p n layer) = some n ∧ ((s.layersOf p n).find? fun l => l.layer == layer) = some l) ∧
    (∃ (p : Nat) (layer : Nat) (s : State), (∀ n, (s.ctx p).cur ≤ n → n ≤ (s.ctx p).cur + 2 → s.mayMark p n layer = false)) ∧
    (∃ (p : Nat) (n : Nat) (layer : Nat) (k : Nat) (s : State), s.mayMark p n layer = true) ∧
    (∃ (p : Nat) (n : Nat) (layer : Nat) (k : Nat) (s : State), k ∈ s.coresOf p ∧ n = (s.ctx p).cur ∧ (s.seq (coreCluster k)).begun = true) ∧
    (∃ (p : Nat) (m : Msg32) (v : Variant) (s : State), s.up = true ∧ s.coordOf (byteFld m 0 2) = some p ∧ wType m = 0x10 ∧ (s.coord p).open_ = true ∧ wStep m = (s.coord p).step ∧ wAttempt m = (s.coord p).attempt ∧ (∀ o, (s.coord p).order = some o → layerRank (s.layersOf p (s.coord p).step) (wLayer m) < layerRank (s.layersOf p (s.coord p).step) o.2.1) ∧ s.chainOf p (s.coord p).step (wLayer m) (wAxis m) = some v ∧ s.coordPos p v < v.base + v.count) ∧
    (∃ (p : Nat) (m : Msg32) (v : Variant) (s : State), s.up = true ∧ s.coordOf (byteFld m 0 2) = some p ∧ wType m = 0x10 ∧ (s.coord p).open_ = true ∧ wStep m = (s.coord p).step ∧ wAttempt m = (s.coord p).attempt ∧ (∀ o, (s.coord p).order = some o → layerRank (s.layersOf p (s.coord p).step) (wLayer m) < layerRank (s.layersOf p (s.coord p).step) o.2.1) ∧ s.chainOf p (s.coord p).step (wLayer m) (wAxis m) = some v ∧ v.base + v.count ≤ s.coordPos p v) ∧
    (∃ (p : Nat) (m : Msg32) (o : Nat × Nat × Nat × Nat) (s : State), s.coordOf (byteFld m 0 2) = some p ∧ (s.coord p).order = some o ∧ layerRank (s.layersOf p (s.coord p).step) o.2.1 ≤ layerRank (s.layersOf p (s.coord p).step) (wLayer m)) ∧
    (∃ (p : Nat) (m : Msg32) (s : State), s.up = true ∧ s.partOf (byteFld m 0 2) = some p ∧ wType m = 0x11 ∧ BitVec.ofNat 16 (byteFld m 2 2) = s.coordId p ∧ (s.ctx p).bound = true ∧ (s.ctx p).coordLost = false ∧ (s.ctx p).frozen = false ∧ (s.ctx p).running = true ∧ (s.ctx p).pend = none ∧ wStep m = (s.ctx p).cur ∧ wAttempt m = (s.ctx p).attempt ∧ (∀ r, (s.ctx p).rewind = some r → r.seq < wSeq m) ∧ (s.ctx p).seqDone < wSeq m) ∧
    (∃ (p : Nat) (m : Msg32) (s : State), s.partOf (byteFld m 0 2) = some p ∧ (wSeq m ≤ (s.ctx p).seqDone ∨ (∃ r, (s.ctx p).rewind = some r ∧ wSeq m ≤ r.seq))) ∧
    (∃ (p : Nat) (r : Rewind) (s : State), s.running = true ∧ (s.ctx p).frozen = false ∧ (s.ctx p).rewind = some r ∧ r.drained = false ∧ (r.absent = true ∨ s.rewindDrained p r = true)) ∧
    (∃ (p : Nat) (r : Rewind) (s : State), s.running = true ∧ (s.ctx p).frozen = false ∧ (s.ctx p).rewind = some r ∧ r.drained = false ∧ r.absent = false ∧ s.rewindDrained p r = false) ∧
    (∃ (p : Nat) (r : Rewind) (s : State), (s.ctx p).rewind = some r ∧ r.drained = true) ∧
    (∃ (p : Nat) (seq : Nat) (layer : Nat) (axis : Nat) (pos : Nat) (m : Msg32) (ms : List (W16 × Nat)) (s : State), s.up = true ∧ s.coordOf (byteFld m 0 2) = some p ∧ (s.coord p).order = some (seq, layer, axis, pos) ∧ wType m = 0x12 ∧ (s.coord p).open_ = true ∧ wStep m = (s.coord p).step ∧ wAttempt m = (s.coord p).attempt ∧ wSeq m = seq ∧ (∀ x, x ∈ (s.moduleId, p) :: ms → x = (((BitVec.ofNat 16 (byteFld m 2 2), byteFld m 4 1) : W16 × Nat)) ∨ x ∈ (s.coord p).drained)) ∧
    (∃ (p : Nat) (seq : Nat) (layer : Nat) (axis : Nat) (pos : Nat) (m : Msg32) (ms : List (W16 × Nat)) (s : State), s.up = true ∧ s.coordOf (byteFld m 0 2) = some p ∧ (s.coord p).order = some (seq, layer, axis, pos) ∧ wType m = 0x12 ∧ (s.coord p).open_ = true ∧ wStep m = (s.coord p).step ∧ wAttempt m = (s.coord p).attempt ∧ wSeq m = seq ∧ (∃ x, x ∈ (s.moduleId, p) :: ms ∧ x ≠ (((BitVec.ofNat 16 (byteFld m 2 2), byteFld m 4 1) : W16 × Nat)) ∧ x ∉ (s.coord p).drained)) ∧
    (∃ (p : Nat) (m : Msg32) (r : Rewind) (s : State), s.up = true ∧ s.partOf (byteFld m 0 2) = some p ∧ wType m = 0x13 ∧ BitVec.ofNat 16 (byteFld m 2 2) = s.coordId p ∧ (s.ctx p).rewind = some r ∧ (s.ctx p).bound = true ∧ (s.ctx p).frozen = false ∧ (s.ctx p).pend = none ∧ wStep m = (s.ctx p).cur ∧ wAttempt m = (s.ctx p).attempt ∧ wSeq m = r.seq ∧ r.absent = true) ∧
    (∃ (p : Nat) (m : Msg32) (r : Rewind) (s : State), s.up = true ∧ s.partOf (byteFld m 0 2) = some p ∧ wType m = 0x13 ∧ BitVec.ofNat 16 (byteFld m 2 2) = s.coordId p ∧ (s.ctx p).rewind = some r ∧ (s.ctx p).bound = true ∧ (s.ctx p).frozen = false ∧ (s.ctx p).pend = none ∧ wStep m = (s.ctx p).cur ∧ wAttempt m = (s.ctx p).attempt ∧ wSeq m = r.seq ∧ r.absent = false) ∧
    (∃ (p : Nat) (s : State), s.up = true ∧ p < 32 ∧ (s.ner p).enabled = false ∧ 64 ≤ s.nerSize p ∧ s.nerSize p ≤ 65536) ∧
    (∃ (p : Nat) (s : State), s.up = true ∧ p < 32 ∧ (s.ner p).enabled = false ∧ (s.nerSize p < 64 ∨ 65536 < s.nerSize p)) ∧
    (∃ (p : Nat) (s : State), s.up = true ∧ p < 32 ∧ (s.ner p).enabled = true) ∧
    (∃ (p : Nat) (s : State), s.up = true ∧ p < 32 ∧ (s.ner p).broken = true) ∧
    (∃ (p : Nat) (s : State), (s.ner p).broken = false) :=
  ⟨⟨0, 3, 0, ⟨3, 0, 0, 0, 0, 0, 0⟩, wWide, by decide +kernel⟩,
   ⟨0, 4, wWide, by intro n h h2; obtain rfl | rfl | rfl : n = 0 ∨ n = 1 ∨ n = 2 := (by have e : (wWide.ctx 0).cur = 0 := (by decide +kernel); rw [e] at h2; omega) <;> decide +kernel⟩,
   ⟨0, 0, 3, 0, wWide, by decide +kernel⟩,
   ⟨0, 0, 3, 0, wWide, by decide +kernel⟩,
   ⟨0, wWm 0x10 0 [], ⟨3, 0, 2, 0, 0, 0, []⟩, wWide, by decide +kernel⟩,
   ⟨0, wWm 0x10 0 [], ⟨3, 0, 2, 0, 0, 0, []⟩, wWide.modCoord 0 (fun c => { c with positions := [(12, 2)] }), by decide +kernel⟩,
   ⟨0, wWm 0x10 0 [], (1, 3, 0, 1), wOrd, by decide +kernel⟩,
   ⟨0, wWm 0x11 1 [⟨59, 58, 1⟩], wWide, by decide +kernel⟩,
   ⟨0, wWm 0x11 0 [], wWide, by decide +kernel⟩,
   ⟨0, wRw true, wRew true, by decide +kernel⟩,
   ⟨0, wRw false, (wRew false).setExecs 0 0 [⟨{ (wQ (wRec 1 [])) with layer := 3 }, false, none, none, false⟩], by decide +kernel⟩,
   ⟨0, { wRw false with drained := true }, wWide.modCtx 0 fun c => { c with rewind := some { wRw false with drained := true } }, by decide +kernel⟩,
   ⟨0, 1, 3, 0, 1, wWm 0x12 1 [], [], wOrd, by decide +kernel⟩,
   ⟨0, 1, 3, 0, 1, wWm 0x12 1 [], [(7, 0)], wOrd, by decide +kernel⟩,
   ⟨0, wWm 0x13 1 [], wRw true, wRew true, by decide +kernel⟩,
   ⟨0, wWm 0x13 1 [], wRw false, wRew false, by decide +kernel⟩,
   ⟨0, wNer NerSt.zero 64, by decide +kernel⟩,
   ⟨0, wNer NerSt.zero 63, by decide +kernel⟩,
   ⟨0, wNer { NerSt.zero with enabled := true } 64, by decide +kernel⟩,
   ⟨0, wNer { NerSt.zero with broken := true } 64, by decide +kernel⟩,
   ⟨0, wUp, by decide +kernel⟩⟩

theorem witness_FlitsAndRemoteRequests :
    (∃ (e : Nat) (n : Nat) (f : Flit) (tag : Bool) (s : State), s.up = true ∧ e < 16 ∧ s.portUp e = true ∧ flitSeq f = (s.port e).rxSeq.toNat) ∧
    (∃ (e : Nat) (f : Flit) (fec : FecRes) (crc : Bool) (tag : Bool) (s : State), s.up = true ∧ e < 16 ∧ s.portUp e = true ∧ (fec = .uncorrectable ∨ crc = false ∨ flitSeq f ≠ (s.port e).rxSeq.toNat) ∧ (s.port e).replayAsked = false) ∧
    (∃ (e : Nat) (f : Flit) (fec : FecRes) (crc : Bool) (tag : Bool) (s : State), s.up = true ∧ e < 16 ∧ s.portUp e = true ∧ (fec = .uncorrectable ∨ crc = false ∨ flitSeq f ≠ (s.port e).rxSeq.toNat) ∧ (s.port e).replayAsked = true) ∧
    (∃ (e : Nat) (f : Flit) (fec : FecRes) (crc : Bool) (tag : Bool) (s : State), s.portUp e = false) ∧
    (∃ (e : Nat) (l : Nat) (s : State), s.laneReady e 3 = true) ∧
    (∃ (e : Nat) (l : Nat) (s : State), s.nextLane e = some l) ∧
    (∃ (e : Nat) (h : RemHdr) (op : RemOp) (s : State), s.running = true ∧ e < 16 ∧ s.portUp e = true ∧ h.dpart < 32 ∧ s.portFenced e = false ∧ h.authOk = false) ∧
    (∃ (e : Nat) (h : RemHdr) (op : RemOp) (s : State), s.running = true ∧ e < 16 ∧ s.portUp e = true ∧ h.dpart < 32 ∧ (s.portFenced e = true ∨ h.authOk = true) ∧ (s.portFenced e = true ∨ (s.ctx h.dpart).bound = false ∨ (s.part h.dpart).state ≠ .active)) ∧
    (∃ (e : Nat) (h : RemHdr) (op : RemOp) (s : State), s.running = true ∧ e < 16 ∧ s.portUp e = true ∧ h.dpart < 32 ∧ s.portFenced e = false ∧ h.authOk = true ∧ (s.ctx h.dpart).bound = true ∧ (s.part h.dpart).state = .active) ∧
    (∃ (e : Nat) (h : RemHdr) (r : RemResp) (s : State), s.portUp e = true) ∧
    (∃ (e : Nat) (va : Nat) (b : Bytes) (bad : List Nat) (h : RemHdr) (s : State) (k : _), s.rangeFail h.dpart ((⟨h.dpart, s.activeCtx h.dpart, none, e / 2, 0, false⟩ : Acc)).ctx va b.length true = some k) ∧
    (∃ (e : Nat) (va : Nat) (b : Bytes) (bad : List Nat) (h : RemHdr) (s : State), s.rangeFail h.dpart ((⟨h.dpart, s.activeCtx h.dpart, none, e / 2, 0, false⟩ : Acc)).ctx va b.length true = none) ∧
    (∃ (e : Nat) (va : Nat) (o : Nat) (ev : Nat) (x : W64) (c : W64) (fn : BitVec 11) (h : RemHdr) (s : State), s.rangeFail h.dpart ((⟨h.dpart, s.activeCtx h.dpart, none, e / 2, 0, false⟩ : Acc)).ctx va ((atomW fn.toNat) / 8) true = none ∧ (s.readVa .store false ((⟨h.dpart, s.activeCtx h.dpart, none, e / 2, 0, false⟩ : Acc)) va ((atomW fn.toNat) / 8)).1.err = none ∧ (s.readVa .store false ((⟨h.dpart, s.activeCtx h.dpart, none, e / 2, 0, false⟩ : Acc)) va ((atomW fn.toNat) / 8)).1.bad = [] ∧ atomNew (fn.toNat % 16) (atomW fn.toNat) (ofLe (s.readVa .store false ((⟨h.dpart, s.activeCtx h.dpart, none, e / 2, 0, false⟩ : Acc)) va ((atomW fn.toNat) / 8)).1.data) (x.toNat % 2 ^ (atomW fn.toNat)) (c.toNat % 2 ^ (atomW fn.toNat)) = some (some o, ev)) ∧
    (∃ (e : Nat) (tag : Nat) (k : Nat) (j : Nat) (x : Option Nat) (g : Byte) (q : OutReq) (s : State) (b : Bytes), s.up = true ∧ e < 16 ∧ s.portUp e = true ∧ ((s.port e).outReqs.find? fun q => q.tag == tag) = some q ∧ g = (s.part q.part).gen ∧ q.gen = g ∧ q.who = .port k x ∧ q.pipe = j ∧ q.put = (s.pipe k j).prog ∧ (s.pipe k j).running = true ∧ q.isRead = true ∧ q.half = false ∧ q.atom = none ∧ BitVec.ofNat 5 (s.pipe k j).dest ≠ 0) ∧
    (∃ (e : Nat) (tag : Nat) (k : Nat) (j : Nat) (x : Option Nat) (g : Byte) (q : OutReq) (s : State), s.up = true ∧ e < 16 ∧ s.portUp e = true ∧ ((s.port e).outReqs.find? fun q => q.tag == tag) = some q ∧ g = (s.part q.part).gen ∧ q.gen = g ∧ q.who = .port k x ∧ q.pipe = j ∧ q.put = (s.pipe k j).prog ∧ (s.pipe k j).running = true ∧ q.isRead = false) ∧
    (∃ (e : Nat) (tag : Nat) (tl : Nat) (dn : Nat) (g : Byte) (q : OutReq) (s : State) (b : Bytes), s.up = true ∧ e < 16 ∧ s.portUp e = true ∧ ((s.port e).outReqs.find? fun q => q.tag == tag) = some q ∧ g = (s.part q.part).gen ∧ q.gen = g ∧ q.who = .mover tl dn) ∧
    (∃ (e : Nat) (tag : Nat) (tl : Nat) (dn : Nat) (g : Byte) (q : OutReq) (s : State) (sub : W16), s.up = true ∧ e < 16 ∧ s.portUp e = true ∧ ((s.port e).outReqs.find? fun q => q.tag == tag) = some q ∧ g = (s.part q.part).gen ∧ q.gen = g ∧ q.who = .mover tl dn) ∧
    (∃ (e : Nat) (tag : Nat) (c : Nat) (id : Nat) (sub : W16) (g : Byte) (q : OutReq) (o : TOp) (s : State), s.up = true ∧ e < 16 ∧ s.portUp e = true ∧ ((s.port e).outReqs.find? fun q => q.tag == tag) = some q ∧ g = (s.part q.part).gen ∧ q.gen = g ∧ q.who = .txu c id ∧ s.topOp c id = some o) ∧
    (∃ (e : Nat) (tag : Nat) (g : Byte) (q : OutReq) (r : RemResp) (s : State), s.up = true ∧ e < 16 ∧ s.portUp e = true ∧ ((s.port e).outReqs.find? fun q => q.tag == tag) = some q ∧ (g ≠ (s.part q.part).gen ∨ q.gen ≠ g) ∧ (∀ tl dn, q.who ≠ .mover tl dn)) ∧
    (∃ (e : Nat) (tag : Nat) (g : Byte) (r : RemResp) (s : State), ((s.port e).outReqs.find? fun q => q.tag == tag) = none) :=
  ⟨⟨0, 0, 0, true, withPort wJob, by decide +kernel⟩,
   ⟨0, 0, .uncorrectable, true, true, withPort wJob, by decide +kernel⟩,
   ⟨0, 0, .uncorrectable, true, true, ({ wJob with ports := [(0, { wPort with replayAsked := true })] }), by decide +kernel⟩,
   ⟨0, 0, .uncorrectable, true, true, wJob, by decide +kernel⟩,
   ⟨0, 0, ({ wJob with ports := [(0, { wPort with txq := [(3, [(⟨9, 0, 0, 0, none, none⟩ : TxFlit)])] })] }), by decide +kernel⟩,
   ⟨0, 3, ({ wJob with ports := [(0, { wPort with txq := [(3, [(⟨9, 0, 0, 0, none, none⟩ : TxFlit)])] })] }), by decide +kernel⟩,
   ⟨0, ⟨0, 0, 9, 1, false⟩, .read 0x1000 8, withPort wJob, by decide +kernel⟩,
   ⟨0, ⟨0, 0, 9, 1, true⟩, .read 0x1000 8, (withPort wJob).setRg (pgEl 0) 0x200 2, by decide +kernel⟩,
   ⟨0, ⟨0, 0, 9, 1, true⟩, .read 0x1000 8, withPort wJob, by decide +kernel⟩,
   ⟨0, ⟨0, 0, 9, 1, true⟩, .ack, withPort wJob, by decide +kernel⟩,
   ⟨0, 0x100000000, [1], [], ⟨0, 0, 9, 1, true⟩, withPort wJob, ((((withPort wJob).rangeFail 0 0 0x100000000 1 true).getD 99)), by decide +kernel⟩,
   ⟨0, 0x1000, [1, 2, 3, 4, 5, 6, 7, 8], [], ⟨0, 0, 9, 1, true⟩, withPort wJob, by decide +kernel⟩,
   ⟨0, 0x1000, 5, 0, 5, 0, 0, ⟨0, 0, 9, 1, true⟩, withPort wJob, by decide +kernel⟩,
   ⟨0, 1, 0, 0, none, 0, ⟨1, 0, 0, 9, .port 0 none, 0, true, false, 0, none⟩, wAsk ⟨1, 0, 0, 9, .port 0 none, 0, true, false, 0, none⟩ { wJob with cores := [(0, { CoreSt.zero with pipes := [(0, { ScPipe.zero with dest := 3, running := true, remote := 2 })] })] }, ([1, 2, 3, 4, 5, 6, 7, 8] : Bytes), by decide +kernel⟩,
   ⟨0, 1, 0, 0, none, 0, ⟨1, 0, 0, 9, .port 0 none, 0, false, false, 0, none⟩, wAsk ⟨1, 0, 0, 9, .port 0 none, 0, false, false, 0, none⟩ { wJob with cores := [(0, { CoreSt.zero with pipes := [(0, { ScPipe.zero with dest := 3, running := true, remote := 2 })] })] }, by decide +kernel⟩,
   ⟨0, 1, 0, 3, 0, ⟨1, 0, 0, 9, .mover 0 3, 0, true, false, 0, none⟩, wAsk ⟨1, 0, 0, 9, .mover 0 3, 0, true, false, 0, none⟩ (wMover (wDesc (wMv 1 []) .reading)), ([1, 2] : Bytes), by decide +kernel⟩,
   ⟨0, 1, 0, 3, 0, ⟨1, 0, 0, 9, .mover 0 3, 0, true, false, 0, none⟩, wAsk ⟨1, 0, 0, 9, .mover 0 3, 0, true, false, 0, none⟩ (wMover (wDesc (wMv 1 []) .reading)), 3, by decide +kernel⟩,
   ⟨0, 1, 0, 0, 3, 0, ⟨1, 0, 0, 9, .txu 0 0, 0, true, false, 0, none⟩, wTop wTdisp, wAsk ⟨1, 0, 0, 9, .txu 0 0, 0, true, false, 0, none⟩ (wTxu (wTop wTdisp) (fun t => t)), by decide +kernel⟩,
   ⟨0, 1, 1, ⟨1, 0, 0, 9, .port 0 none, 0, true, false, 0, none⟩, .ack, wAsk ⟨1, 0, 0, 9, .port 0 none, 0, true, false, 0, none⟩ wJob, by decide +kernel, by decide +kernel, by decide +kernel, by decide +kernel, by decide +kernel, nofun⟩,
   ⟨0, 1, 0, .ack, wUp, by decide +kernel⟩⟩

theorem witness_LinksTrainAndFall :
    (∃ (e : Nat) (l : W16) (s : State), s.up = true ∧ e < 16 ∧ s.portUp e = false ∧ bitOf (s.rg (pgEl e) 0x200) 0 = true ∧ l = 0xFFFF ∧ bitOf (s.rg (pgEl e) 0x200) 2 = false) ∧
    (∃ (e : Nat) (l : W16) (s : State), s.up = true ∧ e < 16 ∧ s.portUp e = false ∧ bitOf (s.rg (pgEl e) 0x200) 0 = true ∧ (l &&& 0x00FF = 0x00FF ∧ (l ≠ 0xFFFF ∨ bitOf (s.rg (pgEl e) 0x200) 2 = true))) ∧
    (∃ (e : Nat) (l : W16) (s : State), s.up = true ∧ e < 16 ∧ s.portUp e = false ∧ bitOf (s.rg (pgEl e) 0x200) 0 = true ∧ l &&& 0x00FF ≠ 0x00FF ∧ l &&& 0xFF00 = 0xFF00) ∧
    (∃ (e : Nat) (l : W16) (s : State), s.up = true ∧ e < 16 ∧ s.portUp e = false ∧ bitOf (s.rg (pgEl e) 0x200) 0 = true ∧ l &&& 0x00FF ≠ 0x00FF ∧ l &&& 0xFF00 ≠ 0xFF00) ∧
    (∃ (e : Nat) (l : W16) (s : State), (s.portUp e = true ∨ bitOf (s.rg (pgEl e) 0x200) 0 = false)) ∧
    (∃ (e : Nat) (peer : W16) (pp : Nat) (sw : Bool) (key : Bool) (s : State), s.up = true ∧ e < 16 ∧ (s.port e).st = .training) ∧
    (∃ (e : Nat) (s : State), s.up = true ∧ e < 16 ∧ (s.port e).st = .training ∧ (s.port e).trained = true) ∧
    (∃ (e : Nat) (s : State), ((s.port e).st ≠ .training ∨ (s.port e).trained = false)) ∧
    (∃ (e : Nat) (s : State), s.up = true ∧ e < 16 ∧ (s.port e).st = .training ∧ s.time.mono < (s.port e).trainStart + 2000000) ∧
    (∃ (e : Nat) (s : State), s.up = true ∧ e < 16 ∧ (s.port e).st = .training ∧ (s.port e).trainStart + 2000000 ≤ s.time.mono) ∧
    (∃ (e : Nat) (cause : Nat) (s : State), s.up = true ∧ e < 16 ∧ s.portUp e = true ∧ (cause = 1 ∨ cause = 3 ∨ cause = 5 ∨ (cause = 2 ∧ 16 ≤ (s.port e).replays))) ∧
    (∃ (e : Nat) (cause : Nat) (s : State), ((cause = 2 ∧ (s.port e).replays < 16) ∨ (cause ≠ 1 ∧ cause ≠ 2 ∧ cause ≠ 3 ∧ cause ≠ 5) ∨ s.portUp e = false)) ∧
    (∃ (e : Nat) (v : Bool) (s : State), s.up = true ∧ e < 16) ∧
    (∃ (b : Bool) (s : State), s.up = true) ∧
    (∃ (v : BitVec 2) (s : State), s.up = true) :=
  ⟨⟨0, 0xFFFF, (wUp.setRg (pgEl 0) 0x200 1), by decide +kernel⟩,
   ⟨0, 0x0FFF, (wUp.setRg (pgEl 0) 0x200 1), by decide +kernel⟩,
   ⟨0, 0xFF0F, (wUp.setRg (pgEl 0) 0x200 1), by decide +kernel⟩,
   ⟨0, 0x0F0F, (wUp.setRg (pgEl 0) 0x200 1), by decide +kernel⟩,
   ⟨0, 0xFFFF, withPort wJob, by decide +kernel⟩,
   ⟨0, 9, 0, false, true, { wUp with ports := [(0, wTrain)] }, by decide +kernel⟩,
   ⟨0, { wUp with ports := [(0, wTrain)] }, by decide +kernel⟩,
   ⟨0, wUp, by decide +kernel⟩,
   ⟨0, { wUp with ports := [(0, wTrain)] }, by decide +kernel⟩,
   ⟨0, {  wUp with ports := [(0, wTrain)] , time := { TimeSt.reset with mono := 2000000 } }, by decide +kernel⟩,
   ⟨0, 1, withPort wJob, by decide +kernel⟩,
   ⟨0, 2, withPort wJob, by decide +kernel⟩,
   ⟨0, true, wUp, by decide +kernel⟩,
   ⟨false, wUp, by decide +kernel⟩,
   ⟨2, wUp, by decide +kernel⟩⟩

theorem witness_FoldEntriesRun :
    (∃ (e : Nat) (p : Nat) (r : FoldEnt) (s : State), e < 16 ∧ s.running = true ∧ s.foldCur e p = some r ∧ (s.fpart e p).started = false ∧ (s.fpart e p).failed = false ∧ (s.ctx p).bound = true ∧ (s.ctx p).running = true ∧ (s.ctx p).frozen = false ∧ (s.ctx p).coordLost = false ∧ ((s.ctx p).fails.any fun q => q.1 == (s.ctx p).cur) = false ∧ s.tensorOut p (feTensor r) = false ∧ (!(feWait r).testBit 15 || decide (byteFld r 26 2 ≤ s.dc (nbits (feWait r) 12 6) (feWait r % 64))) = false) ∧
    (∃ (e : Nat) (p : Nat) (r : FoldEnt) (s : State), e < 16 ∧ s.running = true ∧ s.foldCur e p = some r ∧ (s.fpart e p).started = false ∧ (s.fpart e p).failed = false ∧ (s.ctx p).bound = true ∧ (s.ctx p).running = true ∧ (s.ctx p).frozen = false ∧ (s.ctx p).coordLost = false ∧ ((s.ctx p).fails.any fun q => q.1 == (s.ctx p).cur) = false ∧ s.tensorOut p (feTensor r) = false ∧ (!(feWait r).testBit 15 || decide (byteFld r 26 2 ≤ s.dc (nbits (feWait r) 12 6) (feWait r % 64))) = true ∧ feOp r ≠ 4 ∧ s.foldWidth p r = none) ∧
    (∃ (e : Nat) (p : Nat) (r : FoldEnt) (s : State), e < 16 ∧ s.running = true ∧ s.foldCur e p = some r ∧ (s.fpart e p).started = false ∧ (s.fpart e p).failed = false ∧ (s.ctx p).bound = true ∧ (s.ctx p).running = true ∧ (s.ctx p).frozen = false ∧ (s.ctx p).coordLost = false ∧ ((s.ctx p).fails.any fun q => q.1 == (s.ctx p).cur) = false ∧ s.tensorOut p (feTensor r) = false ∧ (!(feWait r).testBit 15 || decide (byteFld r 26 2 ≤ s.dc (nbits (feWait r) 12 6) (feWait r % 64))) = true ∧ (feOp r = 4 ∨ ((s.foldWidth p r).isSome = true ∧ (s.portUp e = true ∨ (feParent r = none ∧ feKids r = []))))) ∧
    (∃ (e : Nat) (p : Nat) (r : FoldEnt) (s : State), e < 16 ∧ s.running = true ∧ s.foldCur e p = some r ∧ (s.fpart e p).started = false ∧ (s.fpart e p).failed = false ∧ (s.ctx p).bound = true ∧ (s.ctx p).running = true ∧ (s.ctx p).frozen = false ∧ (s.ctx p).coordLost = false ∧ ((s.ctx p).fails.any fun q => q.1 == (s.ctx p).cur) = false ∧ s.tensorOut p (feTensor r) = false ∧ (!(feWait r).testBit 15 || decide (byteFld r 26 2 ≤ s.dc (nbits (feWait r) 12 6) (feWait r % 64))) = true ∧ feOp r ≠ 4 ∧ (s.foldWidth p r).isSome = true ∧ ((feParent r).isSome = true ∨ feKids r ≠ []) ∧ s.portUp e = false) ∧
    (∃ (e : Nat) (p : Nat) (s : State), e < 16 ∧ s.running = true ∧ (s.foldCur e p = none ∨ (s.fpart e p).started = true ∨ (s.fpart e p).failed = true)) ∧
    (∃ (e : Nat) (m : FoldMsg) (s : State), e < 16 ∧ s.running = true ∧ s.portUp e = true ∧ s.foldMatch m = false) ∧
    (∃ (e : Nat) (m : FoldMsg) (r : FoldEnt) (i : Nat × W16) (s : State), e < 16 ∧ s.running = true ∧ s.portUp e = true ∧ s.foldMatch m = true ∧ s.tensorOut m.part m.tensor.toNat = false ∧ (((s.foldList m.part (s.ctx m.part).cur e).drop (s.fpart e m.part).cur).find? fun r => feTensor r == m.tensor.toNat && feOp r != 4) = some r ∧ ((feKids r).find? fun k => k.2 == m.src) = some i ∧ ((s.fpart e m.part).held.any (fun h => h.tensor == feTensor r && h.input == i.1 && h.blk.block == m.blk.block) || ((s.foldCur e m.part == some r && (s.fpart e m.part).started) && decide (m.blk.block < (s.fpart e m.part).summed)) || decide (feBlocks r ≤ m.blk.block)) = true) ∧
    (∃ (e : Nat) (m : FoldMsg) (r : FoldEnt) (i : Nat × W16) (s : State), e < 16 ∧ s.running = true ∧ s.portUp e = true ∧ s.foldMatch m = true ∧ s.tensorOut m.part m.tensor.toNat = false ∧ (((s.foldList m.part (s.ctx m.part).cur e).drop (s.fpart e m.part).cur).find? fun r => feTensor r == m.tensor.toNat && feOp r != 4) = some r ∧ ((feKids r).find? fun k => k.2 == m.src) = some i ∧ ((s.fpart e m.part).held.any (fun h => h.tensor == feTensor r && h.input == i.1 && h.blk.block == m.blk.block) || ((s.foldCur e m.part == some r && (s.fpart e m.part).started) && decide (m.blk.block < (s.fpart e m.part).summed)) || decide (feBlocks r ≤ m.blk.block)) = false ∧ (hdrCorrupt (s.foldScale m.part (s.ctx m.part).cur (feTensor r) 24) (s.foldScale m.part (s.ctx m.part).cur (feTensor r) 40) m.blk) = true) ∧
    (∃ (e : Nat) (m : FoldMsg) (r : FoldEnt) (i : Nat × W16) (s : State), e < 16 ∧ s.running = true ∧ s.portUp e = true ∧ s.foldMatch m = true ∧ s.tensorOut m.part m.tensor.toNat = false ∧ (((s.foldList m.part (s.ctx m.part).cur e).drop (s.fpart e m.part).cur).find? fun r => feTensor r == m.tensor.toNat && feOp r != 4) = some r ∧ ((feKids r).find? fun k => k.2 == m.src) = some i ∧ ((s.fpart e m.part).held.any (fun h => h.tensor == feTensor r && h.input == i.1 && h.blk.block == m.blk.block) || ((s.foldCur e m.part == some r && (s.fpart e m.part).started) && decide (m.blk.block < (s.fpart e m.part).summed)) || decide (feBlocks r ≤ m.blk.block)) = false ∧ (hdrCorrupt (s.foldScale m.part (s.ctx m.part).cur (feTensor r) 24) (s.foldScale m.part (s.ctx m.part).cur (feTensor r) 40) m.blk) = false ∧ (s.foldE e).inflight < 4096 ∧ m.blk.block < (if (s.foldCur e m.part == some r && (s.fpart e m.part).started) then (s.fpart e m.part).summed + 64 else 64)) ∧
    (∃ (e : Nat) (m : FoldMsg) (r : FoldEnt) (i : Nat × W16) (s : State), e < 16 ∧ s.running = true ∧ s.portUp e = true ∧ s.foldMatch m = true ∧ s.tensorOut m.part m.tensor.toNat = false ∧ (((s.foldList m.part (s.ctx m.part).cur e).drop (s.fpart e m.part).cur).find? fun r => feTensor r == m.tensor.toNat && feOp r != 4) = some r ∧ ((feKids r).find? fun k => k.2 == m.src) = some i ∧ ((s.fpart e m.part).held.any (fun h => h.tensor == feTensor r && h.input == i.1 && h.blk.block == m.blk.block) || ((s.foldCur e m.part == some r && (s.fpart e m.part).started) && decide (m.blk.block < (s.fpart e m.part).summed)) || decide (feBlocks r ≤ m.blk.block)) = false ∧ (hdrCorrupt (s.foldScale m.part (s.ctx m.part).cur (feTensor r) 24) (s.foldScale m.part (s.ctx m.part).cur (feTensor r) 40) m.blk) = false ∧ (4096 ≤ (s.foldE e).inflight ∨ (if (s.foldCur e m.part == some r && (s.fpart e m.part).started) then (s.fpart e m.part).summed + 64 else 64) ≤ m.blk.block)) ∧
    (∃ (e : Nat) (m : FoldMsg) (r : FoldEnt) (s : State), e < 16 ∧ s.running = true ∧ s.portUp e = true ∧ s.foldMatch m = true ∧ s.tensorOut m.part m.tensor.toNat = false ∧ s.foldCur e m.part = some r ∧ feTensor r = m.tensor.toNat ∧ feOp r = 2 ∧ feParent r = some m.src ∧ (s.fpart e m.part).failed = false ∧ m.blk.block < feBlocks r ∧ (s.fpart e m.part).started = false) ∧
    (∃ (e : Nat) (m : FoldMsg) (r : FoldEnt) (s : State), e < 16 ∧ s.running = true ∧ s.portUp e = true ∧ s.foldMatch m = true ∧ s.tensorOut m.part m.tensor.toNat = false ∧ s.foldCur e m.part = some r ∧ feTensor r = m.tensor.toNat ∧ feOp r = 2 ∧ feParent r = some m.src ∧ (s.fpart e m.part).failed = false ∧ m.blk.block < feBlocks r ∧ (s.fpart e m.part).started = true ∧ ((hdrCorrupt (s.foldScale m.part (s.ctx m.part).cur (feTensor r) 24) (s.foldScale m.part (s.ctx m.part).cur (feTensor r) 40) m.blk) || sumCorrupt m.blk) = true) ∧
    (∃ (e : Nat) (m : FoldMsg) (r : FoldEnt) (s : State) (u : State), e < 16 ∧ s.running = true ∧ s.portUp e = true ∧ s.foldMatch m = true ∧ s.tensorOut m.part m.tensor.toNat = false ∧ s.foldCur e m.part = some r ∧ feTensor r = m.tensor.toNat ∧ feOp r = 2 ∧ feParent r = some m.src ∧ (s.fpart e m.part).failed = false ∧ m.blk.block < feBlocks r ∧ (s.fpart e m.part).started = true ∧ ((hdrCorrupt (s.foldScale m.part (s.ctx m.part).cur (feTensor r) 24) (s.foldScale m.part (s.ctx m.part).cur (feTensor r) 40) m.blk) || sumCorrupt m.blk) = false ∧ (if 8 ≤ m.blk.width then (s.bump (pgFOLD e) 0x040 1).foldSatIn e m.part r m.blk.block else (s.bump (pgFOLD e) 0x040 1)).foldResult e m.part r m.blk.block m.blk = (none, u)) ∧
    (∃ (e : Nat) (p : Nat) (j : Nat) (r : FoldEnt) (b : FoldBlk) (u : State) (s : State), s.foldResult e p r j b = (none, u)) ∧
    (∃ (e : Nat) (m : FoldMsg) (n : Nat) (r : FoldEnt) (s : State), e < 16 ∧ s.running = true ∧ s.portUp e = true ∧ (s.ctx m.part).lastCommit = some n ∧ m.blk.step = BitVec.ofNat 8 n ∧ m.gen = (s.part m.part).gen ∧ s.bcastRx e m.part m.tensor.toNat = some r ∧ ((bcastFmt m.blk.width).isNone || m.blk.scale != 0 || sumCorrupt m.blk) = true) ∧
    (∃ (e : Nat) (m : FoldMsg) (n : Nat) (r : FoldEnt) (s : State), e < 16 ∧ s.running = true ∧ s.portUp e = true ∧ (s.ctx m.part).lastCommit = some n ∧ m.blk.step = BitVec.ofNat 8 n ∧ m.gen = (s.part m.part).gen ∧ s.bcastRx e m.part m.tensor.toNat = some r ∧ ((bcastFmt m.blk.width).isNone || m.blk.scale != 0 || sumCorrupt m.blk) = false) ∧
    (∃ (e : Nat) (m : FoldMsg) (s : State), e < 16 ∧ s.running = true ∧ s.portUp e = true ∧ ((∀ n, (s.ctx m.part).lastCommit = some n → m.blk.step ≠ BitVec.ofNat 8 n) ∨ m.gen ≠ (s.part m.part).gen ∨ s.bcastRx e m.part m.tensor.toNat = none)) ∧
    (∃ (e : Nat) (p : Nat) (end_ : Nat) (x : W32) (r : FoldEnt) (s : State), e < 16 ∧ s.running = true ∧ s.portUp e = true ∧ s.foldCur e p = some r ∧ (s.fpart e p).started = true ∧ feTensor r = x.toNat) ∧
    (∃ (e : Nat) (p : Nat) (end_ : Nat) (x : W32) (r : FoldEnt) (s : State), s.foldCur e p = some r ∧ ((s.fpart e p).started = false ∨ feTensor r ≠ x.toNat)) ∧
    (∃ (e : Nat) (p : Nat) (r : FoldEnt) (s : State), e < 16 ∧ s.running = true ∧ s.foldCur e p = some r ∧ (s.fpart e p).started = true ∧ (s.fpart e p).failed = false ∧ s.foldOver e p r = true) ∧
    (∃ (e : Nat) (p : Nat) (r : FoldEnt) (s : State), e < 16 ∧ s.running = true ∧ s.foldCur e p = some r ∧ (s.fpart e p).started = true ∧ (s.fpart e p).failed = false ∧ s.foldOver e p r = false) ∧
    (∃ (e : Nat) (p : Nat) (r : FoldEnt) (s : State), (feOp r = 1 ∨ feOp r = 3) ∧ (feParent r).isSome = true ∧ s.foldUnacked e p ≠ 0) :=
  ⟨⟨0, 0, wFe 1 2 0xFFFF 9 [bfld 1 1 1, bfld 24 2 0x8000, bfld 26 2 1], wFold (wFe 1 2 0xFFFF 9 [bfld 1 1 1, bfld 24 2 0x8000, bfld 26 2 1]), by decide +kernel⟩,
   ⟨0, 0, wFe 1 2 0xFFFF 9 [bfld 1 1 1], (wFold (wFe 1 2 0xFFFF 9 [bfld 1 1 1])).modCtx 0 (fun c => { c with variants := [(13, 2)] }), by decide +kernel⟩,
   ⟨0, 0, wFe 1 2 0xFFFF 9 [bfld 1 1 1], wFold (wFe 1 2 0xFFFF 9 [bfld 1 1 1]), by decide +kernel⟩,
   ⟨0, 0, wFe 1 2 0xFFFF 9 [bfld 1 1 1], { wFold (wFe 1 2 0xFFFF 9 [bfld 1 1 1]) with ports := [] }, by decide +kernel⟩,
   ⟨0, 0, wJob, by decide +kernel⟩,
   ⟨0, wFm 9 { wBlk with step := 1 }, wFold (wFe 1 2 0xFFFF 9 [bfld 1 1 1]), by decide +kernel⟩,
   ⟨0, wFm 7 wBlk, wFe 1 2 7 0xFFFF [bfld 1 1 1], (1, 7), wFpart (wFe 1 2 7 0xFFFF [bfld 1 1 1]) { FoldPart.zero with held := [⟨5, 1, wBlk⟩] }, by decide +kernel⟩,
   ⟨0, wFm 7 { wBlk with width := 6 }, wFe 1 2 7 0xFFFF [bfld 1 1 1], (1, 7), wFold (wFe 1 2 7 0xFFFF [bfld 1 1 1]), by decide +kernel⟩,
   ⟨0, wFm 7 wBlk, wFe 1 2 7 0xFFFF [bfld 1 1 1], (1, 7), wFold (wFe 1 2 7 0xFFFF [bfld 1 1 1]), by decide +kernel⟩,
   ⟨0, wFm 7 wBlk, wFe 1 2 7 0xFFFF [bfld 1 1 1], (1, 7), wFpart (wFe 1 2 7 0xFFFF [bfld 1 1 1]) { FoldPart.zero with held := List.replicate 4096 ⟨6, 1, wBlk⟩ }, by decide +kernel⟩,
   ⟨0, wFm 9 wBlk, wFe 2 2 7 9 [bfld 1 1 1], wFold (wFe 2 2 7 9 [bfld 1 1 1]), by decide +kernel⟩,
   ⟨0, wFm 9 { wBlk with residue := 1 }, wFe 2 2 7 9 [bfld 1 1 1], wFpart (wFe 2 2 7 9 [bfld 1 1 1]) { FoldPart.zero with started := true }, by decide +kernel⟩,
   ⟨0, wFm 9 wBlk, wFe 2 2 7 9 [bfld 1 1 1], wFpart (wFe 2 2 7 9 [bfld 1 1 1]) { FoldPart.zero with started := true }, ((((wFpart (wFe 2 2 7 9 [bfld 1 1 1]) { FoldPart.zero with started := true }).bump (pgFOLD 0) 0x040 1).foldResult 0 0 (wFe 2 2 7 9 [bfld 1 1 1]) 0 wBlk).2), by decide +kernel⟩,
   ⟨0, 0, 0, wFe 2 2 7 9 [bfld 1 1 1], wBlk, (((wFpart (wFe 2 2 7 9 [bfld 1 1 1]) { FoldPart.zero with started := true }).foldResult 0 0 (wFe 2 2 7 9 [bfld 1 1 1]) 0 wBlk).2), wFpart (wFe 2 2 7 9 [bfld 1 1 1]) { FoldPart.zero with started := true }, by decide +kernel⟩,
   ⟨0, wFm 9 { wBlk with width := 7 }, 0, wFe 4 1 0xFFFF 9 [], (wFold (wFe 4 1 0xFFFF 9 [])).modCtx 0 (fun c => { c with lastCommit := some 0 }), by decide +kernel⟩,
   ⟨0, wFm 9 { wBlk with width := 4 }, 0, wFe 4 1 0xFFFF 9 [], (wFold (wFe 4 1 0xFFFF 9 [])).modCtx 0 (fun c => { c with lastCommit := some 0 }), by decide +kernel⟩,
   ⟨0, wFm 9 wBlk, wFold (wFe 4 1 0xFFFF 9 []), by decide +kernel⟩,
   ⟨0, 0, 80, 5, wFe 1 2 0xFFFF 9 [bfld 1 1 1], wFpart (wFe 1 2 0xFFFF 9 [bfld 1 1 1]) { FoldPart.zero with started := true }, by decide +kernel⟩,
   ⟨0, 0, 80, 5, wFe 1 2 0xFFFF 9 [bfld 1 1 1], wFold (wFe 1 2 0xFFFF 9 [bfld 1 1 1]), by decide +kernel⟩,
   ⟨0, 0, wFe 1 2 0xFFFF 0xFFFF [bfld 1 1 1], wFpart (wFe 1 2 0xFFFF 0xFFFF [bfld 1 1 1]) { FoldPart.zero with started := true, written := 2 }, by decide +kernel⟩,
   ⟨0, 0, wFe 1 2 0xFFFF 0xFFFF [bfld 1 1 1], wFpart (wFe 1 2 0xFFFF 0xFFFF [bfld 1 1 1]) { FoldPart.zero with started := true, written := 1 }, by decide +kernel⟩,
   ⟨0, 0, wFe 1 2 0xFFFF 9 [bfld 1 1 1], { wFpart (wFe 1 2 0xFFFF 9 [bfld 1 1 1]) { FoldPart.zero with started := true } with ports := [(0, { wPort with replay := [⟨0, some (.fold 0 9 1 (wFm 9 wBlk)), 0⟩] })] }, by decide +kernel⟩⟩

theorem witness_FoldAdderSums :
    ∃ (w : Nat) (a : FoldBlk) (b : FoldBlk), (w = 24 ∨ w = 40) ∧ a.elems.length = 64 ∧ b.elems.length = 64 :=
  ⟨24, wBlk, { wBlk with elems := List.replicate 64 3 }, by decide +kernel⟩

theorem witness_PartitionsLiveAndDie :
    (∃ (p : Nat) (s : State), s.running = true ∧ p < 32 ∧ (s.part p).state = .free ∧ s.sage.oos = false ∧ s.createErr p = none) ∧
    (∃ (p : Nat) (s : State) (e : _), s.running = true ∧ p < 32 ∧ (s.part p).state = .free ∧ s.sage.oos = false ∧ s.createErr p = some e) ∧
    (∃ (p : Nat) (s : State), s.running = true ∧ p < 32 ∧ ((s.part p).state = .tearingDown ∨ (s.part p).state = .scrubbing)) ∧
    (∃ (p : Nat) (s : State), s.running = true ∧ p < 32 ∧ ((s.part p).state = .active ∨ (s.part p).state = .quarantined)) ∧
    (∃ (s : State), s.power.idle = true) ∧
    (∃ (s : State), s.power.idle = false) ∧
    (∃ (p : Nat) (s : State), s.up = true ∧ s.sage.fatal = none ∧ (s.part p).rst = 0 ∧ (s.part p).tdStep = 1) ∧
    (∃ (p : Nat) (s : State), s.up = true ∧ s.sage.fatal = none ∧ (s.part p).rst = 0 ∧ (s.part p).tdStep = 3 ∧ s.partInflight p = 0) ∧
    (∃ (p : Nat) (s : State), s.up = true ∧ s.sage.fatal = none ∧ (s.part p).rst = 0 ∧ (s.part p).tdStep = 3 ∧ s.partInflight p ≠ 0) ∧
    (∃ (p : Nat) (s : State), s.up = true ∧ s.sage.fatal = none ∧ (s.part p).tdStep = 4) ∧
    (∃ (p : Nat) (s : State), s.running = true ∧ (s.part p).state = .quarantined) :=
  ⟨⟨1, wNew, by decide +kernel⟩,
   ⟨1, wJob, 1, by decide +kernel⟩,
   ⟨0, (withPart 0 (fun x => { x with state := .scrubbing }) wJob), by decide +kernel⟩,
   ⟨0, wJob, by decide +kernel⟩,
   ⟨{ wUp with power := { wUp.power with idle := true } }, by decide +kernel⟩,
   ⟨wUp, by decide +kernel⟩,
   ⟨0, (withPart 0 (fun x => { x with state := .tearingDown, tdStep := 1 }) wJob), by decide +kernel⟩,
   ⟨0, (withPart 0 (fun x => { x with state := .tearingDown, tdStep := 3 }) wJob), by decide +kernel⟩,
   ⟨0, { (withPart 0 (fun x => { x with state := .tearingDown, tdStep := 3 }) wJob)with movers := [(0, { MoverSt.zero with descs := [wDesc (wMv 1 []) .accepted] })] }, by decide +kernel⟩,
   ⟨0, (withPart 0 (fun x => { x with state := .scrubbing, tdStep := 4 }) wJob), by decide +kernel⟩,
   ⟨0, (withPart 0 (fun x => { x with state := .quarantined }) wJob), by decide +kernel⟩⟩

theorem witness_PagesAreMapped :
    (∃ (p : Nat) (op : Nat) (c : Instr) (s : State), (op, c) ∈ [(0, Instr.map p), (1, .unmap p), (2, .protect p)] ∧ s.running = true ∧ p < 32 ∧ ((s.mapReq p).op = op ∨ (op = 2 ∧ 2 ≤ (s.mapReq p).op)) ∧ (s.part p).mapBusy = false ∧ (s.part p).state = .active ∧ s.sage.stewardRst = false ∧ (s.mapReq p).inRange = false) ∧
    (∃ (p : Nat) (op : Nat) (c : Instr) (s : State), (op, c) ∈ [(0, Instr.map p), (1, .unmap p), (2, .protect p)] ∧ s.running = true ∧ p < 32 ∧ ((s.mapReq p).op = op ∨ (op = 2 ∧ 2 ≤ (s.mapReq p).op)) ∧ (s.part p).mapBusy = false ∧ (s.part p).state = .active ∧ s.sage.stewardRst = false ∧ (s.mapReq p).inRange = true ∧ op = 0 ∧ (s.part p).leaves.any (s.mapReq p).overlaps = true) ∧
    (∃ (p : Nat) (op : Nat) (c : Instr) (s : State), (op, c) ∈ [(0, Instr.map p), (1, .unmap p), (2, .protect p)] ∧ s.running = true ∧ p < 32 ∧ ((s.mapReq p).op = op ∨ (op = 2 ∧ 2 ≤ (s.mapReq p).op)) ∧ (s.part p).mapBusy = false ∧ (s.part p).state = .active ∧ s.sage.stewardRst = false ∧ (s.mapReq p).inRange = true ∧ (op = 1 ∨ op = 2) ∧ (s.mapReq p).covered (s.part p).leaves = false) ∧
    (∃ (p : Nat) (op : Nat) (c : Instr) (s : State), (op, c) ∈ [(0, Instr.map p), (1, .unmap p), (2, .protect p)] ∧ s.running = true ∧ p < 32 ∧ ((s.mapReq p).op = op ∨ (op = 2 ∧ 2 ≤ (s.mapReq p).op)) ∧ (s.part p).mapBusy = false ∧ (s.part p).state = .active ∧ s.sage.stewardRst = false ∧ (s.mapReq p).inRange = true ∧ op = 1 ∧ (s.mapReq p).covered (s.part p).leaves = true) ∧
    (∃ (p : Nat) (op : Nat) (c : Instr) (s : State), (op, c) ∈ [(0, Instr.map p), (1, .unmap p), (2, .protect p)] ∧ s.running = true ∧ p < 32 ∧ ((s.mapReq p).op = op ∨ (op = 2 ∧ 2 ≤ (s.mapReq p).op)) ∧ (s.part p).mapBusy = false ∧ (s.part p).state = .active ∧ s.sage.stewardRst = false ∧ (s.mapReq p).inRange = true ∧ op = 2 ∧ (s.mapReq p).covered (s.part p).leaves = true) ∧
    (∃ (p : Nat) (b : Backed) (s : State), s.running = true ∧ p < 32 ∧ (s.mapReq p).op = 0 ∧ (s.part p).mapBusy = false ∧ (s.part p).state = .active ∧ s.sage.stewardRst = false ∧ (s.mapReq p).inRange = true ∧ (s.part p).leaves.any (s.mapReq p).overlaps = false ∧ (s.mapReq p).target < 4 ∧ s.backAll p (s.mapReq p) (s.mapReq p).count ⟨[], []⟩ = some b ∧ (s.part p).use (s.mapReq p).target + b.fresh.length ≤ s.quota p (s.mapReq p).target) ∧
    (∃ (p : Nat) (b : Backed) (s : State), s.running = true ∧ p < 32 ∧ (s.mapReq p).op = 0 ∧ (s.part p).mapBusy = false ∧ (s.part p).state = .active ∧ s.sage.stewardRst = false ∧ (s.mapReq p).inRange = true ∧ (s.part p).leaves.any (s.mapReq p).overlaps = false ∧ (s.mapReq p).target < 4 ∧ s.backAll p (s.mapReq p) (s.mapReq p).count ⟨[], []⟩ = some b ∧ s.quota p (s.mapReq p).target < (s.part p).use (s.mapReq p).target + b.fresh.length) ∧
    (∃ (p : Nat) (s : State), s.running = true ∧ p < 32 ∧ (s.mapReq p).op = 0 ∧ (s.part p).mapBusy = false ∧ (s.part p).state = .active ∧ s.sage.stewardRst = false ∧ (s.mapReq p).inRange = true ∧ (s.part p).leaves.any (s.mapReq p).overlaps = false ∧ (s.mapReq p).target = 4) ∧
    (∃ (p : Nat) (s : State), s.running = true ∧ p < 32 ∧ (s.mapReq p).op = 0 ∧ (s.part p).mapBusy = false ∧ (s.part p).state = .active ∧ s.sage.stewardRst = false ∧ (s.mapReq p).inRange = true ∧ (s.part p).leaves.any (s.mapReq p).overlaps = false ∧ (s.mapReq p).target ≠ 4 ∧ s.backAll p (s.mapReq p) (s.mapReq p).count ⟨[], []⟩ = none) ∧
    (∃ (p : Nat) (op : Nat) (c : Instr) (s : State), (op, c) ∈ [(0, Instr.map p), (1, .unmap p), (2, .protect p)] ∧ (s.part p).mapBusy = true) ∧
    (∃ (p : Nat) (op : Nat) (c : Instr) (s : State), (op, c) ∈ [(0, Instr.map p), (1, .unmap p), (2, .protect p)] ∧ s.running = true ∧ p < 32 ∧ (s.mapReq p).op = op ∧ (s.part p).mapBusy = false ∧ ((s.part p).state = .tearingDown ∨ (s.part p).state = .scrubbing)) ∧
    (∃ (p : Nat) (op : Nat) (c : Instr) (s : State), (op, c) ∈ [(0, Instr.map p), (1, .unmap p), (2, .protect p)] ∧ s.running = true ∧ p < 32 ∧ (s.mapReq p).op = op ∧ (s.part p).mapBusy = false ∧ ((s.part p).state = .free ∨ (s.part p).state = .quarantined) ∧ s.sage.stewardRst = false) ∧
    (∃ (p : Nat) (op : Nat) (c : Instr) (s : State), (op, c) ∈ [(0, Instr.map p), (1, .unmap p), (2, .protect p)] ∧ s.running = true ∧ p < 32 ∧ (s.mapReq p).op = op ∧ (s.part p).mapBusy = false ∧ (s.part p).state = .active ∧ s.sage.stewardRst = true) ∧
    (∃ (p : Nat) (s : State), s.running = true ∧ s.sage.stewardRst = false ∧ (s.part p).mapBusy = true ∧ (s.part p).mapPend = false) ∧
    (∃ (p : Nat) (s : State), s.running = true ∧ s.sage.stewardRst = false ∧ (s.part p).mapBusy = true ∧ (s.part p).mapPend = true) ∧
    (∃ (k : Nat) (p : Nat) (ctx : Nat) (va : Nat) (wr : Bool) (s : State), s.running = true ∧ k < 8 ∧ p < 32 ∧ s.leafAt p ctx va = none ∧ (s.xlat k).hits p ctx va = false) ∧
    (∃ (k : Nat) (p : Nat) (ctx : Nat) (va : Nat) (wr : Bool) (l : Leaf) (s : State), s.running = true ∧ k < 8 ∧ p < 32 ∧ s.leafAt p ctx va = some l ∧ (s.xlat k).hits p ctx va = false ∧ (l.log2 = 16 ∨ l.log2 = 21 ∨ l.log2 = 30) ∧ (wr = false ∨ l.w = true)) ∧
    (∃ (k : Nat) (p : Nat) (ctx : Nat) (va : Nat) (wr : Bool) (l : Leaf) (s : State), s.running = true ∧ k < 8 ∧ p < 32 ∧ s.leafAt p ctx va = some l ∧ (s.xlat k).hits p ctx va = false ∧ (l.log2 = 16 ∨ l.log2 = 21 ∨ l.log2 = 30) ∧ wr = true ∧ l.w = false) ∧
    (∃ (k : Nat) (p : Nat) (ctx : Nat) (va : Nat) (wr : Bool) (l : Leaf) (s : State), s.running = true ∧ k < 8 ∧ p < 32 ∧ s.leafAt p ctx va = some l ∧ (wr = false ∨ l.w = true) ∧ (s.xlat k).hits p ctx va = true) ∧
    (∃ (k : Nat) (v : W64) (s : State), s.up = true ∧ k < 8) :=
  ⟨⟨0, 0, .map 0, wReq 0 0 3 (wJob), by decide +kernel⟩,
   ⟨0, 0, .map 0, wReq 0 0 1 (wJob), by decide +kernel⟩,
   ⟨0, 2, .protect 0, wReq 2 2097152 1 (wJob), by decide +kernel⟩,
   ⟨0, 1, .unmap 0, wReq 1 0 1 (wJob), by decide +kernel⟩,
   ⟨0, 2, .protect 0, wReq 2 0 1 (wJob), by decide +kernel⟩,
   ⟨0, (((wReq 0 0x200000 1 wJob).backAll 0 ((wReq 0 0x200000 1 wJob).mapReq 0) 1 ⟨[], []⟩).getD ⟨[], []⟩), wReq 0 2097152 1 (wJob), by decide +kernel⟩,
   ⟨0, (((((wReq 0 0x200000 1 wJob).setRg (pk tPART 0) 0x220 0)).backAll 0 ((((wReq 0 0x200000 1 wJob).setRg (pk tPART 0) 0x220 0)).mapReq 0) 1 ⟨[], []⟩).getD ⟨[], []⟩), ((wReq 0 0x200000 1 wJob).setRg (pk tPART 0) 0x220 0), by decide +kernel⟩,
   ⟨0, wReq 0 9007199256838144 1 (wJob), by decide +kernel⟩,
   ⟨0, { wReq 0 1073741824 2 (wJob) with backing := [(1, ⟨some 5, none, 0⟩), (17, ⟨some 5, none, 0⟩), (33, ⟨some 5, none, 0⟩)] }, by decide +kernel⟩,
   ⟨0, 0, .map 0, (withPart 0 (fun x => { x with mapBusy := true }) wJob), by decide +kernel⟩,
   ⟨0, 0, .map 0, wReq 0 0 1 ((withPart 0 (fun x => { x with state := .tearingDown }) wJob)), by decide +kernel⟩,
   ⟨0, 0, .map 0, wReq 0 0 1 ((withPart 0 (fun x => { x with state := .quarantined }) wJob)), by decide +kernel⟩,
   ⟨0, 0, .map 0, wReq 0 0 1 ({ wJob with sage := { wJob.sage with stewardRst := true } }), by decide +kernel⟩,
   ⟨0, (withPart 0 (fun x => { x with mapBusy := true }) wJob), by decide +kernel⟩,
   ⟨0, (withPart 0 (fun x => { x with mapBusy := true, mapPend := true }) wJob), by decide +kernel⟩,
   ⟨0, 0, 0, 0x400000, false, wJob, by decide +kernel⟩,
   ⟨0, 0, 0, 8, false, ⟨0, 0, 21, 0, 0, 0, true, false⟩, wJob, by decide +kernel⟩,
   ⟨0, 0, 0, 8, true, ⟨0, 0, 21, 0, 0, 0, false, false⟩, (withPart 0 (fun x => { x with leaves := [⟨0, 0, 21, 0, 0, 0, false, false⟩] }) wJob), by decide +kernel⟩,
   ⟨0, 0, 0, 8, true, ⟨0, 0, 21, 0, 0, 0, true, false⟩, { wJob with xlats := [(0, ⟨[⟨0, 0, 0, 21, some ⟨0, 0, 21, 0, 0, 0, true, false⟩⟩], 0⟩)] }, by decide +kernel⟩,
   ⟨0, 1, wJob, by decide +kernel⟩⟩

theorem witness_BootChain :
    (∃ (sel : BitVec 2) (i : FwImage) (c : Nat) (s : State), s.boot.on = true ∧ s.boot.perst = true ∧ sel.toNat < 2 ∧ s.boot.flash = some i ∧ s.checkImage i = some c) ∧
    (∃ (sel : BitVec 2) (s : State), s.boot.on = true ∧ s.boot.perst = true ∧ sel.toNat < 2 ∧ s.boot.flash = none) ∧
    (∃ (sel : BitVec 2) (s : State), s.boot.on = true ∧ s.boot.perst = true ∧ 2 ≤ sel.toNat) ∧
    (∃ (s : State), s.up = true ∧ s.boot.code = 3 ∧ s.boot.tiersDone = true ∧ s.sage.fatal = none) ∧
    (∃ (s : State), s.boot.tiersDone = false) ∧
    (∃ (i : FwImage) (s : State) (c : _), s.mbxFree = true ∧ s.boot.code = 0x10 ∧ s.checkImage i = some c) ∧
    (∃ (i : FwImage) (s : State) (c : _) (f : Bool), s.mbxFree = true ∧ s.boot.code = 0x10 ∧ s.checkImage i = some c) ∧
    (∃ (f : Bool) (s : State), s.mbxFree = true ∧ s.boot.code = 0x10) ∧
    (∃ (i : Option FwImage) (f : Bool) (s : State), s.mbxFree = true ∧ s.boot.code ≠ 0x10) ∧
    (∃ (i : Option FwImage) (f : Bool) (s : State), s.mbxFree = false) ∧
    (∃ (i : FwImage) (s : State) (c : _) (f : Bool), s.mbxFree = true ∧ s.boot.code = 4 ∧ s.checkImage i = some c) ∧
    (∃ (f : Bool) (s : State), s.mbxFree = true ∧ s.boot.code = 4) ∧
    (∃ (i : Option FwImage) (f : Bool) (s : State), s.mbxFree = true ∧ s.boot.code ≠ 4) ∧
    (∃ (s : State), s.up = true ∧ s.pcie.mbxBusy = true) ∧
    (∃ (v : W64) (s : State), s.up = true ∧ bitOf v 0 = true ∧ s.sec.aliasReady = true) ∧
    (∃ (s : State), s.boot.on = true ∧ s.boot.perst = false) :=
  ⟨⟨0, wImg, 0x81, wFlash, by decide +kernel⟩,
   ⟨0, State.reset, by decide +kernel⟩,
   ⟨2, wFlash, by decide +kernel⟩,
   ⟨wBoot 3, by decide +kernel⟩,
   ⟨wUp, by decide +kernel⟩,
   ⟨wImg, wBoot 0x10, 0x81, by decide +kernel⟩,
   ⟨wImg, wBoot 0x10, 0x81, true, by decide +kernel⟩,
   ⟨true, wBoot 0x10, by decide +kernel⟩,
   ⟨none, true, wBoot 3, by decide +kernel⟩,
   ⟨none, true, (wPci (fun x => { x with mbxBusy := true }) wUp), by decide +kernel⟩,
   ⟨wImg, wBoot 4, 0x81, true, by decide +kernel⟩,
   ⟨true, wBoot 4, by decide +kernel⟩,
   ⟨none, true, wBoot 3, by decide +kernel⟩,
   ⟨(wPci (fun x => { x with mbxBusy := true }) wUp), by decide +kernel⟩,
   ⟨1, withSec (fun x => { x with aliasReady := true, imageSvn := 3, imageSlot := 2 }) wUp, by decide +kernel⟩,
   ⟨wUp, by decide +kernel⟩⟩

theorem witness_SecurityRequests :
    (∃ (s : State), s.spdmOn = true) ∧
    (∃ (s : State), s.spdmOn = true ∧ s.sec.versionDone = true) ∧
    (∃ (s : State), s.spdmOn = true ∧ s.sec.versionDone = true ∧ s.sec.capsDone = true) ∧
    (∃ (c : Instr) (off : Nat) (len : Nat) (nonce : Bytes) (s : State), s.spdmOn = true ∧ off + len ≤ 65535 ∧ nonce.length ≤ 64 ∧ (c = .getDigests ∨ c = .getCertificate 0 off len ∨ c = .challenge nonce ∨ c = .getMeasurements 0 ∨ c = .getMeasurements 0xFF) ∧ s.sec.agreed = true) ∧
    (∃ (c : Instr) (off : Nat) (len : Nat) (nonce : Bytes) (s : State), s.spdmOn = true ∧ off + len ≤ 65535 ∧ nonce.length ≤ 64 ∧ (c = .getDigests ∨ c = .getCertificate 0 off len ∨ c = .challenge nonce ∨ c = .getMeasurements 0 ∨ c = .getMeasurements 0xFF) ∧ s.sec.agreed = false) ∧
    (∃ (x : Nat) (m : Bytes) (s : State), s.spdmOn = true ∧ s.sec.agreed = true ∧ x ≠ 0 ∧ x ≠ 0xFF ∧ s.measured x = some m) ∧
    (∃ (d : Bytes) (s : State), s.spdmOn = true ∧ s.sec.agreed = true ∧ d.length ≤ 4096 ∧ s.sec.sessions.length < 4) ∧
    (∃ (d : Bytes) (s : State), s.spdmOn = true ∧ s.sec.agreed = true ∧ d.length ≤ 4096 ∧ 4 ≤ s.sec.sessions.length) ∧
    (∃ (x : Nat) (s : State), s.spdmOn = true ∧ (x, false) ∈ s.sec.sessions) ∧
    (∃ (x : Nat) (s : State), s.spdmOn = true ∧ s.sec.open x = true) ∧
    (∃ (x : Nat) (s : State) (key : BitVec 256), s.spdmOn = true ∧ s.sec.open x = true) ∧
    (∃ (x : Nat) (s : State) (p : Nat) (key : BitVec 256), s.spdmOn = true ∧ s.sec.open x = true ∧ p < 32 ∧ (s.part p).state = .active ∧ (s.ctx p).bound = false) ∧
    (∃ (x : Nat) (s : State) (p : Nat) (key : BitVec 256), s.spdmOn = true ∧ s.sec.open x = true ∧ p < 32 ∧ ((s.ctx p).bound = true ∨ (s.part p).state = .tearingDown ∨ (s.part p).state = .scrubbing)) ∧
    (∃ (x : Nat) (s : State) (key : Bytes), s.spdmOn = true ∧ s.sec.open x = true ∧ key.length = 57) ∧
    (∃ (x : Nat) (s : State) (n : Nat) (key : BitVec 256), s.spdmOn = true ∧ s.sec.open x = true ∧ n ≤ 32) ∧
    (∃ (x : Nat) (o : Option Nat) (key : BitVec 256) (s : State), s.spdmOn = true ∧ s.sec.open x = false) ∧
    (∃ (p : Nat) (s : State), s.spdmOn = true ∧ p < 32 ∧ bitOf s.pcie.vfEn p = true ∧ (s.part p).tdi = .unlocked) ∧
    (∃ (p : Nat) (s : State), s.spdmOn = true ∧ p < 32 ∧ bitOf s.pcie.vfEn p = true ∧ (s.part p).tdi = .locked) ∧
    (∃ (p : Nat) (s : State), s.spdmOn = true ∧ p < 32 ∧ bitOf s.pcie.vfEn p = true ∧ (s.part p).tdi ≠ .locked) ∧
    (∃ (p : Nat) (s : State), s.spdmOn = true ∧ p < 32 ∧ bitOf s.pcie.vfEn p = true ∧ (s.part p).tdi ≠ .unlocked) ∧
    (∃ (p : Nat) (s : State), s.spdmOn = true ∧ p < 32 ∧ bitOf s.pcie.vfEn p = true) ∧
    (∃ (p : Nat) (s : State), s.running = true ∧ p < 32 ∧ bitOf (s.rg (pgVS p) 0x348) 0 = true) ∧
    (∃ (p : Nat) (s : State), s.up = true ∧ p < 32 ∧ bitOf (s.rg (pgVS p) 0x348) 0 = false) ∧
    (∃ (c : Instr) (x : Nat) (off : Nat) (len : Nat) (p : Nat) (b : Bytes) (v : Bool) (key : BitVec 256) (o : Option Nat) (s : State), s.spdmOn = false ∧ c ∈ [.getVersion, .getCapabilities, .negotiateAlgorithms, .getDigests, .getCertificate x off len, .challenge b, .getMeasurements x, .keyExchange b, .finish x v, .keyUpdate x, .endSession x, .keySet x o key, .dbgKeySet x b, .ideKm x off key, .lockInterface p, .startInterface p, .stopInterface p]) :=
  ⟨⟨wSpdm [], by decide +kernel⟩,
   ⟨wSpdm [], by decide +kernel⟩,
   ⟨wSpdm [], by decide +kernel⟩,
   ⟨(.getDigests), 0, 5, [], wSpdm [], by decide +kernel⟩,
   ⟨(.getDigests), 0, 5, [], withSec (fun x => { x with algsDone := false }) (wSpdm []), by decide +kernel⟩,
   ⟨2, [1], wSpdm [], by decide +kernel⟩,
   ⟨[1], wSpdm [], by decide +kernel⟩,
   ⟨[1], wSpdm [(0, true), (1, true), (2, true), (3, true)], by decide +kernel⟩,
   ⟨0, wSpdm [(0, false)], by decide +kernel⟩,
   ⟨0, wSpdm [(0, true)], by decide +kernel⟩,
   ⟨0, wSpdm [(0, true)], 5, by decide +kernel⟩,
   ⟨0, withPart 1 (fun q => { q with state := .active }) (wSpdm [(0, true)]), 1, 5, by decide +kernel⟩,
   ⟨0, wSpdm [(0, true)], 0, 5, by decide +kernel⟩,
   ⟨0, wSpdm [(0, true)], (List.replicate 57 0 : Bytes), by decide +kernel⟩,
   ⟨0, wSpdm [(0, true)], 32, 5, by decide +kernel⟩,
   ⟨0, none, 5, wSpdm [], by decide +kernel⟩,
   ⟨0, wSpdm [], by decide +kernel⟩,
   ⟨0, (withPart 0 (fun x => { x with tdi := .locked }) (wSpdm [])), by decide +kernel⟩,
   ⟨0, wSpdm [], by decide +kernel⟩,
   ⟨0, (withPart 0 (fun x => { x with tdi := .run }) (wSpdm [])), by decide +kernel⟩,
   ⟨0, wSpdm [], by decide +kernel⟩,
   ⟨0, wJob.setRg (pgVS 0) 0x348 1, by decide +kernel⟩,
   ⟨0, wJob, by decide +kernel⟩,
   ⟨.getVersion, 0, 0, 0, 0, [], true, 0, none, (withSec (fun x => { x with aliasReady := false }) wJob), by decide +kernel⟩⟩

theorem witness_MeterCountsTaps :
    (∃ (m : Msg32) (rest : List TapMsg) (s : State), s.emit.tap = .token m :: rest ∧ s.fmuOn = true ∧ s.fmu.placeOf ((BitVec.ofNat 64 (byteFld m 24 8) : W64)) = .ahead) ∧
    (∃ (m : Msg32) (rest : List TapMsg) (s : State), s.emit.tap = .token m :: rest ∧ s.fmuOn = true ∧ s.fmu.placeOf ((BitVec.ofNat 64 (byteFld m 24 8) : W64)) ≠ .ahead ∧ s.fmu.meteredAt (byteFld m 10 1 % 32) ((BitVec.ofNat 32 (byteFld m 0 4) : W32)) ((BitVec.ofNat 64 (byteFld m 24 8) : W64)) = none) ∧
    (∃ (m : Msg32) (rest : List TapMsg) (s : State), s.emit.tap = .token m :: rest ∧ s.fmuOn = true ∧ s.fmu.placeOf ((BitVec.ofNat 64 (byteFld m 24 8) : W64)) = .current ∧ (s.fmu.meteredAt (byteFld m 10 1 % 32) ((BitVec.ofNat 32 (byteFld m 0 4) : W32)) ((BitVec.ofNat 64 (byteFld m 24 8) : W64))).isSome = true) ∧
    (∃ (m : Msg32) (rest : List TapMsg) (s : State) (w : _), s.emit.tap = .token m :: rest ∧ s.fmuOn = true ∧ s.fmu.placeOf ((BitVec.ofNat 64 (byteFld m 24 8) : W64)) = .late w ∧ (s.fmu.meteredAt (byteFld m 10 1 % 32) ((BitVec.ofNat 32 (byteFld m 0 4) : W32)) ((BitVec.ofNat 64 (byteFld m 24 8) : W64))).isSome = true) ∧
    (∃ (s : State), (s.fmuOn = false ∨ (s.emit.tap = [] ∧ s.fmu.doorTap = [] ∧ s.fmu.fetchTap = []))) ∧
    (∃ (s : State), s.fmuOn = false) ∧
    (∃ (m : Msg32) (rest : List TapMsg) (s : State), s.emit.tap = .edge m :: rest ∧ s.fmuOn = true ∧ s.fmu.placeOf (BitVec.ofNat 64 (byteFld m 24 8)) = .current ∧ s.fmu.streams.Pairwise (fun a b => a.part ≠ b.part ∨ a.stream ≠ b.stream)) ∧
    (∃ (d : Door) (r : List Door) (s : State), s.fmuOn = true ∧ s.fmu.doorTap = d :: r) ∧
    (∃ (x : FetchTap) (r : List FetchTap) (s : State), s.fmuOn = true ∧ s.fmu.fetchTap = x :: r) ∧
    (∃ (s : State), s.fmuOn = true ∧ s.fmu.winEnd ≤ s.fmu.tapNow.toNat) ∧
    (∃ (s : State), s.fmu.tapNow.toNat < s.fmu.winEnd) ∧
    (∃ (s : State), s.fmuOn = true ∧ s.fmu.tapSeen = false) ∧
    (∃ (s : State), s.fmuOn = true ∧ s.fmu.tapSeen = true ∧ s.fmu.tapNow ≤ s.time.now ∧ s.time.now.toNat ≤ s.fmu.tapNow.toNat + 1000000) ∧
    (∃ (s : State), s.fmuOn = true ∧ s.fmu.tapSeen = true ∧ (s.time.now < s.fmu.tapNow ∨ s.fmu.tapNow.toNat + 1000000 < s.time.now.toNat)) ∧
    (∃ (s : State), s.fmuOn = true ∧ (50000 < (((s.fmu.tapNow.toNat : Int) - s.fmu.secNow.toNat - 1000000000 : Int)).natAbs ∨ s.fmu.stepped = true)) ∧
    (∃ (s : State), s.fmuOn = true ∧ (((s.fmu.tapNow.toNat : Int) - s.fmu.secNow.toNat - 1000000000 : Int)).natAbs ≤ 50000 ∧ s.fmu.stepped = false) :=
  ⟨⟨(wMsg [bfld 0 4 7, bfld 24 8 2000000000]), [], wTap (.token (wMsg [bfld 0 4 7, bfld 24 8 2000000000])) (wFmu (fun f => { f with streams := [wFs] }) wJob), by decide +kernel⟩,
   ⟨(wMsg [bfld 0 4 7, bfld 24 8 5]), [], wTap (.token (wMsg [bfld 0 4 7, bfld 24 8 5])) (wFmu (fun f => f) wJob), by decide +kernel⟩,
   ⟨(wMsg [bfld 0 4 7, bfld 24 8 5]), [], wTap (.token (wMsg [bfld 0 4 7, bfld 24 8 5])) (wFmu (fun f => { f with streams := [wFs] }) wJob), by decide +kernel⟩,
   ⟨(wMsg [bfld 0 4 7, bfld 24 8 5]), [], wTap (.token (wMsg [bfld 0 4 7, bfld 24 8 5])) (wFmu (fun f => { f with streams := [wFs], winStart := 1000000000 }) wJob), 0, by decide +kernel⟩,
   ⟨wJob, by decide +kernel⟩,
   ⟨(wFmu (fun f => { f with alive := false }) wJob), by decide +kernel⟩,
   ⟨(wMsg [bfld 4 4 7, bfld 8 2 1, bfld 24 8 5, bfld 1 1 1]), [], wTap (.edge (wMsg [bfld 4 4 7, bfld 8 2 1, bfld 24 8 5, bfld 1 1 1])) (wFmu (fun f => { f with streams := [wFs] }) wJob), by decide +kernel⟩,
   ⟨⟨.vf 0, 0, 0, 1, 5, 0⟩, [], wFmu (fun f => { f with doorTap := [⟨.vf 0, 0, 0, 1, 5, 0⟩] }) wJob, by decide +kernel⟩,
   ⟨(⟨.vf 0, 0, 0, 0, 7, 1, 5, 1, 0⟩ : FetchTap), [], wFmu (fun f => { f with fetchTap := [(⟨.vf 0, 0, 0, 0, 7, 1, 5, 1, 0⟩ : FetchTap)] }) wJob, by decide +kernel⟩,
   ⟨wFmu (fun f => { f with tapNow := 1000000000 }) wJob, by decide +kernel⟩,
   ⟨wJob, by decide +kernel⟩,
   ⟨wJob, by decide +kernel⟩,
   ⟨wFmu (fun f => { f with tapSeen := true, tapNow := 999000 }) wJob, by decide +kernel⟩,
   ⟨wFmu (fun f => { f with tapSeen := true, tapNow := 1000001 }) wJob, by decide +kernel⟩,
   ⟨wJob, by decide +kernel⟩,
   ⟨wFmu (fun f => { f with tapNow := 1000000000 }) wJob, by decide +kernel⟩⟩

theorem witness_MeterRingsAndCommands :
    (∃ (x : Flit) (rest : List Flit) (s : State), s.fmuOn = true ∧ s.up = true ∧ s.fmu.buf = x :: rest ∧ s.fmu.ringSet = true ∧ s.fmu.ringFault = false ∧ s.fmu.stopped = false ∧ s.bme .pf = true ∧ ((s.fmu.ringTail + 1) % max 1 s.fmu.ringSize) ≠ s.fmu.ringHead ∧ s.writeFaults .pf false = false) ∧
    (∃ (x : Flit) (rest : List Flit) (s : State), s.fmuOn = true ∧ s.up = true ∧ s.fmu.buf = x :: rest ∧ s.fmu.ringSet = true ∧ s.fmu.ringFault = false ∧ s.fmu.stopped = false ∧ s.bme .pf = true ∧ ((s.fmu.ringTail + 1) % max 1 s.fmu.ringSize) ≠ s.fmu.ringHead ∧ s.atsOn .pf = true) ∧
    (∃ (x : Flit) (rest : List Flit) (s : State), s.fmuOn = true ∧ s.up = true ∧ s.fmu.buf = x :: rest ∧ s.fmu.ringSet = true ∧ s.fmu.ringFault = false ∧ s.fmu.stopped = false ∧ s.bme .pf = true ∧ ((s.fmu.ringTail + 1) % max 1 s.fmu.ringSize) = s.fmu.ringHead) ∧
    (∃ (p : Nat) (x : Flit) (rest : List Flit) (v : VfRing) (s : State), s.fmuOn = true ∧ s.up = true ∧ p < 32 ∧ Tbl.get VfRing.zero s.fmu.vf p = v ∧ v.copies = x :: rest ∧ v.configured = true ∧ s.fmu.stopped = false ∧ bitOf s.fmu.vfFault p = false ∧ s.bme (.vf p) = true ∧ ((v.tail + 1) % max 1 v.entries) ≠ v.head ∧ s.writeFaults (.vf p) false = false) ∧
    (∃ (p : Nat) (x : Flit) (rest : List Flit) (v : VfRing) (s : State), s.fmuOn = true ∧ s.up = true ∧ p < 32 ∧ Tbl.get VfRing.zero s.fmu.vf p = v ∧ v.copies = x :: rest ∧ v.configured = true ∧ s.fmu.stopped = false ∧ bitOf s.fmu.vfFault p = false ∧ s.bme (.vf p) = true ∧ ((v.tail + 1) % max 1 v.entries) = v.head) ∧
    (∃ (k : Nat) (c : Instr) (s : State), s.fmuOn = true ∧ s.up = true ∧ byteFld s.meterCmd 0 1 = k ∧ (k, c) ∈ [(1, Instr.setWindow), (2, .register), (3, .unregister), (4, .ringSet), (5, .ringAck), (6, .vfRingSet), (7, .setHold), (8, .note)] ∧ cmdZero s.meterCmd = false) ∧
    (∃ (k : Nat) (c : Instr) (s : State), s.fmuOn = true ∧ s.up = true ∧ byteFld s.meterCmd 0 1 = k ∧ (k, c) ∈ [(1, Instr.setWindow), (2, .register), (3, .unregister), (4, .ringSet), (5, .ringAck), (6, .vfRingSet), (7, .setHold), (8, .note)] ∧ cmdZero s.meterCmd = true) ∧
    (∃ (k : Nat) (c : Instr) (s : State), s.fmuOn = true ∧ s.up = true ∧ byteFld s.meterCmd 0 1 = k ∧ (k, c) ∈ [(1, Instr.setWindow), (2, .register), (3, .unregister), (4, .ringSet), (5, .ringAck), (6, .vfRingSet), (7, .setHold), (8, .note)] ∧ (k ≠ 5 ∨ cmdZero s.meterCmd = false)) ∧
    (∃ (s : State), s.fmuOn = true ∧ s.up = true ∧ cmdZero s.meterCmd = true ∧ byteFld s.meterCmd 0 1 = 1 ∧ 100 ≤ byteFld s.meterCmd 8 4 ∧ 3600000 % byteFld s.meterCmd 8 4 = 0) ∧
    (∃ (s : State), s.fmuOn = true ∧ s.up = true ∧ cmdZero s.meterCmd = true ∧ byteFld s.meterCmd 0 1 = 2 ∧ byteFld s.meterCmd 4 1 < 32 ∧ (s.fmu.streams.filter fun x => x.goneAt.isNone).length < 8192) ∧
    (∃ (s : State), s.fmuOn = true ∧ s.up = true ∧ cmdZero s.meterCmd = true ∧ byteFld s.meterCmd 0 1 = 2 ∧ byteFld s.meterCmd 4 1 < 32 ∧ 8192 ≤ (s.fmu.streams.filter fun x => x.goneAt.isNone).length ∧ (∀ x, x ∈ s.fmu.streams → x.part = byteFld s.meterCmd 4 1 → x.stream = BitVec.ofNat 32 (byteFld s.meterCmd 8 4) → x.goneAt.isSome = true)) ∧
    (∃ (s : State), s.fmuOn = true ∧ s.up = true ∧ cmdZero s.meterCmd = true ∧ byteFld s.meterCmd 0 1 = 3 ∧ byteFld s.meterCmd 4 1 < 32) ∧
    (∃ (s : State), s.fmuOn = true ∧ s.up = true ∧ cmdZero s.meterCmd = true ∧ byteFld s.meterCmd 0 1 = 4 ∧ ringOk s.meterCmd = true) ∧
    (∃ (s : State), s.fmuOn = true ∧ s.up = true ∧ cmdZero s.meterCmd = true ∧ byteFld s.meterCmd 0 1 = 5 ∧ s.fmu.ringSet = true ∧ byteFld s.meterCmd 8 4 < s.fmu.ringSize ∧ (byteFld s.meterCmd 8 4 + s.fmu.ringSize - s.fmu.ringHead) % s.fmu.ringSize ≤ (s.fmu.ringTail + s.fmu.ringSize - s.fmu.ringHead) % s.fmu.ringSize) ∧
    (∃ (s : State), s.fmuOn = true ∧ s.up = true ∧ cmdZero s.meterCmd = true ∧ byteFld s.meterCmd 0 1 = 6 ∧ byteFld s.meterCmd 4 1 < 32 ∧ byteFld s.meterCmd 16 4 ≠ 0 ∧ ringOk s.meterCmd = true ∧ byteFld s.meterCmd 32 8 % 8 = 0) ∧
    (∃ (s : State), s.fmuOn = true ∧ s.up = true ∧ cmdZero s.meterCmd = true ∧ byteFld s.meterCmd 0 1 = 6 ∧ byteFld s.meterCmd 4 1 < 32 ∧ byteFld s.meterCmd 16 4 = 0) ∧
    (∃ (s : State), s.fmuOn = true ∧ s.up = true ∧ cmdZero s.meterCmd = true ∧ byteFld s.meterCmd 0 1 = 7) ∧
    (∃ (s : State), s.fmuOn = true ∧ s.up = true ∧ cmdZero s.meterCmd = true ∧ byteFld s.meterCmd 0 1 = 8) ∧
    (∃ (c : Instr) (s : State), (s.fmuOn = false ∨ s.up = false) ∧ c ∈ [Instr.setWindow, .register, .unregister, .ringSet, .ringAck, .vfRingSet, .setHold, .note, .recordWrite false]) ∧
    (∃ (s : State), s.fmuOn = true ∧ s.fmu.sealBlown = false) ∧
    (∃ (s : State), (s.fmuOn = false ∨ s.fmu.sealBlown = true)) :=
  ⟨⟨5, [], wFmu (fun f => { f with buf := [5], ringSet := true, ringSize := 1024 }) wJob, by decide +kernel⟩,
   ⟨5, [], wPci (fun x => { x with ats := [(0, true)] }) (wFmu (fun f => { f with buf := [5], ringSet := true, ringSize := 1024 }) wJob), by decide +kernel⟩,
   ⟨5, [], wFmu (fun f => { f with buf := [5], ringSet := true, ringSize := 1024, ringHead := 1 }) wJob, by decide +kernel⟩,
   ⟨0, 5, [], { VfRing.zero with copies := [5], configured := true, entries := 1024 }, wFmu (fun f => { f with vf := [(0, { VfRing.zero with copies := [5], configured := true, entries := 1024 })] }) wJob, by decide +kernel⟩,
   ⟨0, 5, [], { VfRing.zero with copies := [5], configured := true, entries := 1024, head := 1 }, wFmu (fun f => { f with vf := [(0, { VfRing.zero with copies := [5], configured := true, entries := 1024, head := 1 })] }) wJob, by decide +kernel⟩,
   ⟨1, .setWindow, wMeter 1 [bfld 1 1 1], by decide +kernel⟩,
   ⟨1, .setWindow, wMeter 1 [], by decide +kernel⟩,
   ⟨1, .setWindow, wMeter 1 [], by decide +kernel⟩,
   ⟨wMeter 1 [bfld 8 4 100], by decide +kernel⟩,
   ⟨wMeter 2 [bfld 8 4 7], by decide +kernel⟩,
   ⟨wFmu (fun f => { f with streams := List.replicate 8192 wFs }) (wMeter 2 [bfld 8 4 9]), by decide +kernel, by decide +kernel, by decide +kernel, by decide +kernel, by decide +kernel, Nat.le_of_eq (by show 8192 = (List.filter _ (List.replicate 8192 wFs)).length; rw [List.filter_replicate_of_pos (by decide +kernel), List.length_replicate]), by intro x hx; rw [List.eq_of_mem_replicate (show x ∈ List.replicate 8192 wFs from hx)]; decide +kernel⟩,
   ⟨wMeter 3 [bfld 8 4 7], by decide +kernel⟩,
   ⟨wMeter 4 wRing, by decide +kernel⟩,
   ⟨wFmu (fun f => { f with ringSet := true, ringSize := 1024, ringTail := 9 }) (wMeter 5 [bfld 8 4 9]), by decide +kernel⟩,
   ⟨wMeter 6 wRing, by decide +kernel⟩,
   ⟨wMeter 6 [], by decide +kernel⟩,
   ⟨wMeter 7 [bfld 8 1 1], by decide +kernel⟩,
   ⟨wMeter 8 [], by decide +kernel⟩,
   ⟨.note, (wFmu (fun f => { f with alive := false }) wJob), by decide +kernel⟩,
   ⟨wJob, by decide +kernel⟩,
   ⟨(wFmu (fun f => { f with sealBlown := true }) wJob), by decide +kernel⟩⟩

theorem witness_ComputeResets :
    (∃ (v : W64) (s : State), s.up = true ∧ (s.part (bits v 4 0)).rst = 0 ∧ (s.part (bits v 4 0)).state = .active ∧ s.sage.devRst = 0 ∧ s.sage.oos = false ∧ s.sage.fatal = none) ∧
    (∃ (v : W64) (s : State), (s.up = false ∨ (s.part (bits v 4 0)).rst ≠ 0 ∨ (s.part (bits v 4 0)).state ≠ .active ∨ s.sage.devRst ≠ 0)) ∧
    (∃ (v : W64) (s : State), s.up = true ∧ bitOf v 0 = true ∧ s.sage.fatal = none ∧ s.sage.devRst = 0) ∧
    (∃ (v : W64) (s : State), s.up = true ∧ bitOf v 0 = true ∧ s.sage.fatal = none ∧ s.sage.devRst ≠ 0) ∧
    (∃ (p : Nat) (s : State), s.up = true ∧ s.sage.fatal = none ∧ (s.part p).rst = 1 ∧ s.sage.devRst ≠ 2 ∧ s.commitPending p = false ∧ s.genUnused p ((s.part p).gen + 1) = true) ∧
    (∃ (p : Nat) (s : State), s.up = true ∧ s.sage.fatal = none ∧ (s.part p).rst = 1 ∧ s.sage.devRst ≠ 2 ∧ (s.commitPending p = true ∨ s.genUnused p ((s.part p).gen + 1) = false)) ∧
    (∃ (p : Nat) (s : State), s.up = true ∧ s.sage.fatal = none ∧ (s.part p).rst = 2 ∧ s.sage.devRst ≠ 2 ∧ (s.part p).tdStep = 0) ∧
    (∃ (s : State), s.up = true ∧ s.sage.fatal = none ∧ s.sage.devRst = 1 ∧ (List.range 32).any s.commitPending = false ∧ (∀ p, p ∈ s.activeParts → s.genUnused p ((s.part p).gen + 1) = true)) ∧
    (∃ (s : State), (s.sage.devRst ≠ 1 ∨ (List.range 32).any s.commitPending = true)) ∧
    (∃ (s : State), s.up = true ∧ s.sage.fatal = none ∧ s.sage.devRst = 2) ∧
    (∃ (r : ResetRec) (rest : List ResetRec) (s : State), s.up = true ∧ s.sage.recs = r :: rest ∧ s.bme .pf = true ∧ (bits (s.rg pgSAGE 0x258) 7 0) ≠ 0 ∧ ((s.sage.recTail + 1) % max 1 (bits (s.rg pgSAGE 0x258) 7 0)) ≠ bits (s.rg pgSAGE 0x268) 7 0 ∧ s.writeFaults .pf false = false) ∧
    (∃ (r : ResetRec) (rest : List ResetRec) (s : State), s.up = true ∧ s.sage.recs = r :: rest ∧ s.bme .pf = true ∧ (bits (s.rg pgSAGE 0x258) 7 0) ≠ 0 ∧ ((s.sage.recTail + 1) % max 1 (bits (s.rg pgSAGE 0x258) 7 0)) ≠ bits (s.rg pgSAGE 0x268) 7 0 ∧ s.atsOn .pf = true) ∧
    (∃ (r : ResetRec) (rest : List ResetRec) (s : State), s.up = true ∧ s.sage.recs = r :: rest ∧ s.bme .pf = true ∧ ((bits (s.rg pgSAGE 0x258) 7 0) = 0 ∨ ((s.sage.recTail + 1) % max 1 (bits (s.rg pgSAGE 0x258) 7 0)) = bits (s.rg pgSAGE 0x268) 7 0)) ∧
    (∃ (p : Nat) (s : State), s.up = true ∧ p < 32 ∧ bitOf s.pcie.vfEn p = true ∧ (s.part p).state = .active ∧ (s.part p).rst = 0 ∧ s.sage.devRst = 0 ∧ s.sage.oos = false ∧ s.sage.fatal = none) ∧
    (∃ (l : Bool) (s : State), s.up = true ∧ s.sage.devRst = 0 ∧ s.sage.fatal = none) :=
  ⟨⟨0, wJob, by decide +kernel⟩,
   ⟨0, wUp, by decide +kernel⟩,
   ⟨1, wJob, by decide +kernel⟩,
   ⟨1, wSage (fun g => { g with devRst := 1 }) (wJob), by decide +kernel⟩,
   ⟨0, withPart 0 (fun q => { q with rst := 1 }) (wJob), by decide +kernel⟩,
   ⟨0, withPart 0 (fun q => { q with rst := 1 }) (wCtx (fun c => { c with pend := some ⟨.commit, 0, 0, 0, 5, 0, 0⟩ })), by decide +kernel⟩,
   ⟨0, withPart 0 (fun q => { q with rst := 2 }) (wJob), by decide +kernel⟩,
   ⟨wSage (fun g => { g with devRst := 1 }) (wJob), by decide +kernel⟩,
   ⟨wJob, by decide +kernel⟩,
   ⟨wSage (fun g => { g with devRst := 2 }) (wJob), by decide +kernel⟩,
   ⟨⟨0, List.replicate 128 0, 1, 5, none, 0, none⟩, [], ((wSage (fun g => { g with recs := [⟨0, List.replicate 128 0, 1, 5, none, 0, none⟩] }) (wJob)).setRg (pk tSAGE 0) 0x258 4), by decide +kernel⟩,
   ⟨⟨0, List.replicate 128 0, 1, 5, none, 0, none⟩, [], wPci (fun x => { x with ats := [(0, true)] }) ((wSage (fun g => { g with recs := [⟨0, List.replicate 128 0, 1, 5, none, 0, none⟩] }) (wJob)).setRg (pk tSAGE 0) 0x258 4), by decide +kernel⟩,
   ⟨⟨0, List.replicate 128 0, 1, 5, none, 0, none⟩, [], (wSage (fun g => { g with recs := [⟨0, List.replicate 128 0, 1, 5, none, 0, none⟩] }) (wJob)), by decide +kernel⟩,
   ⟨0, wJob, by decide +kernel⟩,
   ⟨true, wJob, by decide +kernel⟩⟩

theorem witness_SageWatches :
    (∃ (d : SageDom) (s : State), s.up = true ∧ s.sage.fatal = none ∧ (match d with | .part p => p < 32 ∧ s.partHalted p = false | .shared => True) ∧ (∀ x, (s.sage.lastSample.find? fun x => x.1 == domKey d) = some x → x.2.toNat + 1000 * s.windowOf d / 16 ≤ s.now) ∧ ((s.domEngines d).map (·.key)).Nodup ∧ bitOf (s.rg pgSAGE 0x200) 0 = false) ∧
    (∃ (d : SageDom) (s : State) (v : _), s.up = true ∧ s.sage.fatal = none ∧ (match d with | .part p => p < 32 ∧ s.partHalted p = false | .shared => True) ∧ (∀ x, (s.sage.lastSample.find? fun x => x.1 == domKey d) = some x → x.2.toNat + 1000 * s.windowOf d / 16 ≤ s.now) ∧ ((s.domEngines d).map (·.key)).Nodup ∧ v ∈ s.domEngines d) ∧
    (∃ (d : SageDom) (s : State), s.up = true ∧ s.sage.fatal = none ∧ (match d with | .part p => p < 32 ∧ s.partHalted p = false | .shared => True) ∧ (∀ x, (s.sage.lastSample.find? fun x => x.1 == domKey d) = some x → x.2.toNat + 1000 * s.windowOf d / 16 ≤ s.now) ∧ ((s.domEngines d).map (·.key)).Nodup ∧ bitOf (s.rg pgSAGE 0x200) 0 = true) ∧
    (∃ (v : EngView) (s : State), keyTyp (v.key / 8) ∈ [tSTORE, tNEAR, tBRIDGE, tELREN, tTIME]) ∧
    (∃ (v : EngView) (s : State), (bitOf (s.rg pgSAGE 0x200) 1) = true) ∧
    (∃ (v : EngView) (s : State), keyTyp (v.key / 8) ∈ [tMOVER, tKPM, tXLAT, tFOLD, tGFE, tEMIT] ∧ (bitOf (s.rg pgSAGE 0x200) 1) = false ∧ s.sage.devRst = 0 ∧ s.sage.fatal = none) ∧
    (∃ (v : EngView) (s : State) (p : _), keyTyp (v.key / 8) ∈ [tCORE, tFEED, tVEC, tCSQ, tTXU] ∧ (if keyTyp (v.key / 8) = tCSQ ∨ keyTyp (v.key / 8) = tTXU then s.ownerOf (keyUnit (v.key / 8)) else s.coreOwner (keyUnit (v.key / 8))) = some p ∧ (bitOf (s.rg pgSAGE 0x200) 1) = false ∧ p < 32 ∧ (s.part p).rst = 0 ∧ (s.part p).state = .active ∧ s.sage.devRst = 0 ∧ s.sage.oos = false ∧ s.sage.fatal = none) ∧
    (∃ (p : Nat) (s : State), s.up = true ∧ s.sage.fatal = none ∧ p < 32 ∧ s.partHalted p = true ∧ (∀ x, (s.sage.lastSample.find? fun x => x.1 == p) = some x → x.2.toNat + 1000 * s.windowOf (.part p) / 16 ≤ s.now)) ∧
    (∃ (d : SageDom) (x : Nat × W64) (s : State), (s.sage.lastSample.find? fun x => x.1 == domKey d) = some x ∧ s.now < x.2.toNat + 1000 * s.windowOf d / 16) ∧
    (∃ (v : W64) (s : State), s.up = true ∧ bitOf v 0 = true ∧ (s.boot.code = 3 ∨ s.boot.code = 4)) ∧
    (∃ (s : State), s.time.mono < s.sage.kickAt + 1000 * bits (s.rg pgSAGE 0x210) 19 0) ∧
    (∃ (s : State), s.up = true ∧ s.sage.fatal = none ∧ (s.boot.code = 3 ∨ s.boot.code = 4) ∧ s.sage.wdogHeld = none ∧ s.sage.kickAt + 1000 * bits (s.rg pgSAGE 0x210) 19 0 ≤ s.time.mono ∧ s.sage.stewardRst = false ∧ s.sage.devRst = 0) ∧
    (∃ (s : State), s.up = true ∧ s.sage.fatal = none ∧ (s.boot.code = 3 ∨ s.boot.code = 4) ∧ s.sage.wdogHeld = none ∧ s.sage.kickAt + 1000 * bits (s.rg pgSAGE 0x210) 19 0 ≤ s.time.mono ∧ s.sage.stewardRst = true) ∧
    (∃ (s : State), s.up = true ∧ s.sage.fatal = none ∧ s.sage.stewardRst = true) ∧
    (∃ (c : Nat) (s : State), s.up = true ∧ 1 ≤ c ∧ c ≤ 5 ∧ s.sage.fatal = none) ∧
    (∃ (c : Nat) (s : State), s.up = true ∧ 1 ≤ c ∧ c ≤ 5 ∧ s.sage.fatal.isSome = true) ∧
    (∃ (ok : Bool) (n : Nat) (s : State), s.up = true ∧ s.sage.fatal.isSome = true ∧ s.sage.dumpDone = false ∧ s.sage.dumpNone = false) ∧
    (∃ (v : W64) (s : State), s.up = true ∧ bitOf v 0 = true ∧ s.sage.dumpDone = true ∧ s.sage.dumpBusy = false) ∧
    (∃ (v : W64) (f : Bool) (s : State), (s.sage.dumpDone = false ∨ s.sage.dumpBusy = true)) ∧
    (∃ (v : W64) (f : Bool) (s : State), s.sage.dumpBusy = false) ∧
    (∃ (v : W64) (f : Bool) (s : State), s.sage.stewardRst = false) ∧
    (∃ (f : Bool) (s : State), s.up = true ∧ s.sage.dumpBusy = true ∧ s.bme .pf = true) :=
  ⟨⟨.part 0, wJob.setRg pgSAGE 0x200 0, by decide +kernel⟩,
   ⟨.part 0, wJob, wJob.arrView 0 0, by decide +kernel⟩,
   ⟨.part 0, wSage (fun g => { g with runs := [(pk tFEED 0 * 8, ⟨0, 16⟩)] }) ((wExec 0 ⟨wQ (wRec 0x10 []), false, none, none, false⟩)), by decide +kernel⟩,
   ⟨⟨pk tSTORE 0 * 8, true, false, false, 0⟩, wJob, by decide +kernel⟩,
   ⟨⟨pk tMOVER 7 * 8, true, false, false, 0⟩, (wJob.setRg pgSAGE 0x200 3), by decide +kernel⟩,
   ⟨⟨pk tMOVER 0 * 8, true, false, false, 0⟩, wJob, by decide +kernel⟩,
   ⟨⟨pk tCORE 0 * 8, true, false, false, 0⟩, wJob, 0, by decide +kernel⟩,
   ⟨0, (wGrant true), by decide +kernel⟩,
   ⟨.part 0, (0, 1000000), (wSage (fun g => { g with lastSample := [(0, 1000000)] }) (wJob)).setRg (pk tSAGE 0) 0x208 1000, by decide +kernel⟩,
   ⟨1, wRun, by decide +kernel⟩,
   ⟨wRun, by decide +kernel⟩,
   ⟨wRun.setRg (pk tSAGE 0) 0x210 0, by decide +kernel⟩,
   ⟨wSage (fun g => { g with stewardRst := true }) (wRun.setRg (pk tSAGE 0) 0x210 0), by decide +kernel⟩,
   ⟨wSage (fun g => { g with stewardRst := true }) (wJob), by decide +kernel⟩,
   ⟨5, wJob, by decide +kernel⟩,
   ⟨5, wSage (fun g => { g with fatal := some 4 }) (wJob), by decide +kernel⟩,
   ⟨true, 9, wSage (fun g => { g with fatal := some 4 }) (wJob), by decide +kernel⟩,
   ⟨1, wSage (fun g => { g with fatal := some 4, dumpDone := true }) (wJob), by decide +kernel⟩,
   ⟨1, false, wJob, by decide +kernel⟩,
   ⟨1, false, wJob, by decide +kernel⟩,
   ⟨1, false, wJob, by decide +kernel⟩,
   ⟨false, wSage (fun g => { g with dumpBusy := true }) (wJob), by decide +kernel⟩⟩

theorem witness_HostInterface :
    (∃ (pg : Page) (v : W32) (s : State), s.up = true ∧ pageOk pg = true) ∧
    (∃ (pg : Page) (v : W32) (s : State) (on : Bool), s.up = true ∧ pageOk pg = true) ∧
    (∃ (pg : Page) (v : W32) (on : Bool) (s : State), (s.up = false ∨ pageOk pg = false)) ∧
    (∃ (pg : Page) (v : W32) (c : Nat) (s : State), s.up = true ∧ pageOk pg = true ∧ irqClass (keyTyp (pageKey pg)) = some c ∧ c < 16 ∧ bitOf s.pcie.classPend c = false ∧ (v &&& irqMask (pageKey pg) &&& (s.hdr (pageKey pg)).intEn) ≠ 0 ∧ Tbl.get false s.pcie.unmasked (s.ivec c) = true ∧ s.bme .pf = true) ∧
    (∃ (pg : Page) (s : State), s.up = true ∧ pageOk pg = true ∧ s.resetScope pg = .none) ∧
    (∃ (pg : Page) (s : State) (p : _), s.up = true ∧ pageOk pg = true ∧ s.resetScope pg = .part p ∧ p < 32 ∧ (s.part p).rst = 0 ∧ (s.part p).state = .active ∧ s.sage.devRst = 0 ∧ s.sage.oos = false ∧ s.sage.fatal = none) ∧
    (∃ (pg : Page) (s : State), s.up = true ∧ pageOk pg = true ∧ s.resetScope pg = .device ∧ s.sage.devRst = 0 ∧ s.sage.fatal = none) ∧
    (∃ (fn : Fn) (n : Nat) (s : State), s.up = true ∧ vecOk fn n = true ∧ Tbl.get false s.pcie.pending (fnKey fn * 4096 + n) = true ∧ s.bme fn = true) ∧
    (∃ (fn : Fn) (n : Nat) (s : State), s.up = true ∧ vecOk fn n = true ∧ Tbl.get false s.pcie.pending (fnKey fn * 4096 + n) = false) ∧
    (∃ (v : W64) (s : State), s.up = true) ∧
    (∃ (v : W64) (s : State), s.up = true ∧ bitOf v 0 = true) ∧
    (∃ (fn : Fn) (s : State), s.up = true ∧ fnOk fn = true) ∧
    (∃ (fn : Fn) (s : State), s.up = true ∧ fnOk fn = true) ∧
    (∃ (fn : Fn) (s : State) (r : Bool), s.up = true ∧ fnOk fn = true) ∧
    (∃ (r : Nat) (w : Nat) (u : Bool) (s : State), s.up = true ∧ 1 ≤ r ∧ r ≤ 6 ∧ 1 ≤ w ∧ w ≤ 8) ∧
    (∃ (fn : Fn) (q : Nat) (s : State), s.copying fn q = none ∧ s.placeHead fn q = none ∧ s.mayFetch fn q = true) ∧
    (∃ (fn : Fn) (q : Nat) (e : Entry) (s : State), s.running = true ∧ s.copying fn q = some e ∧ entOpc e.raw = 3 ∧ entFlag e.raw 0 = false) ∧
    (∃ (fn : Fn) (q : Nat) (e : Entry) (s : State), s.copying fn q = none ∧ s.placeHead fn q = some e ∧ entOpc e.raw = 3 ∧ entFlag e.raw 0 = false) ∧
    (∃ (q : Nat) (s : State), s.copying .pf q = none ∧ s.placeHead .pf q = none ∧ s.mayFetch .pf q = false ∧ s.mbxFree = true ∧ bits (s.rg pgPCIE 0x278) 7 0 = 3 ∧ s.boot.code = 4) :=
  ⟨⟨⟨tGFE, 0⟩, 1, wUp, by decide +kernel⟩,
   ⟨⟨tGFE, 0⟩, 1, wUp, true, by decide +kernel⟩,
   ⟨⟨tGFE, 9⟩, 1, true, wUp, by decide +kernel⟩,
   ⟨⟨tGFE, 0⟩, 1, 1, wPci (fun x => { x with unmasked := [(0, true)] }) ({ wJob with hdrs := [(pk tGFE 0, { wJob.hdr (pk tGFE 0) with intEn := 1 })] }), by decide +kernel⟩,
   ⟨⟨tMETER, 0⟩, wUp, by decide +kernel⟩,
   ⟨⟨tCSQ, 0⟩, wJob, 0, by decide +kernel⟩,
   ⟨⟨tGFE, 0⟩, wJob, by decide +kernel⟩,
   ⟨.pf, 3, wPci (fun x => { x with pending := [(3, true)] }) wJob, by decide +kernel⟩,
   ⟨.pf, 3, wUp, by decide +kernel⟩,
   ⟨1, wUp, by decide +kernel⟩,
   ⟨1, wUp, by decide +kernel⟩,
   ⟨.pf, wPci (fun x => { x with owed := [(0, 0x100, [1], true)] }) wUp, by decide +kernel⟩,
   ⟨.pf, wUp, by decide +kernel⟩,
   ⟨.pf, wUp, true, by decide +kernel⟩,
   ⟨5, 8, true, wUp, by decide +kernel⟩,
   ⟨.vf 0, 0, ({ wSq { wQN with tail := 1 } wCqN [] with ents := [] }), by decide +kernel⟩,
   ⟨.vf 0, 0, { wFetched (pack 512 [bfld 0 1 3, bfld 4 4 8, bfld 16 8 0x9000, bfld 24 8 0x800]) with busy := true, st := .placed }, { wHead (pack 512 [bfld 0 1 3, bfld 4 4 8, bfld 16 8 0x9000, bfld 24 8 0x800]) with ents := [{ wFetched (pack 512 [bfld 0 1 3, bfld 4 4 8, bfld 16 8 0x9000, bfld 24 8 0x800]) with busy := true, st := .placed }] }, by decide +kernel⟩,
   ⟨.vf 0, 0, wFetched (pack 512 [bfld 0 1 3, bfld 4 4 8, bfld 16 8 0x9000, bfld 24 8 0x800]), wHead (pack 512 [bfld 0 1 3, bfld 4 4 8, bfld 16 8 0x9000, bfld 24 8 0x800]), by decide +kernel⟩,
   ⟨0, wPci (fun x => { x with bme := [(0, true)] }) (wRun.setRg (pk tPCIE 0) 0x278 3), by decide +kernel⟩⟩

theorem witness_RegisterWrites :
    (∃ (pg : Page) (off : Nat), pageOk pg = true ∧ pg.typ < 0x60 ∧ off < 4096) ∧
    (∃ (a : RegAcc) (s : State), (s.up = false ∨ s.fnLive a.fn = false)) ∧
    (∃ (a : RegAcc) (s : State), s.up = true ∧ s.fnLive a.fn = true ∧ (a.off % 4 ≠ 0 ∨ (a.wide = true ∧ a.off % 8 ≠ 0))) ∧
    (∃ (fn : Fn) (off : Nat) (w : Bool) (v : W64) (s : State), off % 8 = 0 ∧ (barPage fn .bar0 off = none ∨ barPage fn .bar0 off = some ⟨tMETER, 0⟩)) ∧
    (∃ (typ : Nat) (u : Nat) (off : Nat) (v : W64) (c : Instr) (s : State), s.up = true ∧ pageOk ⟨typ, u⟩ = true ∧ s.holds = [] ∧ (typ, off, c) ∈ [(tTIME, 0x200, Instr.timeRoleWrite (BitVec.ofNat 2 (bits v 1 0))), (tTIME, 0x210, .timeSet v), (tGFE, 0x200, .contractWrite v), (tGFE, 0x208, .noticeCq v), (tSAGE, 0x220, .preset v), (tSAGE, 0x228, .dreset v), (tSAGE, 0x290, .dumpGo v), (tSEC, 0x210, .rollbackCommit v), (tPCIE, 0x258, .irqAck v), (tPCIE, 0x270, .faultClr v), (tPOWER, 0x208, .idleReq v), (tPOWER, 0x210, .powerCap false v), (tPOWER, 0x220, .clkClr v), (tDEBUG, 0x208, .revoke v), (tDEBUG, 0x228, .traceCtrl v), (tDEBUG, 0x240, .traceGo v), (tCBUF, 0x208, .rcFlush u v), (tKPM, 0x220, .poolAdd u v), (tMOVER, 0x2A0, .pqTail u v), (tSTORE, 0x230, .storeAddrClr u v), (tXLAT, 0x200, .xlatInval u v)]) ∧
    (∃ (typ : Nat) (u : Nat) (off : Nat) (hi : Nat) (lo : Nat) (v : W64) (s : State), s.up = true ∧ pageOk ⟨typ, u⟩ = true ∧ s.holds = [] ∧ (typ, off, hi, lo) ∈ [(tTIME, 0x230, 0, 0), (tTIME, 0x238, 5, 0), (tSAGE, 0x200, 1, 0), (tSAGE, 0x210, 19, 0), (tSAGE, 0x278, 63, 12), (tSAGE, 0x280, 30, 12), (tPCIE, 0x278, 7, 0), (tPCIE, 0x288, 25, 0), (tDEBUG, 0x220, 12, 0), (tDEBUG, 0x238, 63, 12), (tPART, 0x200, 31, 0), (tPART, 0x218, 0, 0), (tKPM, 0x200, 4, 0), (tFOLD, 0x290, 4, 0)]) ∧
    (∃ (p : Nat) (q : Nat) (v : W64) (s : State), s.up = true ∧ p < 32 ∧ bitOf s.pcie.vfEn p = true ∧ q < 64 ∧ s.holds = []) ∧
    (∃ (typ : Nat) (u : Nat) (off : Nat) (v : W64) (s : State), s.up = true ∧ pageOk ⟨typ, u⟩ = true ∧ typ < 0x60 ∧ typ ≠ tMETER ∧ off % 8 = 0 ∧ off < 4096 ∧ hiDefined typ off = true ∧ s.holds = []) ∧
    (∃ (typ : Nat) (u : Nat) (off : Nat) (v : W64) (s : State) (o : Nat) (lo : W32), s.up = true ∧ pageOk ⟨typ, u⟩ = true ∧ typ < 0x60 ∧ typ ≠ tMETER ∧ off % 8 = 0 ∧ off < 4096 ∧ hiDefined typ off = true ∧ o ≠ off ∧ s.holds = [⟨.pf, pageKey ⟨typ, u⟩, o, lo⟩]) ∧
    (∃ (typ : Nat) (u : Nat) (off : Nat) (v : W64) (s : State) (lo : W32), s.up = true ∧ pageOk ⟨typ, u⟩ = true ∧ typ < 0x60 ∧ typ ≠ tMETER ∧ off % 8 = 0 ∧ off < 4096 ∧ hiDefined typ off = true ∧ s.holds = [⟨.pf, pageKey ⟨typ, u⟩, off, lo⟩]) ∧
    (∃ (pg : Page) (v : W64) (s : State), s.up = true ∧ pageOk pg = true ∧ pg.typ < 0x60 ∧ pg.typ ≠ tMETER ∧ s.holds = []) ∧
    (∃ (fn : Fn) (v : W64) (s : State), s.up = true ∧ s.fnLive fn = true) ∧
    (∃ (v : W64) (s : State), s.up = true ∧ bitOf v 0 = true ∧ bits v 21 16 ≤ 32) :=
  ⟨⟨⟨tTIME, 0⟩, 0, by decide +kernel⟩,
   ⟨⟨.pf, .bar0, 0, true, 0⟩, State.reset, by decide +kernel⟩,
   ⟨⟨.pf, .bar0, 2, false, 0⟩, wUp, by decide +kernel⟩,
   ⟨.vf 0, 0x800000, true, 1, wUp, by decide +kernel⟩,
   ⟨tTIME, 0, 0x200, 1, .timeRoleWrite (BitVec.ofNat 2 (bits (1 : W64) 1 0)), wUp, by decide +kernel⟩,
   ⟨tTIME, 0, 0x230, 0, 0, 0xFFFFFFFFFFFFFFFF, wUp, by decide +kernel⟩,
   ⟨0, 5, 3, wJob, by decide +kernel⟩,
   ⟨tSAGE, 0, 0x250, 5, wUp, by decide +kernel⟩,
   ⟨tSAGE, 0, 0x250, 5, { wUp with holds := [⟨.pf, pk tSAGE 0, 0x278, 7⟩] }, 0x278, 7, by decide +kernel⟩,
   ⟨tSAGE, 0, 0x250, 5, { wUp with holds := [⟨.pf, pk tSAGE 0, 0x250, 7⟩] }, 7, by decide +kernel⟩,
   ⟨⟨tGFE, 0⟩, 1, wUp, by decide +kernel⟩,
   ⟨.pf, 1, wUp, by decide +kernel⟩,
   ⟨0x80001, wUp, by decide +kernel⟩⟩

theorem witness_PowerStates :
    (∃ (a : Nat) (b : Nat) (s : State), s.boot.on = true) ∧
    (∃ (a : Nat) (b : Nat) (mv : Nat) (tj : List Nat) (v : W64) (s : State), s.boot.on = false) ∧
    (∃ (mv : Nat) (s : State), s.boot.on = true) ∧
    (∃ (tj : List Nat) (s : State), s.boot.on = true) ∧
    (∃ (v : W64) (s : State), s.up = true ∧ bitOf v 0 = true) ∧
    (∃ (b : Bool) (v : W64) (s : State), (if b then s.boot.on else s.up) = true ∧ 1000 ≤ bits v 12 0 ∧ bits v 12 0 ≤ 4400) ∧
    (∃ (b : Bool) (v : W64) (s : State), (if b then s.boot.on else s.up) = true ∧ (bits v 12 0 < 1000 ∨ 4400 < bits v 12 0)) ∧
    (∃ (v : W64) (s : State), s.up = true) ∧
    (∃ (s : State), s.up = true ∧ s.idleReqOn = true ∧ s.power.idle = false ∧ s.anyBound = false ∧ s.ents = [] ∧ (∀ m, m ∈ s.movers → m.2.descs = []) ∧ (∀ k, k ∈ s.kpms → k.2.ops = []) ∧ (∀ f, f ∈ s.folds → ∀ x, x ∈ f.2.parts → x.2.started = false ∧ x.2.held = [])) ∧
    (∃ (s : State), s.up = true ∧ s.idleReqOn = true ∧ s.power.idle = false ∧ (s.anyBound = true ∨ s.ents ≠ [] ∨ (∃ m, m ∈ s.movers ∧ m.2.descs ≠ []) ∨ (∃ k, k ∈ s.kpms ∧ k.2.ops ≠ []))) ∧
    (∃ (s : State), s.up = true ∧ s.power.idle = true ∧ (s.idleReqOn = false ∨ s.power.wake = true ∨ s.anyBound = true) ∧ s.sage.oos = false) ∧
    (∃ (l : Bool) (s : State), s.boot.pwrEn = false ∧ s.boot.on = false) ∧
    (∃ (l : Bool) (s : State), (s.boot.pwrEn = true ∨ s.boot.on = true)) ∧
    (∃ (x : Nat) (s : State), s.boot.on = true ∧ (x < 33000 ∨ 46000 < x)) ∧
    (∃ (x : Nat) (s : State), s.boot.on = true ∧ 33000 ≤ x ∧ x ≤ 46000) ∧
    (∃ (x : Nat) (s : State), s.boot.on = true ∧ 1100 ≤ x) ∧
    (∃ (x : Nat) (s : State), s.boot.on = true ∧ x < 1100) ∧
    (∃ (n : Nat) (s : State), s.boot.on = true ∧ 1 ≤ n ∧ n ≤ 15) :=
  ⟨⟨100, 5300, wUp, by decide +kernel⟩,
   ⟨100, 5300, 35000, [960], 1, { wUp with boot := { wUp.boot with on := false, pwrEn := false } }, by decide +kernel⟩,
   ⟨35000, wUp, by decide +kernel⟩,
   ⟨[960], wUp, by decide +kernel⟩,
   ⟨1, wUp, by decide +kernel⟩,
   ⟨false, 2000, wUp, by decide +kernel⟩,
   ⟨false, 5, wUp, by decide +kernel⟩,
   ⟨1, wUp, by decide +kernel⟩,
   ⟨({ wJob with ctxs := [], ents := [], coords := [] }.setRg (pk tPOWER 0) 0x208 1), by decide +kernel⟩,
   ⟨wJob.setRg (pk tPOWER 0) 0x208 1, by decide +kernel⟩,
   ⟨wPow (fun g => { g with idle := true }) (wJob), by decide +kernel⟩,
   ⟨true, { wUp with boot := { wUp.boot with on := false, pwrEn := false } }, by decide +kernel⟩,
   ⟨true, wUp, by decide +kernel⟩,
   ⟨50000, wUp, by decide +kernel⟩,
   ⟨40000, wUp, by decide +kernel⟩,
   ⟨1100, wUp, by decide +kernel⟩,
   ⟨1099, wUp, by decide +kernel⟩,
   ⟨1, wUp, by decide +kernel⟩⟩

theorem witness_DebugPort :
    (∃ (s : State), s.boot.on = true) ∧
    (∃ (s : State) (ir : _), s.boot.on = true ∧ ir ≠ 1 ∧ ir ≠ 0x20) ∧
    (∃ (c : BitVec 192) (s : State), s.up = true ∧ dbgOp c = 1) ∧
    (∃ (c : BitVec 192) (s : State), s.running = true ∧ s.sage.stewardRst = false ∧ dbgOp c = 2 ∧ dbgArg c < 20) ∧
    (∃ (c : BitVec 192) (s : State), s.running = true ∧ s.sage.stewardRst = false ∧ dbgOp c = 3 ∧ s.grantCheck s.grantBytes ≠ 0) ∧
    (∃ (c : BitVec 192) (s : State), s.running = true ∧ s.sage.stewardRst = false ∧ dbgOp c = 3 ∧ fld s.grantBytes 8 1 < 32 ∧ (s.part (fld s.grantBytes 8 1)).tdi = .run) ∧
    (∃ (c : BitVec 192) (i : Instr) (op : Nat) (s : State), s.running = true ∧ s.sage.stewardRst = false ∧ dbgOp c = op ∧ (op, i) ∈ [(4, Instr.dbgHalt c), (5, .dbgResume c), (6, .dbgStep c), (7, .bpSet c), (8, .bpClr c), (9, .memRd c), (10, .memWr c), (11, .regRd c), (12, .regWr c)] ∧ dbgTarget c = none) ∧
    (∃ (c : BitVec 192) (i : Instr) (op : Nat) (s : State) (t : _), s.running = true ∧ s.sage.stewardRst = false ∧ dbgOp c = op ∧ (op, i) ∈ [(4, Instr.dbgHalt c), (5, .dbgResume c), (6, .dbgStep c), (7, .bpSet c), (8, .bpClr c), (9, .memRd c), (10, .memWr c), (11, .regRd c), (12, .regWr c)] ∧ dbgTarget c = some t ∧ s.grantOver t = none) ∧
    (∃ (c : BitVec 192) (i : Instr) (op : Nat) (s : State) (t : _) (g : _), s.running = true ∧ s.sage.stewardRst = false ∧ dbgOp c = op ∧ (op, i) ∈ [(4, Instr.dbgHalt c), (5, .dbgResume c), (6, .dbgStep c), (7, .bpSet c), (8, .bpClr c), (9, .memRd c), (10, .memWr c), (11, .regRd c), (12, .regWr c)] ∧ dbgTarget c = some t ∧ s.grantOver t = some g ∧ bitOf g.rights (if op ≤ 8 then 0 else if op = 9 ∨ op = 11 then 1 else 2) = false) ∧
    (∃ (c : BitVec 192) (k : Nat) (j : Nat) (g : Grant) (s : State), s.running = true ∧ s.sage.stewardRst = false ∧ dbgTarget c = some (.pipe k j) ∧ s.grantOver (.pipe k j) = some g ∧ g.rights = 7 ∧ dbgOp c = 4 ∧ (dbgArg c % 2 = 0 ∨ (∃ p, s.coreOwner k = some p ∧ k ∈ s.coresOf p))) ∧
    (∃ (c : BitVec 192) (k : Nat) (j : Nat) (g : Grant) (s : State), s.running = true ∧ s.sage.stewardRst = false ∧ dbgTarget c = some (.pipe k j) ∧ s.grantOver (.pipe k j) = some g ∧ g.rights = 7 ∧ dbgOp c = 5 ∧ dbgArg c % 2 = 0 ∧ (s.pipe k j).halted = true ∧ (s.coreOwner k).isSome = true) ∧
    (∃ (c : BitVec 192) (k : Nat) (j : Nat) (g : Grant) (s : State), s.running = true ∧ s.sage.stewardRst = false ∧ dbgTarget c = some (.pipe k j) ∧ s.grantOver (.pipe k j) = some g ∧ g.rights = 7 ∧ dbgOp c = 6 ∧ (s.pipe k j).halted = false) ∧
    (∃ (c : BitVec 192) (k : Nat) (j : Nat) (g : Grant) (s : State), s.running = true ∧ s.sage.stewardRst = false ∧ dbgTarget c = some (.pipe k j) ∧ s.grantOver (.pipe k j) = some g ∧ g.rights = 7 ∧ dbgOp c = 6 ∧ (s.pipe k j).halted = true ∧ (s.coreOwner k).isSome = true) ∧
    (∃ (c : BitVec 192) (k : Nat) (j : Nat) (g : Grant) (s : State), s.running = true ∧ s.sage.stewardRst = false ∧ dbgTarget c = some (.pipe k j) ∧ s.grantOver (.pipe k j) = some g ∧ g.rights = 7 ∧ dbgOp c = 7 ∧ dbgArg c < 4) ∧
    (∃ (c : BitVec 192) (k : Nat) (j : Nat) (g : Grant) (s : State), s.running = true ∧ s.sage.stewardRst = false ∧ dbgTarget c = some (.pipe k j) ∧ s.grantOver (.pipe k j) = some g ∧ g.rights = 7 ∧ dbgOp c = 8 ∧ dbgArg c < 4) ∧
    (∃ (c : BitVec 192) (k : Nat) (j : Nat) (g : Grant) (s : State), s.running = true ∧ s.sage.stewardRst = false ∧ dbgTarget c = some (.pipe k j) ∧ s.grantOver (.pipe k j) = some g ∧ g.rights = 7 ∧ dbgOp c = 9 ∧ dbgSpace c = 1 ∧ dbgAddr c % 8 = 0 ∧ dbgAddr c + 8 ≤ 2 ^ 23) ∧
    (∃ (c : BitVec 192) (k : Nat) (j : Nat) (g : Grant) (s : State), s.running = true ∧ s.sage.stewardRst = false ∧ dbgTarget c = some (.pipe k j) ∧ s.grantOver (.pipe k j) = some g ∧ g.rights = 7 ∧ dbgOp c = 10 ∧ dbgSpace c = 1 ∧ dbgAddr c % 8 = 0 ∧ dbgAddr c + 8 ≤ 2 ^ 23) ∧
    (∃ (c : BitVec 192) (k : Nat) (j : Nat) (g : Grant) (s : State), s.running = true ∧ s.sage.stewardRst = false ∧ dbgTarget c = some (.pipe k j) ∧ s.grantOver (.pipe k j) = some g ∧ g.rights = 7 ∧ dbgOp c = 11 ∧ dbgArg c < 32) ∧
    (∃ (c : BitVec 192) (k : Nat) (j : Nat) (g : Grant) (s : State), s.running = true ∧ s.sage.stewardRst = false ∧ dbgTarget c = some (.pipe k j) ∧ s.grantOver (.pipe k j) = some g ∧ g.rights = 7 ∧ dbgOp c = 12 ∧ dbgArg c < 32) ∧
    (∃ (p : Nat) (g : Grant) (s : State), s.up = true ∧ p < 32 ∧ (s.part p).grant = some g ∧ g.notAfter.toNat ≤ s.now) ∧
    (∃ (p : Nat) (g : Grant) (s : State), s.up = true ∧ p < 32 ∧ (s.part p).grant = some g ∧ s.now < g.notAfter.toNat) ∧
    (∃ (g : Grant) (s : State), s.up = true ∧ s.dbg.stewGrant = some g ∧ g.notAfter.toNat ≤ s.now) ∧
    (∃ (v : W64) (s : State), s.up = true) ∧
    (∃ (v : W64) (s : State), s.up = true ∧ bitOf v 0 = true ∧ s.regionHeld = true) ∧
    (∃ (v : W64) (s : State), s.up = true ∧ s.regionHeld = false) ∧
    (∃ (v : W64) (s : State), s.up = true ∧ s.sage.dumpDone = false ∧ s.writeFaults .pf false = false ∧ s.bme .pf = true ∧ 0 < bits v 30 12 ∧ s.dbg.trace ≠ []) :=
  ⟨⟨wUp, by decide +kernel⟩,
   ⟨wUp, 0x22, by decide +kernel⟩,
   ⟨wDc 1 2 0 0 [], wUp, by decide +kernel⟩,
   ⟨wDc 2 2 0 19 [], wJob, by decide +kernel⟩,
   ⟨wDc 3 2 0 0 [], wDbg (fun d => { d with pendGrant := [(1, 33)] }) wJob, by decide +kernel, by decide +kernel, by decide +kernel, grantCheck_part (by decide +kernel)⟩,
   ⟨wDc 3 2 0 0 [], withPart 0 (fun q => { q with tdi := .run }) (wJob), by decide +kernel⟩,
   ⟨wDc 4 0 9 0 [], .dbgHalt (wDc 4 0 9 0 []), 4, wJob, by decide +kernel⟩,
   ⟨wDc 4 2 0 0 [], .dbgHalt (wDc 4 2 0 0 []), 4, wJob, (.pipe 0 0 : Target), by decide +kernel⟩,
   ⟨wDc 4 2 0 0 [], .dbgHalt (wDc 4 2 0 0 []), 4, withPart 0 (fun q => { q with grant := some ⟨6, 0, 9000000⟩ }) (wJob), (.pipe 0 0 : Target), (⟨6, 0, 9000000⟩ : Grant), by decide +kernel⟩,
   ⟨wDc 4 2 0 0 [], 0, 0, wGr, wGrant false, by decide +kernel⟩,
   ⟨wDc 5 2 0 0 [], 0, 0, wGr, wGrant true, by decide +kernel⟩,
   ⟨wDc 6 2 0 0 [], 0, 0, wGr, wGrant false, by decide +kernel⟩,
   ⟨wDc 6 2 0 0 [], 0, 0, wGr, wGrant true, by decide +kernel⟩,
   ⟨wDc 7 2 0 3 [⟨127, 64, 64⟩], 0, 0, wGr, wGrant false, by decide +kernel⟩,
   ⟨wDc 8 2 0 3 [], 0, 0, wGr, wGrant false, by decide +kernel⟩,
   ⟨wDc 9 2 0 0 [⟨15, 12, 1⟩, ⟨127, 64, 64⟩], 0, 0, wGr, wGrant false, by decide +kernel⟩,
   ⟨wDc 10 2 0 0 [⟨15, 12, 1⟩, ⟨127, 64, 64⟩], 0, 0, wGr, wGrant false, by decide +kernel⟩,
   ⟨wDc 11 2 0 31 [], 0, 0, wGr, wGrant false, by decide +kernel⟩,
   ⟨wDc 12 2 0 31 [], 0, 0, wGr, wGrant false, by decide +kernel⟩,
   ⟨0, ⟨7, 0, 1000000⟩, withPart 0 (fun q => { q with grant := some ⟨7, 0, 1000000⟩ }) (wJob), by decide +kernel⟩,
   ⟨0, wGr, wGrant false, by decide +kernel⟩,
   ⟨⟨7, 0, 1000000⟩, wDbg (fun d => { d with stewGrant := some ⟨7, 0, 1000000⟩ }) wJob, by decide +kernel⟩,
   ⟨1, wUp, by decide +kernel⟩,
   ⟨1, wDbg (fun d => { d with staging := true }) wUp, by decide +kernel⟩,
   ⟨1, wUp, by decide +kernel⟩,
   ⟨0x5000, wDbg (fun d => { d with trace := [5] }) wJob, by decide +kernel⟩⟩

theorem witness_RingAckOutsideIsRefused :
    ∃ (s : State), s.fmuOn = true ∧ s.up = true ∧ cmdZero s.meterCmd = true ∧ byteFld s.meterCmd 0 1 = 5 ∧ s.fmu.ringSet = true ∧ s.fmu.ringHead < s.fmu.ringSize ∧ s.fmu.ringTail < s.fmu.ringSize ∧ (∀ j, j ≤ (s.fmu.ringTail + s.fmu.ringSize - s.fmu.ringHead) % s.fmu.ringSize → byteFld s.meterCmd 8 4 ≠ (s.fmu.ringHead + j) % s.fmu.ringSize) :=
  ⟨wFmu (fun f => { f with ringSet := true, ringSize := 1024, ringTail := 9 }) (wMeter 5 [bfld 8 4 10]), by decide +kernel⟩

theorem witness_RingSetStartsTheNewRing :
    (∃ (s : State), s.fmuOn = true ∧ s.up = true ∧ cmdZero s.meterCmd = true ∧ byteFld s.meterCmd 0 1 = 4 ∧ ringOk s.meterCmd = true) ∧
    (∃ (x : Flit) (rest : List Flit) (s : State), s.fmuOn = true ∧ s.up = true ∧ s.fmu.buf = x :: rest ∧ s.fmu.ringSet = true ∧ s.fmu.ringFault = false ∧ s.fmu.stopped = false ∧ s.bme .pf = true ∧ s.writeFaults .pf false = false ∧ (s.fmu.ringTail + 1) % max 1 s.fmu.ringSize ≠ s.fmu.ringHead) :=
  ⟨⟨wMeter 4 wRing, by decide +kernel⟩,
   ⟨5, [], wFmu (fun f => { f with buf := [5], ringSet := true, ringSize := 1024 }) wJob, by decide +kernel⟩⟩

theorem witness_FreezeHoldsStatistics :
    (∃ (pg : Page) (s : State), s.up = true ∧ pageOk pg = true) ∧
    (∃ (k : Nat) (off : Nat) (p : Nat → Bool) (s : State), (s.hdr k).frozen = true ∧ off < 4096) ∧
    (∃ (k : Nat) (off : Nat) (n : Nat) (s : State), (s.hdr k).frozen = true) :=
  ⟨⟨⟨tTIME, 0⟩, wUp, by decide +kernel⟩,
   ⟨pk tTIME 0, 0x400, (fun k => k == pk tTIME 0), { wJob with hdrs := [(pk tTIME 0, { wJob.hdr (pk tTIME 0) with frozen := true })] }, by decide +kernel⟩,
   ⟨pk tTIME 0, 0x400, 7, { wJob with hdrs := [(pk tTIME 0, { wJob.hdr (pk tTIME 0) with frozen := true })] }, by decide +kernel⟩⟩

end Sys2Proof.Tests
end

section
/-! The freeze-statistics bit (R53): what a latch does to tables of statistics, what an event adds to a slot, and O60. -/

namespace Sys2Proof.Machine

open Sys2Proof

/-! ### Tables filtered and filled by key -/

theorem Tbl.get_filter {α : Type} (d : α) (t : List (Nat × α)) (q : Nat → Bool) (k : Nat) :
    Tbl.get d (t.filter fun e => q e.1) k = if q k then Tbl.get d t k else d := by
  induction t with
  | nil => simp
  | cons e r ih =>
    obtain ⟨k', v⟩ := e
    rw [List.filter_cons]
    by_cases hk : k' = k
    · subst hk
      cases hq : q k' <;> simp [Tbl.get, hq, ih]
    · cases hq : q k' <;> simp [Tbl.get, hk, ih]

/-- Entries set one after another leave a key that none of them has. -/
theorem Tbl.get_foldl_set_other {α : Type} (d : α) (l : List (Nat × α)) (k : Nat) (h : ∀ e ∈ l, e.1 ≠ k) :
    ∀ t : List (Nat × α), Tbl.get d (l.foldl (fun t e => Tbl.set t e.1 e.2) t) k = Tbl.get d t k := by
  induction l with
  | nil => intro t; rfl
  | cons e r ih =>
    intro t
    rw [List.foldl_cons, ih (fun x hx => h x (List.mem_cons_of_mem _ hx)),
      Tbl.get_set_other _ _ _ _ _ (h e List.mem_cons_self).symm]

/-! ### Words of two 32-bit halves (R119) -/

theorem pack_halves_toNat (a b : Nat) :
    (pack 64 [⟨31, 0, a⟩, ⟨63, 32, b⟩]).toNat = a % 2 ^ 32 + (b % 2 ^ 32) * 2 ^ 32 := by
  have hor : a % 2 ^ 32 ||| (b % 2 ^ 32) <<< 32 = (b % 2 ^ 32) * 2 ^ 32 + a % 2 ^ 32 := by
    rw [Nat.or_comm, ← Nat.shiftLeft_add_eq_or_of_lt (Nat.mod_lt _ (Nat.two_pow_pos 32)), Nat.shiftLeft_eq]
  simp only [pack, packNat, Nat.or_zero, Nat.shiftLeft_zero, Nat.reduceAdd, Nat.reduceSub, BitVec.toNat_ofNat, hor]
  omega

@[simp] theorem bits_low_pack_halves (a b : Nat) : bits (pack 64 [⟨31, 0, a⟩, ⟨63, 32, b⟩]) 31 0 = a % 2 ^ 32 := by
  rw [bits, nbits, pack_halves_toNat, Nat.shiftRight_zero]
  omega

@[simp] theorem bits_high_pack_halves (a b : Nat) : bits (pack 64 [⟨31, 0, a⟩, ⟨63, 32, b⟩]) 63 32 = b % 2 ^ 32 := by
  rw [bits, nbits, pack_halves_toNat, Nat.shiftRight_eq_div_pow]
  omega

/-! ### Statistics -/

theorem State.bump_stat (s : State) (k off n : Nat) :
    (s.bump k off n).stat k off = pack 64 [⟨31, 0, bits (s.stat k off) 31 0 + n⟩, ⟨63, 32, bits (s.stat k off) 63 32⟩] :=
  Tbl.get_set_same _ _ _ _

theorem State.bumpHi_stat (s : State) (k off n : Nat) :
    (s.bumpHi k off n).stat k off = pack 64 [⟨31, 0, bits (s.stat k off) 31 0⟩, ⟨63, 32, bits (s.stat k off) 63 32 + n⟩] :=
  Tbl.get_set_same _ _ _ _

/-- The page of a statistic's key. -/
theorem statKey_div (k off : Nat) (h : off < 4096) : (k * 4096 + off) / 4096 = k := by omega

/-- A latch restarts the live counts of the pages that it names, and no others (R51). -/
theorem State.latch_stat (s : State) (p : Nat → Bool) (k off : Nat) (h : off < 4096) :
    (s.latch p).stat k off = if p k then 0 else s.stat k off := by
  have hget := Tbl.get_filter 0 s.live (fun a => !p (a / 4096)) (k * 4096 + off)
  rw [statKey_div k off h] at hget
  refine hget.trans ?_
  cases p k <;> rfl

/-- A latch keeps what a frozen page latched: it is not filtered out, and no live count of that page is copied over it (R53). -/
theorem State.latch_latched_of_frozen (s : State) (p : Nat → Bool) (k off : Nat) (hf : (s.hdr k).frozen = true) (h : off < 4096) :
    Tbl.get 0 (s.latch p).latched (k * 4096 + off) = Tbl.get 0 s.latched (k * 4096 + off) := by
  have hdiv := statKey_div k off h
  have hkept := Tbl.get_filter 0 s.latched (fun a => !p (a / 4096) || (s.hdr (a / 4096)).frozen) (k * 4096 + off)
  rw [hdiv, hf, Bool.or_true, if_pos rfl] at hkept
  refine (Tbl.get_foldl_set_other 0 _ _ ?_ _).trans hkept
  intro e he hek
  have hnew := (List.mem_filter.mp he).2
  simp [hek, hdiv, hf] at hnew

/-! ### What comes before the latch at a step edge (R117) -/

theorem State.acquire_hdrs_latched (s : State) (k : Nat) : (s.acquire k).hdrs = s.hdrs ∧ (s.acquire k).latched = s.latched := by
  unfold State.acquire
  dsimp only
  split <;> simp

theorem State.each_acquire_hdrs_latched (l : List Nat) :
    ∀ s : State, (s.each l State.acquire).hdrs = s.hdrs ∧ (s.each l State.acquire).latched = s.latched := by
  induction l with
  | nil => intro s; exact ⟨rfl, rfl⟩
  | cons k r ih =>
    intro s
    obtain ⟨hh, hl⟩ := ih (s.acquire k)
    obtain ⟨ah, al⟩ := s.acquire_hdrs_latched k
    exact ⟨hh.trans ah, hl.trans al⟩

theorem exec_freeze (pg : Page) (on : Bool) (s : State) (hup : s.up = true) (hpg : pageOk pg = true) :
    exec (.freeze pg on) s = .next (s.modHdr (pageKey pg) fun h => { h with frozen := on }) := by
  change execFreeze pg on s = _
  simp [execFreeze, whenOk, hup, hpg]

/-- Settles O60: a latch passes over the latched slots of a frozen page and restarts its live counts like any other's, and a step edge
changes no header and no latched slot before its latch. -/
theorem freezeHoldsStatistics : Obligations.FreezeHoldsStatistics := by
  unfold Obligations.FreezeHoldsStatistics
  refine ⟨?freeze, ?latch, ?count, ?edge⟩
  case freeze =>
    intro pg s hup hpg
    exact ⟨_, exec_freeze pg true s hup hpg, by simp, by simp, by simp⟩
  case latch =>
    intro k off p s hf hoff
    exact ⟨s.latch_latched_of_frozen p k off hf hoff, s.latch_stat p k off hoff⟩
  case count =>
    intro k off n s _
    exact ⟨s.bump64_stat k off n, by rw [State.bump_stat, bits_low_pack_halves], by rw [State.bumpHi_stat, bits_high_pack_halves]⟩
  case edge =>
    intro p s
    obtain ⟨hh, hl⟩ := State.each_acquire_hdrs_latched (s.coresOf p) s
    exact ⟨s.each (s.coresOf p) State.acquire, (s.each (s.coresOf p) State.acquire).latch (s.pageOf p), rfl, rfl, hh, hl⟩

end Sys2Proof.Machine
end

section
/-! The meter's rings and records (R386 to R393): what building records leaves of the ring, and what RING_SET, RING_ACK and RECORD_WRITE
do; O58 and O59. -/

namespace Sys2Proof.Machine

open Sys2Proof

/-! ### Records appended -/

/-- The registers of the PF ring: base, entries, tail address, tail, head, and whether RING_SET has set it. -/
def FmuSt.ring (f : FmuSt) : W64 × Nat × W64 × Nat × Nat × Bool :=
  (f.ringBase, f.ringSize, f.ringTailAddr, f.ringTail, f.ringHead, f.ringSet)

/-- From `s` to `t` the meter at most appends records to its buffer: the ring and the registers that software writes stay. -/
structure State.Logged (s t : State) : Prop where
  rf : t.rf = s.rf
  ring : t.fmu.ring = s.fmu.ring
  buf : s.fmu.buf <+: t.fmu.buf

/-- The same with the last command's result and the window's count of acknowledgements kept. -/
structure State.Built (s t : State) : Prop extends State.Logged s t where
  cmdRes : t.fmu.cmdRes = s.fmu.cmdRes
  acks : t.fmu.acks = s.fmu.acks

theorem State.Logged.trans {s t u : State} (h : s.Logged t) (k : t.Logged u) : s.Logged u :=
  ⟨k.rf.trans h.rf, k.ring.trans h.ring, h.buf.trans k.buf⟩

theorem State.Built.refl (s : State) : s.Built s := ⟨⟨rfl, rfl, List.prefix_rfl⟩, rfl, rfl⟩

theorem State.Built.trans {s t u : State} (h : s.Built t) (k : t.Built u) : s.Built u :=
  ⟨h.toLogged.trans k.toLogged, k.cmdRes.trans h.cmdRes, k.acks.trans h.acks⟩

/-- An unchanged FMU and register file: nothing appended. -/
theorem State.Built.of_eq {s t : State} (hrf : t.rf = s.rf) (hfmu : t.fmu = s.fmu) : s.Built t :=
  ⟨⟨hrf, congrArg FmuSt.ring hfmu, hfmu ▸ List.prefix_rfl⟩, congrArg FmuSt.cmdRes hfmu, congrArg FmuSt.acks hfmu⟩

theorem State.Logged.modFmu (s : State) (f : FmuSt → FmuSt) (hring : (f s.fmu).ring = s.fmu.ring)
    (hbuf : s.fmu.buf <+: (f s.fmu).buf) : s.Logged (s.modFmu f) :=
  ⟨rfl, hring, hbuf⟩

/-- The hold changed to `h` (R394). -/
def State.holdTo (s : State) (h : Bool) : State :=
  (((s.modFmu fun f => { f with hold := h, heldInWin := f.heldInWin || h }).modEmit fun g => { g with hold := h }).raise pgMETER 4).raise
    (pk tEMIT 0) 0

/-- Either branch of a choice of states is one of the two. -/
theorem State.ite_eq_or (c : Prop) [Decidable c] (t u : State) : (if c then t else u) = t ∨ (if c then t else u) = u := by
  by_cases h : c
  · exact .inl (if_pos h)
  · exact .inr (if_neg h)

theorem State.holdUpdate_eq (s : State) : s.holdUpdate = s ∨ ∃ h, s.holdUpdate = s.holdTo h :=
  (State.ite_eq_or _ _ _).imp_right fun h => ⟨_, h⟩

theorem State.holdTo_built (s : State) (h : Bool) : s.Built (s.holdTo h) :=
  ⟨⟨by simp [State.holdTo], by simp [State.holdTo, FmuSt.ring], by simp [State.holdTo]⟩, by simp [State.holdTo], by simp [State.holdTo]⟩

theorem State.holdUpdate_built (s : State) : s.Built s.holdUpdate := by
  obtain h | ⟨h, he⟩ := s.holdUpdate_eq
  · rw [h]; exact .refl s
  · rw [he]; exact s.holdTo_built h

theorem State.putRecord_built (s : State) (r : RecPart) (body : List Fld) : s.Built (s.putRecord r body) := by
  unfold State.putRecord
  dsimp only
  split
  case isTrue => exact ⟨⟨by simp, by simp [FmuSt.ring], by simp⟩, by simp, by simp⟩
  case isFalse =>
    have hchained : ∀ (x : Flit) (seq : Nat) (prev : Bytes),
        s.Built ((s.modFmu fun f => { f with buf := f.buf ++ [x], seq := seq, prev := prev, lost := 0 }).bump pgMETER 0x058 1) :=
      fun x seq prev => ⟨⟨by simp, by simp [FmuSt.ring], by simp⟩, by simp, by simp⟩
    have hcopied : ∀ (u : State) (v : Tbl VfRing) (l : Tbl Nat), u.Built (u.modFmu fun f => { f with vf := v, vfLost := l }) :=
      fun u v l => ⟨⟨rfl, rfl, List.prefix_rfl⟩, rfl, rfl⟩
    split
    · exact hchained _ _ _
    · split
      · exact hchained _ _ _
      · split
        · exact (hchained _ _ _).trans (hcopied _ _ _)
        · exact (hchained _ _ _).trans (hcopied _ _ _)

theorem State.buildRecord_built (s : State) (r : RecPart) (body : List Fld) : s.Built (s.buildRecord r body) := by
  have hfirst : s.Built (if s.fmu.seq = 0 then s.meterFirst else s) := by
    split
    · exact s.putRecord_built _ _
    · exact .refl s
  exact (hfirst.trans (State.putRecord_built _ r body)).trans (State.holdUpdate_built _)

theorem State.each_built {α : Type} (l : List α) (f : State → α → State) (hf : ∀ (s : State) (x : α), s.Built (f s x)) :
    ∀ s : State, s.Built (s.each l f) := by
  induction l with
  | nil => exact .refl
  | cons x r ih => exact fun s => (hf s x).trans (ih (f s x))

/-! ### Windows closed before a command (R386) -/

theorem FmuSt.count_buf_ring (f : FmuSt) (p : Nat) (st : W32) (e : W64) (g : FCounts → FCounts) :
    (f.count p st e g).buf = f.buf ∧ (f.count p st e g).ring = f.ring := by
  unfold FmuSt.count
  split
  · dsimp only
    split <;> exact ⟨rfl, rfl⟩
  · exact ⟨rfl, rfl⟩

theorem FmuSt.closeRun_buf_ring (f : FmuSt) (r : EdgeRun) :
    (f.closeRun r).buf = f.buf ∧ (f.closeRun r).ring = f.ring := by
  unfold FmuSt.closeRun
  split
  · exact f.count_buf_ring _ _ _ _
  · exact ⟨rfl, rfl⟩

theorem FmuSt.foldl_closeRun_buf_ring (l : List EdgeRun) :
    ∀ f : FmuSt, (l.foldl FmuSt.closeRun f).buf = f.buf ∧ (l.foldl FmuSt.closeRun f).ring = f.ring := by
  induction l with
  | nil => exact fun _ => ⟨rfl, rfl⟩
  | cons r l ih =>
    intro f
    obtain ⟨hbuf, hring⟩ := f.closeRun_buf_ring r
    obtain ⟨ihbuf, ihring⟩ := ih (f.closeRun r)
    exact ⟨ihbuf.trans hbuf, ihring.trans hring⟩

theorem FmuSt.closeRuns_buf_ring (f : FmuSt) (p : EdgeRun → Bool) :
    (f.closeRuns p).buf = f.buf ∧ (f.closeRuns p).ring = f.ring :=
  FmuSt.foldl_closeRun_buf_ring _ f

theorem State.latchUnbound_built (s : State) : s.Built s.latchUnbound := by
  unfold State.latchUnbound
  split
  · exact .of_eq rfl rfl
  · exact .refl s

theorem State.closeWindow_logged (s : State) : s.Logged s.closeWindow := by
  unfold State.closeWindow
  extract_lets s0 f lates own s1 s2 toks s3
  have hruns : s.Logged s0 := by
    obtain ⟨hbuf, hring⟩ := s.fmu.closeRuns_buf_ring fun _ => true
    exact .modFmu _ _ hring (hbuf ▸ List.prefix_rfl)
  have hlates : s0.Built s1 := State.each_built _ _ (fun _ _ => State.buildRecord_built _ _ _) _
  have hown : s1.Built s2 := State.each_built _ _ (fun _ _ => State.buildRecord_built _ _ _) _
  have hwindow : s2.Built s3 := State.buildRecord_built _ _ _
  have hlatch : s3.Built (s3.latch fun k => k == pgMETER) := .of_eq (by simp) (by simp)
  have hrecords := (((hlates.trans hown).trans hwindow).trans hlatch).trans (State.latchUnbound_built _)
  refine (hruns.trans hrecords.toLogged).trans ?_
  generalize State.latchUnbound _ = u
  exact .modFmu u _ rfl List.prefix_rfl

theorem State.openWindow_logged (s : State) (t : Nat) (edge : Bool) : s.Logged (s.modFmu fun f => f.openWindow t edge) :=
  .modFmu s _ rfl List.prefix_rfl

/-- A window that closes restarts its count of acknowledgements, which its WINDOW record has stated (Table 17.5). -/
theorem State.closeWindow_acks (s : State) : s.closeWindow.fmu.acks = 0 := by
  unfold State.closeWindow
  extract_lets
  rfl

theorem FmuSt.openWindow_acks (f : FmuSt) (t : Nat) (edge : Bool) : (f.openWindow t edge).acks = f.acks := rfl

/-- The window that opens at an edge has no acknowledgement yet. -/
theorem State.closeWindow_openWindow_acks (s : State) (t : Nat) (edge : Bool) :
    (s.closeWindow.modFmu fun f => f.openWindow t edge).fmu.acks = 0 := by
  rw [State.modFmu_fmu, FmuSt.openWindow_acks, State.closeWindow_acks]

theorem State.edgesFirst_logged (n : Nat) : ∀ s : State, s.Logged (s.edgesFirst n) := by
  induction n with
  | zero => exact fun s => (State.Built.refl s).toLogged
  | succ n ih =>
    intro s
    rw [State.edgesFirst]
    split
    · exact (s.closeWindow_logged.trans (State.openWindow_logged _ _ _)).trans (ih _)
    · exact (State.Built.refl s).toLogged

/-- Edges that are met leave no acknowledgement counted where none was. -/
theorem State.edgesFirst_acks_of_zero (n : Nat) : ∀ s : State, s.fmu.acks = 0 → (s.edgesFirst n).fmu.acks = 0 := by
  induction n with
  | zero => exact fun _ h => h
  | succ n ih =>
    intro s h
    rw [State.edgesFirst]
    split
    · exact ih _ (s.closeWindow_openWindow_acks _ _)
    · exact h

/-- Where house time has reached the end of the window in progress, that window is closed first, with its count. -/
theorem State.edgesFirst_acks_of_reached (s : State) (n : Nat) (hseen : s.fmu.tapSeen = true)
    (he : s.fmu.winEnd ≤ s.fmu.tapNow.toNat) : (s.edgesFirst (n + 1)).fmu.acks = 0 := by
  rw [State.edgesFirst, if_pos ⟨hseen, he⟩]
  exact State.edgesFirst_acks_of_zero n _ (s.closeWindow_openWindow_acks _ _)

/-! ### Commands (R392) -/

theorem State.meterCmd_of_rf_eq {s t : State} (h : t.rf = s.rf) : t.meterCmd = s.meterCmd := by
  unfold State.meterCmd State.rgN State.rg
  rw [h]

/-- METER.CMD_GO with a known command whose reserved bytes are zero: the edges that house time has reached come first, then the
command's result and effect, and at most an AUDIT record after it. -/
theorem State.meterGo_built (s : State) {res : Nat} {f : FmuSt} (hz : cmdZero s.meterCmd = true)
    (hk : 1 ≤ byteFld s.meterCmd 0 1 ∧ byteFld s.meterCmd 0 1 ≤ 8) (hc : (s.edgesFirst 64).fmu.command s.meterCmd = (res, f)) :
    ((s.edgesFirst 64).modFmu fun _ => { f with cmdRes := BitVec.ofNat 8 res }).Built s.meterGo := by
  have hcmd := State.meterCmd_of_rf_eq (s.edgesFirst_logged 64).rf
  have hknown : ¬(byteFld s.meterCmd 0 1 = 0 ∨ 8 < byteFld s.meterCmd 0 1) := by omega
  unfold State.meterGo
  dsimp only
  rw [hcmd, if_neg hknown, hz, hc]
  simp only [Bool.not_true, Bool.false_eq_true, if_false]
  refine State.Built.trans ?_ (State.holdUpdate_built _)
  split
  · exact .refl _
  · exact State.buildRecord_built _ _ _

theorem State.meterGoOf_eq (s : State) (k : Nat) (hon : s.fmuOn = true) (hup : s.up = true) (hk : byteFld s.meterCmd 0 1 = k) :
    s.meterGoOf k = .next s.meterGo := by
  simp [State.meterGoOf, whenOk, hon, hup, hk]

theorem exec_ringSet (s : State) (hon : s.fmuOn = true) (hup : s.up = true) (hk : byteFld s.meterCmd 0 1 = 4) :
    exec .ringSet s = .next s.meterGo := by
  change s.meterGoOf 4 = _
  exact s.meterGoOf_eq 4 hon hup hk

theorem exec_ringAck (s : State) (hon : s.fmuOn = true) (hup : s.up = true) (hk : byteFld s.meterCmd 0 1 = 5) :
    exec .ringAck s = .next s.meterGo := by
  change s.meterGoOf 5 = _
  exact s.meterGoOf_eq 5 hon hup hk

/-! ### RING_ACK (R393) -/

/-- A ring index `h` whose distance from `head` is at most that of `tail` is one of those from `head` to `tail`. -/
theorem ring_index_eq (n head h : Nat) (hh : h < n) (hhead : head < n) : h = (head + (h + n - head) % n) % n := by
  rw [Nat.add_mod_mod, show head + (h + n - head) = h + n by omega, Nat.add_mod_right, Nat.mod_eq_of_lt hh]

/-- RING_ACK of a head outside the records written is refused with BAD_ARG and changes nothing. -/
theorem FmuSt.command_ringAck_outside (f : FmuSt) (c : Desc) (hk : byteFld c 0 1 = 5) (hhead : f.ringHead < f.ringSize)
    (hout : ∀ j, j ≤ (f.ringTail + f.ringSize - f.ringHead) % f.ringSize → byteFld c 8 4 ≠ (f.ringHead + j) % f.ringSize) :
    f.command c = (1, f) := by
  have hmax : max 1 f.ringSize = f.ringSize := by omega
  have hbad : ¬(byteFld c 8 4 < f.ringSize ∧
      (byteFld c 8 4 + f.ringSize - f.ringHead) % f.ringSize ≤ (f.ringTail + f.ringSize - f.ringHead) % f.ringSize) :=
    fun ⟨hh, hle⟩ => hout _ hle (ring_index_eq _ _ _ hh hhead)
  simp [FmuSt.command, hk, hmax, hbad]

/-- What holds of a RING_ACK outside the records written: BAD_ARG, and head, tail and count are those that the window edges due before
the command leave. -/
theorem exec_ringAck_outside (s : State) (hon : s.fmuOn = true) (hup : s.up = true) (hz : cmdZero s.meterCmd = true)
    (hk : byteFld s.meterCmd 0 1 = 5) (hhead : s.fmu.ringHead < s.fmu.ringSize)
    (hout : ∀ j, j ≤ (s.fmu.ringTail + s.fmu.ringSize - s.fmu.ringHead) % s.fmu.ringSize →
      byteFld s.meterCmd 8 4 ≠ (s.fmu.ringHead + j) % s.fmu.ringSize) :
    ∃ t, exec .ringAck s = .next t ∧ t.fmu.cmdRes = 1 ∧ t.fmu.ring = s.fmu.ring ∧ t.fmu.acks = (s.edgesFirst 64).fmu.acks := by
  have hedge := s.edgesFirst_logged 64
  have hring := hedge.ring
  simp only [FmuSt.ring, Prod.mk.injEq] at hring
  obtain ⟨-, hsize, -, htail, hhd, -⟩ := hring
  have hcmd : (s.edgesFirst 64).fmu.command s.meterCmd = (1, (s.edgesFirst 64).fmu) :=
    FmuSt.command_ringAck_outside _ _ hk (by rwa [hhd, hsize]) (by rwa [htail, hhd, hsize])
  have hgo := s.meterGo_built hz (by omega) hcmd
  exact ⟨_, exec_ringAck s hon hup hk, hgo.cmdRes, hgo.ring.trans hedge.ring, hgo.acks⟩

/-- A ring of 1,024 entries with records 3 to 11 written and three acknowledgements counted; METER.CMD holds a RING_ACK of head 100, and
house time has reached the end of the window in progress, of 1,000 ms. -/
def ackPastEdge : State :=
  ({ State.reset with
      boot := { BootSt.reset with perst := false },
      fmu := { FmuSt.reset with ringSet := true, ringSize := 1024, ringHead := 3, ringTail := 12, acks := 3, tapSeen := true,
                                tapNow := 1000000000 } }.setRg pgMETER 0x300 5).setRg pgMETER 0x308 100

/-- Refutes O58: window edges that house time has reached come before the command, and closing the window restarts its count of
acknowledgements. A refused RING_ACK of `ackPastEdge` leaves 0 where 3 stood. -/
theorem not_ringAckOutsideIsRefused : ¬ Obligations.RingAckOutsideIsRefused := by
  unfold Obligations.RingAckOutsideIsRefused
  intro h
  have hon : ackPastEdge.fmuOn = true := by decide
  have hup : ackPastEdge.up = true := by decide
  have hz : cmdZero ackPastEdge.meterCmd = true := by decide +kernel
  have hk : byteFld ackPastEdge.meterCmd 0 1 = 5 := by decide +kernel
  have hout : ∀ j, j ≤ (ackPastEdge.fmu.ringTail + ackPastEdge.fmu.ringSize - ackPastEdge.fmu.ringHead) % ackPastEdge.fmu.ringSize →
      byteFld ackPastEdge.meterCmd 8 4 ≠ (ackPastEdge.fmu.ringHead + j) % ackPastEdge.fmu.ringSize := by decide +kernel
  obtain ⟨t, ht, -, -, -, hacks⟩ := h ackPastEdge hon hup hz hk rfl (by decide) (by decide) hout
  obtain ⟨u, hu, -, -, hzero⟩ := exec_ringAck_outside ackPastEdge hon hup hz hk (by decide) hout
  rw [ackPastEdge.edgesFirst_acks_of_reached 63 rfl (by decide)] at hzero
  obtain rfl : t = u := Host.Outcome.next.inj (ht.symm.trans hu)
  exact absurd (hacks.symm.trans hzero) (by decide)

/-! ### RING_SET and RECORD_WRITE (R388, R391) -/

/-- RING_SET with good arguments sets every register of the ring and leaves the buffer. -/
theorem FmuSt.command_ringSet (f : FmuSt) (c : Desc) (hk : byteFld c 0 1 = 4) (hok : ringOk c = true) :
    f.command c = (0, { f with
      ringBase := BitVec.ofNat 64 (byteFld c 8 8), ringSize := byteFld c 16 4, ringTailAddr := BitVec.ofNat 64 (byteFld c 24 8),
      ringTail := 0, ringHead := 0, ringSet := true, ringFault := false, stopped := false }) := by
  simp [FmuSt.command, hk, hok]

theorem State.msix_out (s : State) (fn : Fn) (vec : Nat) : s.out <+: (s.msix fn vec).out := by
  unfold State.msix
  dsimp only
  split <;> simp

theorem State.raise_out (s : State) (k b : Nat) : s.out <+: (s.raise k b).out := by
  unfold State.raise State.modIrq
  split
  · unfold State.irqUpdate
    dsimp only
    split
    · refine List.IsPrefix.trans ?_ (State.msix_out _ _ _)
      simp
    · simp
  · simp

theorem State.holdUpdate_out (s : State) : s.out <+: s.holdUpdate.out := by
  obtain h | ⟨h, he⟩ := s.holdUpdate_eq
  · exact ⟨[], by rw [h, List.append_nil]⟩
  · have hset : ∀ (f : FmuSt → FmuSt) (g : EmitSt → EmitSt), s.out <+: ((s.modFmu f).modEmit g).out := by simp
    rw [he]
    exact ((hset _ _).trans (State.raise_out _ pgMETER 4)).trans (State.raise_out _ (pk tEMIT 0) 0)

theorem State.hostWrite_out_of_bme (s : State) (fn : Fn) (a : Nat) (b : Bytes) (h : s.bme fn = true) :
    (s.hostWrite fn a b).out = s.out ++ [.hostWrite fn a b false false] := by
  simp [State.hostWrite, State.hostIssue, h]

theorem State.hostWrite_out (s : State) (fn : Fn) (a : Nat) (b : Bytes) : s.out <+: (s.hostWrite fn a b).out := by
  unfold State.hostWrite State.hostIssue
  split <;> simp

theorem State.holdUpdate_buf (s : State) : s.holdUpdate.fmu.buf = s.fmu.buf := by
  obtain h | ⟨h, he⟩ := s.holdUpdate_eq
  · rw [h]
  · rw [he]; simp [State.holdTo]

/-- RECORD_WRITE where nothing hinders it: the oldest record `x` leaves the buffer and is the first thing sent, to the ring's tail. -/
theorem exec_recordWrite (x : Flit) (rest : List Flit) (s : State) (hon : s.fmuOn = true) (hup : s.up = true) (hbuf : s.fmu.buf = x :: rest)
    (hset : s.fmu.ringSet = true) (hfault : s.fmu.ringFault = false) (hstop : s.fmu.stopped = false) (hbme : s.bme .pf = true)
    (hwf : s.writeFaults .pf false = false) (hroom : (s.fmu.ringTail + 1) % max 1 s.fmu.ringSize ≠ s.fmu.ringHead) :
    ∃ t, exec (.recordWrite false) s = .next t ∧ t.fmu.buf = rest ∧
      s.out ++ [.hostWrite .pf (s.fmu.ringBase.toNat + 256 * s.fmu.ringTail) (leBytes 256 x.toNat) false false] <+: t.out := by
  change ∃ t, execRecordWrite false s = .next t ∧ _
  simp only [execRecordWrite, hon, hup, hbuf, hset, hfault, hstop, hbme, hwf, beq_eq_false_iff_ne.mpr hroom, Bool.not_true, Bool.or_false,
    Bool.false_eq_true, if_false]
  refine ⟨_, rfl, by simp [State.holdUpdate_buf], ?_⟩
  rw [← State.hostWrite_out_of_bme s .pf _ _ hbme]
  refine List.IsPrefix.trans (State.hostWrite_out _ .pf s.fmu.ringTailAddr.toNat
    (leBytes 8 ((s.fmu.ringTail + 1) % max 1 s.fmu.ringSize))) (List.IsPrefix.trans ?_ (State.holdUpdate_out _))
  simp

/-- Settles O59: what is buffered when RING_SET comes stays in front of what window edges and the AUDIT record append, and a record
write takes the front. -/
theorem ringSetStartsTheNewRing : Obligations.RingSetStartsTheNewRing := by
  unfold Obligations.RingSetStartsTheNewRing
  refine ⟨?set, ?write⟩
  case set =>
    intro s hon hup hz hk hok
    have hgo := s.meterGo_built hz (by omega) (FmuSt.command_ringSet _ _ hk hok)
    obtain ⟨l, hl⟩ := (s.edgesFirst_logged 64).buf.trans hgo.buf
    have hring := hgo.ring
    simp only [FmuSt.ring, State.modFmu_fmu, Prod.mk.injEq] at hring
    obtain ⟨hbase, hsize, haddr, htail, hhead, hset⟩ := hring
    exact ⟨_, l, exec_ringSet s hon hup hk, hhead, htail, hset, hbase, hsize, haddr, hl.symm⟩
  case write =>
    intro x rest s hon hup hbuf hset hfault hstop hbme hwf hroom
    obtain ⟨t, ht, hrest, hout⟩ := exec_recordWrite x rest s hon hup hbuf hset hfault hstop hbme hwf hroom
    obtain ⟨more, hmore⟩ := hout
    exact ⟨t, more, ht, hrest, hmore.symm⟩

end Sys2Proof.Machine
end
